-- ==== Sys2Proof/Word.lean ====
section
/-! DEFINITION. The word types of the X816: an instruction word is 32 bits (R68), a scalar 64 bits (R22), a byte 8. -/

namespace Sys2Proof

abbrev Byte := BitVec 8
abbrev Word32 := BitVec 32
abbrev Word := BitVec 64

end Sys2Proof
end

