-- ==== Sys2Proof/Syntax.lean ====
section
/-! DEFINITION. The steps of the X816: one constructor for each row of spec/opcode_table.json.
The first 216 are the encoded instructions (R69 to R81); their arguments are the fields of the word, by the table's names:
d, a, b are 7-bit name fields (R71), lastA and lastB the last-use bits (R72).
The rest are the steps the table lists without an encoding; their arguments say where the step happens and what the
outside world supplies. -/

namespace Sys2Proof

/-- A 7-bit name field (R71): 0-7 v, 8-15 k, 16-23 p, 24 z, 25-31 reserved, 32-127 s. -/
abbrev NameF := BitVec 7

/-- What an invalidation selects (R228). -/
inductive InvSel where
  | va (asid va : Nat)
  | tok (token : BitVec 64)
  | all
  deriving DecidableEq, Repr

/-- The eleven read-modify-write operations (R219, R221) and the grant of CLAIM (R224). -/
inductive AtomicOp where
  | add | inc | mins | maxs | minn | maxn | and | or | xor | xchg | cas | claim
  deriving DecidableEq, Repr

/-- An atomic as a peer asks for it: its operation, and for every operation but CLAIM whether its word is 32 bits (R310). -/
structure PeerAtomic where
  op  : AtomicOp
  w32 : Bool
  deriving DecidableEq, Repr

/-- A detent: the slot of its copy, and the core it stands at (R316). -/
structure Detent where
  slot : Nat
  at_  : Nat
  deriving DecidableEq, Repr

/-- A patch or runtime image as the keyholder receives it (R403). -/
structure Image where
  magic : BitVec 32
  kind  : BitVec 16
  svn   : BitVec 16
  len   : BitVec 64
  rsvd  : BitVec 384
  modulus : BitVec 4096
  body  : List (BitVec 8)
  sig   : BitVec 4096
  deriving DecidableEq, Repr

inductive Instr where
  | add (d : NameF) (a : NameF) (b : NameF)
  | sub (d : NameF) (a : NameF) (b : NameF)
  | and (d : NameF) (a : NameF) (b : NameF)
  | or (d : NameF) (a : NameF) (b : NameF)
  | xor (d : NameF) (a : NameF) (b : NameF)
  | andn (d : NameF) (a : NameF) (b : NameF)
  | shl (d : NameF) (a : NameF) (b : NameF)
  | shr (d : NameF) (a : NameF) (b : NameF)
  | sar (d : NameF) (a : NameF) (b : NameF)
  | rol (d : NameF) (a : NameF) (b : NameF)
  | mul (d : NameF) (a : NameF) (b : NameF)
  | mulhs (d : NameF) (a : NameF) (b : NameF)
  | mulhn (d : NameF) (a : NameF) (b : NameF)
  | divs (d : NameF) (a : NameF) (b : NameF)
  | divn (d : NameF) (a : NameF) (b : NameF)
  | rems (d : NameF) (a : NameF) (b : NameF)
  | remn (d : NameF) (a : NameF) (b : NameF)
  | mins (d : NameF) (a : NameF) (b : NameF)
  | maxs (d : NameF) (a : NameF) (b : NameF)
  | minn (d : NameF) (a : NameF) (b : NameF)
  | maxn (d : NameF) (a : NameF) (b : NameF)
  | clz (d : NameF) (a : NameF)
  | ctz (d : NameF) (a : NameF)
  | popc (d : NameF) (a : NameF)
  | bswap (d : NameF) (a : NameF)
  | seq (d : NameF) (a : NameF) (b : NameF)
  | sne (d : NameF) (a : NameF) (b : NameF)
  | slts (d : NameF) (a : NameF) (b : NameF)
  | sltn (d : NameF) (a : NameF) (b : NameF)
  | sles (d : NameF) (a : NameF) (b : NameF)
  | slen (d : NameF) (a : NameF) (b : NameF)
  | sel (d : NameF) (a : NameF) (b : NameF)
  | extsX8 (d : NameF) (a : NameF)
  | extsX16 (d : NameF) (a : NameF)
  | extsX32 (d : NameF) (a : NameF)
  | extzN8 (d : NameF) (a : NameF)
  | extzN16 (d : NameF) (a : NameF)
  | extzN32 (d : NameF) (a : NameF)
  | bfx (d : NameF) (a : NameF) (b : NameF)
  | bfi (d : NameF) (a : NameF) (b : NameF)
  | faddS (d : NameF) (a : NameF) (b : NameF)
  | fsubS (d : NameF) (a : NameF) (b : NameF)
  | fmulS (d : NameF) (a : NameF) (b : NameF)
  | fdivS (d : NameF) (a : NameF) (b : NameF)
  | fminS (d : NameF) (a : NameF) (b : NameF)
  | fmaxS (d : NameF) (a : NameF) (b : NameF)
  | fcmpS (d : NameF) (a : NameF) (b : NameF)
  | ffmaS (d : NameF) (a : NameF) (b : NameF)
  | faddD (d : NameF) (a : NameF) (b : NameF)
  | fsubD (d : NameF) (a : NameF) (b : NameF)
  | fmulD (d : NameF) (a : NameF) (b : NameF)
  | fdivD (d : NameF) (a : NameF) (b : NameF)
  | fminD (d : NameF) (a : NameF) (b : NameF)
  | fmaxD (d : NameF) (a : NameF) (b : NameF)
  | fcmpD (d : NameF) (a : NameF) (b : NameF)
  | ffmaD (d : NameF) (a : NameF) (b : NameF)
  | fsqrt (d : NameF) (a : NameF) (dbl : Bool)
  | frsqe (d : NameF) (a : NameF) (dbl : Bool)
  | frcpe (d : NameF) (a : NameF) (dbl : Bool)
  | fclass (d : NameF) (a : NameF) (dbl : Bool)
  | fcvt (d : NameF) (a : NameF) (s : BitVec 4)
  | addi (d : NameF) (a : NameF) (i : BitVec 12)
  | andi (d : NameF) (a : NameF) (i : BitVec 12)
  | ori (d : NameF) (a : NameF) (i : BitVec 12)
  | xori (d : NameF) (a : NameF) (i : BitVec 12)
  | shli (d : NameF) (a : NameF) (i : BitVec 6)
  | shri (d : NameF) (a : NameF) (i : BitVec 6)
  | sari (d : NameF) (a : NameF) (i : BitVec 6)
  | sltsi (d : NameF) (a : NameF) (i : BitVec 12)
  | sltni (d : NameF) (a : NameF) (i : BitVec 12)
  | movi (d : NameF) (i : BitVec 17)
  | lui (d : NameF) (i : BitVec 17)
  | addpc (d : NameF) (i : BitVec 17)
  | call (d : NameF) (i : BitVec 19)
  | bEqz (a : NameF) (o : BitVec 16)
  | bNez (a : NameF) (o : BitVec 16)
  | bLtz (a : NameF) (o : BitVec 16)
  | bGez (a : NameF) (o : BitVec 16)
  | bGtz (a : NameF) (o : BitVec 16)
  | bLez (a : NameF) (o : BitVec 16)
  | bAny (a : NameF) (o : BitVec 16)
  | bAll (a : NameF) (o : BitVec 16)
  | br (o : BitVec 16)
  | loop (a : NameF) (l : BitVec 11)
  | sloop (d : NameF) (a : NameF) (l : BitVec 11)
  | swin (n : BitVec 5)
  | vcfg (c : BitVec 2)
  | vshapeImm (j : BitVec 4) (i : BitVec 4)
  | act (d : NameF) (a : NameF) (t : BitVec 4)
  | actz (d : NameF) (a : NameF) (t : BitVec 4)
  | refImm (n : BitVec 4)
  | ld (d : NameF) (a : NameF) (f : BitVec 3) (i : BitVec 9)
  | st (d : NameF) (a : NameF) (f : BitVec 2) (i : BitVec 9)
  | stRel (d : NameF) (a : NameF) (f : BitVec 2) (i : BitVec 9)
  | ldAcq (d : NameF) (a : NameF) (f : BitVec 3) (i : BitVec 9)
  | ldc (d : NameF) (a : NameF) (i : BitVec 10)
  | pfetch (d : NameF) (a : NameF) (i : BitVec 10)
  | vadd (lastA : Bool) (lastB : Bool) (d : NameF) (a : NameF) (b : NameF)
  | vsub (lastA : Bool) (lastB : Bool) (d : NameF) (a : NameF) (b : NameF)
  | vmul (lastA : Bool) (lastB : Bool) (d : NameF) (a : NameF) (b : NameF)
  | vfma (lastA : Bool) (lastB : Bool) (d : NameF) (a : NameF) (b : NameF)
  | vfms (lastA : Bool) (lastB : Bool) (d : NameF) (a : NameF) (b : NameF)
  | vfnma (lastA : Bool) (lastB : Bool) (d : NameF) (a : NameF) (b : NameF)
  | vabs (lastA : Bool) (d : NameF) (a : NameF)
  | vneg (lastA : Bool) (d : NameF) (a : NameF)
  | vand (lastA : Bool) (lastB : Bool) (d : NameF) (a : NameF) (b : NameF)
  | vor (lastA : Bool) (lastB : Bool) (d : NameF) (a : NameF) (b : NameF)
  | vxor (lastA : Bool) (lastB : Bool) (d : NameF) (a : NameF) (b : NameF)
  | vandn (lastA : Bool) (lastB : Bool) (d : NameF) (a : NameF) (b : NameF)
  | vshl (lastA : Bool) (lastB : Bool) (d : NameF) (a : NameF) (b : NameF)
  | vshr (lastA : Bool) (lastB : Bool) (d : NameF) (a : NameF) (b : NameF)
  | vsar (lastA : Bool) (lastB : Bool) (d : NameF) (a : NameF) (b : NameF)
  | vsel (lastA : Bool) (lastB : Bool) (d : NameF) (a : NameF) (b : NameF)
  | vmin (lastA : Bool) (lastB : Bool) (d : NameF) (a : NameF) (b : NameF)
  | vminX (lastA : Bool) (lastB : Bool) (d : NameF) (a : NameF) (b : NameF)
  | vminN (lastA : Bool) (lastB : Bool) (d : NameF) (a : NameF) (b : NameF)
  | vmax (lastA : Bool) (lastB : Bool) (d : NameF) (a : NameF) (b : NameF)
  | vmaxX (lastA : Bool) (lastB : Bool) (d : NameF) (a : NameF) (b : NameF)
  | vmaxN (lastA : Bool) (lastB : Bool) (d : NameF) (a : NameF) (b : NameF)
  | vmulw (lastA : Bool) (lastB : Bool) (d : NameF) (a : NameF) (b : NameF)
  | vmulwX (lastA : Bool) (lastB : Bool) (d : NameF) (a : NameF) (b : NameF)
  | vmulwN (lastA : Bool) (lastB : Bool) (d : NameF) (a : NameF) (b : NameF)
  | vmerge (lastA : Bool) (d : NameF) (a : NameF) (b : NameF)
  | vrsqe (lastA : Bool) (d : NameF) (a : NameF)
  | vrcpe (lastA : Bool) (d : NameF) (a : NameF)
  | vexp2e (lastA : Bool) (d : NameF) (a : NameF)
  | viota (lastA : Bool) (d : NameF) (a : NameF)
  | vbcast (lastA : Bool) (d : NameF) (a : NameF) (b : NameF)
  | vclr (lastA : Bool) (d : NameF) (a : NameF)
  | vins (d : NameF) (a : NameF) (b : NameF)
  | vext (lastA : Bool) (d : NameF) (a : NameF) (b : NameF)
  | vslideUp (lastA : Bool) (d : NameF) (a : NameF) (b : NameF)
  | vslideDn (lastA : Bool) (d : NameF) (a : NameF) (b : NameF)
  | vperm (lastA : Bool) (lastB : Bool) (d : NameF) (a : NameF) (b : NameF)
  | vcopy (lastA : Bool) (d : NameF) (a : NameF)
  | vshape (a : NameF) (b : NameF)
  | pmovs (d : NameF) (a : NameF) (b : NameF)
  | vred (lastA : Bool) (d : NameF) (a : NameF) (s : BitVec 7)
  | vcmpEq (lastA : Bool) (lastB : Bool) (d : NameF) (a : NameF) (b : NameF)
  | vcmpNe (lastA : Bool) (lastB : Bool) (d : NameF) (a : NameF) (b : NameF)
  | vcmpLt (lastA : Bool) (lastB : Bool) (d : NameF) (a : NameF) (b : NameF)
  | vcmpLe (lastA : Bool) (lastB : Bool) (d : NameF) (a : NameF) (b : NameF)
  | vcmpUn (lastA : Bool) (lastB : Bool) (d : NameF) (a : NameF) (b : NameF)
  | vcmpLtX (lastA : Bool) (lastB : Bool) (d : NameF) (a : NameF) (b : NameF)
  | vcmpLeX (lastA : Bool) (lastB : Bool) (d : NameF) (a : NameF) (b : NameF)
  | vcmpLtN (lastA : Bool) (lastB : Bool) (d : NameF) (a : NameF) (b : NameF)
  | vcmpLeN (lastA : Bool) (lastB : Bool) (d : NameF) (a : NameF) (b : NameF)
  | vcvt (lastA : Bool) (d : NameF) (a : NameF) (r : BitVec 3) (t : BitVec 4)
  | vcvtX (lastA : Bool) (d : NameF) (a : NameF) (r : BitVec 3) (t : BitVec 4)
  | vcvtN (lastA : Bool) (d : NameF) (a : NameF) (r : BitVec 3) (t : BitVec 4)
  | vscl (lastA : Bool) (d : NameF) (a : NameF) (b : NameF)
  | pand (d : NameF) (a : NameF) (b : NameF)
  | por (d : NameF) (a : NameF) (b : NameF)
  | pxor (d : NameF) (a : NameF) (b : NameF)
  | pandn (d : NameF) (a : NameF) (b : NameF)
  | pnot (d : NameF) (a : NameF)
  | pcnt (d : NameF) (a : NameF)
  | pfirst (d : NameF) (a : NameF)
  | pset (d : NameF) (a : NameF)
  | shuf (lastA : Bool) (d : NameF) (a : NameF) (b : NameF)
  | shufx (lastA : Bool) (d : NameF) (a : NameF) (b : NameF)
  | gbcast (lastA : Bool) (d : NameF) (a : NameF) (b : NameF)
  | gbar
  | gsplit (a : NameF) (b : NameF)
  | gjoin
  | gsync
  | gred (lastA : Bool) (d : NameF) (a : NameF) (s : BitVec 7)
  | wb (d : NameF)
  | pre (d : NameF)
  | rcopy (d : NameF) (a : NameF)
  | tag (d : NameF) (t : BitVec 4)
  | saverow (d : NameF) (a : NameF) (b : NameF)
  | loadrow (d : NameF) (a : NameF) (b : NameF)
  | refScalar (a : NameF)
  | mshape (d : NameF) (a : NameF)
  | mzero (d : NameF)
  | mmf (lastA : Bool) (lastB : Bool) (d : NameF) (a : NameF) (b : NameF)
  | mmfO (lastA : Bool) (lastB : Bool) (d : NameF) (a : NameF) (b : NameF)
  | mwait
  | mstat (d : NameF) (a : NameF)
  | cset (a : NameF) (s : BitVec 7)
  | cgo (d : NameF)
  | cwait (d : NameF) (a : NameF)
  | cstat (d : NameF) (a : NameF)
  | ccancel (a : NameF)
  | cresume (a : NameF)
  | aadd (d : NameF) (a : NameF) (w32 : Bool) (o : BitVec 2) (c : BitVec 3)
  | ainc (d : NameF) (a : NameF) (w32 : Bool) (o : BitVec 2) (c : BitVec 3)
  | amins (d : NameF) (a : NameF) (w32 : Bool) (o : BitVec 2) (c : BitVec 3)
  | amaxs (d : NameF) (a : NameF) (w32 : Bool) (o : BitVec 2) (c : BitVec 3)
  | aminn (d : NameF) (a : NameF) (w32 : Bool) (o : BitVec 2) (c : BitVec 3)
  | amaxn (d : NameF) (a : NameF) (w32 : Bool) (o : BitVec 2) (c : BitVec 3)
  | aand (d : NameF) (a : NameF) (w32 : Bool) (o : BitVec 2) (c : BitVec 3)
  | aor (d : NameF) (a : NameF) (w32 : Bool) (o : BitVec 2) (c : BitVec 3)
  | axor (d : NameF) (a : NameF) (w32 : Bool) (o : BitVec 2) (c : BitVec 3)
  | axchg (d : NameF) (a : NameF) (w32 : Bool) (o : BitVec 2) (c : BitVec 3)
  | acas (d : NameF) (a : NameF) (w32 : Bool) (o : BitVec 2) (c : BitVec 3)
  | fence (s : BitVec 3)
  | fenceC (s : BitVec 3)
  | claim (d : NameF) (a : NameF) (b : NameF)
  | mfc (d : NameF) (c : BitVec 7)
  | mtc (a : NameF) (c : BitVec 7)
  | trap (c : BitVec 7)
  | eret
  | tlbinvVa (a : NameF)
  | tlbinvTok (a : NameF)
  | tlbinvAll
  | trace (a : NameF)
  | jr (a : NameF)
  | exit
  | yield
  | nop
  | brk
  | waitwEq (d : NameF) (a : NameF)
  | waitwNe (d : NameF) (a : NameF)
  | waitwGe (d : NameF) (a : NameF)
  | illegalInstruction (w : BitVec 32)
  | asyncTrapEntry
  | yieldExpiry (id : Nat)
  | elementGroup (bank : Nat)
  | rowOperationStart (core bank : Nat)
  | refreshSlot (core bank : Nat)
  | refreshAccrual (tier : Nat)
  | forcedRefresh (core bank : Nat)
  | selfRefreshSlot (core bank : Nat)
  | refreshBandCooling (tier : Nat)
  | thermalHeating (tier temp : Nat)
  | thermalCooling (tier temp : Nat)
  | governorInterval (hprev : Nat) (used : List Nat)
  | governorCheck (stack proj hottest : Nat)
  | powerBrake (asserted : Bool)
  | haspOverheat
  | launchRecord (queue : Nat)
  | prerequisiteWake (seq : Nat)
  | launchDispatch
  | launchCompletion (seq : Nat)
  | streamPlacement
  | preemption (id : Nat)
  | equalPrioPreempt (id : Nat)
  | waitersGiveWay (id : Nat)
  | invalidationArrival (core : Nat) (sel : InvSel)
  | pageWalk (asid va : Nat)
  | pageRequest (asid va : Nat)
  | slotGrant (core : Nat)
  | endpointActivation (core : Nat)
  | loadResponse (id : Nat)
  | storeAtHome (k : Nat)
  | atomicAtHome (link : Nat) (kind : PeerAtomic) (pa : Nat) (d new : BitVec 64)
  | waitwWriteWake (core : Nat)
  | waitwTimerWake (id : Nat)
  | detentInstall (id : Nat)
  | copySourceRead (core slot : Nat)
  | recordDecompress (core slot : Nat)
  | copyLanding (core slot : Nat)
  | detentWmUpdate (core : Nat) (detent : Detent)
  | detentFree (core slot : Nat)
  | crewForm (core : Nat)
  | mmfRelease (core : Nat)
  | mmfComplete (core : Nat)
  | hingeRetry (core : Nat)
  | hingeLinkFail (core : Nat)
  | tierOffline (tier : Nat)
  | offreq (tier : Nat)
  | regionTableWrite (i word : Nat) (v : BitVec 64)
  | pbudgetWrite (v : BitVec 64)
  | savesetsWrite (v : BitVec 64)
  | sreqWrite (core : Nat) (v : BitVec 64)
  | controlSpaceWrite (off : Nat) (v : BitVec 64)
  | hostAccess (port off n : Nat) (data : Option Nat)
  | peerAccess (link addr n : Nat) (data : Option Nat)
  | linkRetrain (link : Nat)
  | linkDown (host : Bool) (i : Nat)
  | hostPortTraining (port mode width : Nat)
  | hostPortHotReset (port : Nat)
  | coldReset (patch runtime : Image)
  | deviceReset (session : Bool)
  | spdmMessage (index : Nat)
  | mgmtReadTables (off : Nat)
  | mgmtWritePbudget (session : Bool) (v : BitVec 64)
  | mgmtWriteOffreq (session : Bool) (tier : Nat)
  | mgmtLoadImage (session : Bool) (img : Image)
  | accessFilterDenial
  | attach (queue : Nat)
  | detach (queue : Nat)
  | halt (queue : Nat)
  | haltPointReached (id : Nat)
  | resume (queue : Nat)
  | readmem (queue : Nat)
  | writemem (queue : Nat)
  | readctx (queue : Nat)
  | writectx (queue : Nat)
  | readslip (queue : Nat)
  | instructionFetchFault
  | matrixSliceFailure (core : Nat)
  | druthesLinkTrained (link gen lanes peer : Nat)
  | druthesFlitRetry (link : Nat)
  | runtimeRelease
  | runtimeEndsContext (id : Nat)
  deriving DecidableEq, Repr

end Sys2Proof
end

