-- ==== Sys2Proof/WellFormed.lean ====
section
/-! DEFINITION. Which terms of Instr are instructions: the selector, modifier and length values the map assigns
(R77, R79, R80), and for the steps without an encoding the ranges of the units they name (R1). -/

namespace Sys2Proof

/-- Target tags of VCVT (R77): the float, tumbler and block formats. -/
def vcvtTarget (t : BitVec 4) : Bool := decide ((1 ≤ t.toNat ∧ t.toNat ≤ 7) ∨ 12 ≤ t.toNat)

/-- Target tags of VCVT.x (R77). -/
def vcvtXTarget (t : BitVec 4) : Bool :=
  decide ((1 ≤ t.toNat ∧ t.toNat ≤ 3) ∨ (8 ≤ t.toNat ∧ t.toNat ≤ 10)) || decide (t.toNat = 11 ∨ t.toNat = 14)

/-- Target tags of VCVT.n (R77). -/
def vcvtNTarget (t : BitVec 4) : Bool := decide ((1 ≤ t.toNat ∧ t.toNat ≤ 3) ∨ (8 ≤ t.toNat ∧ t.toNat ≤ 11))

/-- The words R73 steps 2 and 3 accept, and the steps whose arguments name units that exist. -/
def Instr.wf : Instr → Bool
  | .add _ _ _ => true
  | .sub _ _ _ => true
  | .and _ _ _ => true
  | .or _ _ _ => true
  | .xor _ _ _ => true
  | .andn _ _ _ => true
  | .shl _ _ _ => true
  | .shr _ _ _ => true
  | .sar _ _ _ => true
  | .rol _ _ _ => true
  | .mul _ _ _ => true
  | .mulhs _ _ _ => true
  | .mulhn _ _ _ => true
  | .divs _ _ _ => true
  | .divn _ _ _ => true
  | .rems _ _ _ => true
  | .remn _ _ _ => true
  | .mins _ _ _ => true
  | .maxs _ _ _ => true
  | .minn _ _ _ => true
  | .maxn _ _ _ => true
  | .clz _ _ => true
  | .ctz _ _ => true
  | .popc _ _ => true
  | .bswap _ _ => true
  | .seq _ _ _ => true
  | .sne _ _ _ => true
  | .slts _ _ _ => true
  | .sltn _ _ _ => true
  | .sles _ _ _ => true
  | .slen _ _ _ => true
  | .sel _ _ _ => true
  | .extsX8 _ _ => true
  | .extsX16 _ _ => true
  | .extsX32 _ _ => true
  | .extzN8 _ _ => true
  | .extzN16 _ _ => true
  | .extzN32 _ _ => true
  | .bfx _ _ _ => true
  | .bfi _ _ _ => true
  | .faddS _ _ _ => true
  | .fsubS _ _ _ => true
  | .fmulS _ _ _ => true
  | .fdivS _ _ _ => true
  | .fminS _ _ _ => true
  | .fmaxS _ _ _ => true
  | .fcmpS _ _ _ => true
  | .ffmaS _ _ _ => true
  | .faddD _ _ _ => true
  | .fsubD _ _ _ => true
  | .fmulD _ _ _ => true
  | .fdivD _ _ _ => true
  | .fminD _ _ _ => true
  | .fmaxD _ _ _ => true
  | .fcmpD _ _ _ => true
  | .ffmaD _ _ _ => true
  | .fsqrt _ _ _ => true
  | .frsqe _ _ _ => true
  | .frcpe _ _ _ => true
  | .fclass _ _ _ => true
  | .fcvt _ _ s => decide (s.toNat ≤ 9)
  | .addi _ _ _ => true
  | .andi _ _ _ => true
  | .ori _ _ _ => true
  | .xori _ _ _ => true
  | .shli _ _ _ => true
  | .shri _ _ _ => true
  | .sari _ _ _ => true
  | .sltsi _ _ _ => true
  | .sltni _ _ _ => true
  | .movi _ _ => true
  | .lui _ _ => true
  | .addpc _ _ => true
  | .call _ _ => true
  | .bEqz _ _ => true
  | .bNez _ _ => true
  | .bLtz _ _ => true
  | .bGez _ _ => true
  | .bGtz _ _ => true
  | .bLez _ _ => true
  | .bAny _ _ => true
  | .bAll _ _ => true
  | .br _ => true
  | .loop _ l => decide (l ≠ 0)
  | .sloop _ _ l => decide (l ≠ 0)
  | .swin _ => true
  | .vcfg _ => true
  | .vshapeImm j i => decide (i.toNat + j.toNat ≤ 14)
  | .act _ _ _ => true
  | .actz _ _ _ => true
  | .refImm n => decide (1 ≤ n.toNat ∧ n.toNat ≤ 8)
  | .ld _ _ f _ => decide (f.toNat ≤ 6)
  | .st _ _ _ _ => true
  | .stRel _ _ _ _ => true
  | .ldAcq _ _ f _ => decide (f.toNat ≤ 6)
  | .ldc _ _ _ => true
  | .pfetch _ _ _ => true
  | .vadd _ _ _ _ _ => true
  | .vsub _ _ _ _ _ => true
  | .vmul _ _ _ _ _ => true
  | .vfma _ _ _ _ _ => true
  | .vfms _ _ _ _ _ => true
  | .vfnma _ _ _ _ _ => true
  | .vabs _ _ _ => true
  | .vneg _ _ _ => true
  | .vand _ _ _ _ _ => true
  | .vor _ _ _ _ _ => true
  | .vxor _ _ _ _ _ => true
  | .vandn _ _ _ _ _ => true
  | .vshl _ _ _ _ _ => true
  | .vshr _ _ _ _ _ => true
  | .vsar _ _ _ _ _ => true
  | .vsel _ _ _ _ _ => true
  | .vmin _ _ _ _ _ => true
  | .vminX _ _ _ _ _ => true
  | .vminN _ _ _ _ _ => true
  | .vmax _ _ _ _ _ => true
  | .vmaxX _ _ _ _ _ => true
  | .vmaxN _ _ _ _ _ => true
  | .vmulw _ _ _ _ _ => true
  | .vmulwX _ _ _ _ _ => true
  | .vmulwN _ _ _ _ _ => true
  | .vmerge _ _ _ _ => true
  | .vrsqe _ _ _ => true
  | .vrcpe _ _ _ => true
  | .vexp2e _ _ _ => true
  | .viota _ _ _ => true
  | .vbcast _ _ _ _ => true
  | .vclr _ _ _ => true
  | .vins _ _ _ => true
  | .vext _ _ _ _ => true
  | .vslideUp _ _ _ _ => true
  | .vslideDn _ _ _ _ => true
  | .vperm _ _ _ _ _ => true
  | .vcopy _ _ _ => true
  | .vshape _ _ => true
  | .pmovs _ _ _ => true
  | .vred _ _ _ s => decide (s.toNat ≤ 9)
  | .vcmpEq _ _ _ _ _ => true
  | .vcmpNe _ _ _ _ _ => true
  | .vcmpLt _ _ _ _ _ => true
  | .vcmpLe _ _ _ _ _ => true
  | .vcmpUn _ _ _ _ _ => true
  | .vcmpLtX _ _ _ _ _ => true
  | .vcmpLeX _ _ _ _ _ => true
  | .vcmpLtN _ _ _ _ _ => true
  | .vcmpLeN _ _ _ _ _ => true
  | .vcvt _ _ _ r t => decide (r.toNat ≤ 4) && vcvtTarget t
  | .vcvtX _ _ _ r t => decide (r.toNat ≤ 4) && vcvtXTarget t
  | .vcvtN _ _ _ r t => decide (r.toNat ≤ 4) && vcvtNTarget t
  | .vscl _ _ _ _ => true
  | .pand _ _ _ => true
  | .por _ _ _ => true
  | .pxor _ _ _ => true
  | .pandn _ _ _ => true
  | .pnot _ _ => true
  | .pcnt _ _ => true
  | .pfirst _ _ => true
  | .pset _ _ => true
  | .shuf _ _ _ _ => true
  | .shufx _ _ _ _ => true
  | .gbcast _ _ _ _ => true
  | .gbar => true
  | .gsplit _ _ => true
  | .gjoin => true
  | .gsync => true
  | .gred _ _ _ s => decide (s.toNat ≤ 9)
  | .wb _ => true
  | .pre _ => true
  | .rcopy _ _ => true
  | .tag _ _ => true
  | .saverow _ _ _ => true
  | .loadrow _ _ _ => true
  | .refScalar _ => true
  | .mshape _ _ => true
  | .mzero _ => true
  | .mmf _ _ _ _ _ => true
  | .mmfO _ _ _ _ _ => true
  | .mwait => true
  | .mstat _ _ => true
  | .cset _ s => decide (s.toNat ≤ 21)
  | .cgo _ => true
  | .cwait _ _ => true
  | .cstat _ _ => true
  | .ccancel _ => true
  | .cresume _ => true
  | .aadd _ _ _ _ c => decide (c.toNat ≤ 5)
  | .ainc _ _ _ _ c => decide (c.toNat ≤ 5)
  | .amins _ _ _ _ c => decide (c.toNat ≤ 5)
  | .amaxs _ _ _ _ c => decide (c.toNat ≤ 5)
  | .aminn _ _ _ _ c => decide (c.toNat ≤ 5)
  | .amaxn _ _ _ _ c => decide (c.toNat ≤ 5)
  | .aand _ _ _ _ c => decide (c.toNat ≤ 5)
  | .aor _ _ _ _ c => decide (c.toNat ≤ 5)
  | .axor _ _ _ _ c => decide (c.toNat ≤ 5)
  | .axchg _ _ _ _ c => decide (c.toNat ≤ 5)
  | .acas _ _ _ _ c => decide (c.toNat ≤ 5)
  | .fence s => decide (s.toNat ≤ 5)
  | .fenceC s => decide (s.toNat ≤ 5)
  | .claim _ _ _ => true
  | .mfc _ _ => true
  | .mtc _ _ => true
  | .trap _ => true
  | .eret => true
  | .tlbinvVa _ => true
  | .tlbinvTok _ => true
  | .tlbinvAll => true
  | .trace _ => true
  | .jr _ => true
  | .exit => true
  | .yield => true
  | .nop => true
  | .brk => true
  | .waitwEq _ _ => true
  | .waitwNe _ _ => true
  | .waitwGe _ _ => true
  | .asyncTrapEntry => true
  | .yieldExpiry _ => true
  | .elementGroup bank => decide (bank < 16)
  | .rowOperationStart core bank => decide (core < 1024 ∧ bank < 16)
  | .refreshSlot core bank => decide (core < 1024 ∧ bank < 16)
  | .refreshAccrual tier => decide (tier < 128)
  | .forcedRefresh core bank => decide (core < 1024 ∧ bank < 16)
  | .selfRefreshSlot core bank => decide (core < 1024 ∧ bank < 16)
  | .refreshBandCooling tier => decide (tier < 128)
  | .thermalHeating tier _ => decide (tier < 128)
  | .thermalCooling tier _ => decide (tier < 128)
  | .governorInterval _ _ => true
  | .governorCheck _ _ _ => true
  | .powerBrake _ => true
  | .haspOverheat => true
  | .launchRecord queue => decide (queue < 64)
  | .prerequisiteWake _ => true
  | .launchDispatch => true
  | .launchCompletion _ => true
  | .streamPlacement => true
  | .preemption _ => true
  | .equalPrioPreempt _ => true
  | .waitersGiveWay _ => true
  | .invalidationArrival _ _ => true
  | .pageWalk _ _ => true
  | .pageRequest _ _ => true
  | .slotGrant _ => true
  | .endpointActivation _ => true
  | .loadResponse _ => true
  | .storeAtHome _ => true
  | .atomicAtHome link _ _ _ _ => decide (link < 8)
  | .waitwWriteWake _ => true
  | .waitwTimerWake _ => true
  | .detentInstall _ => true
  | .copySourceRead core slot => decide (core < 1024 ∧ slot < 16)
  | .recordDecompress core slot => decide (core < 1024 ∧ slot < 16)
  | .copyLanding core slot => decide (core < 1024 ∧ slot < 16)
  | .detentWmUpdate core detent => decide (core < 1024 ∧ detent.slot < 16 ∧ detent.at_ < 1024)
  | .detentFree core slot => decide (core < 1024 ∧ slot < 16)
  | .crewForm _ => true
  | .mmfRelease _ => true
  | .mmfComplete _ => true
  | .hingeRetry _ => true
  | .hingeLinkFail _ => true
  | .tierOffline tier => decide (tier < 128)
  | .offreq tier => decide (tier < 128)
  | .regionTableWrite i word _ => decide (i < 16 ∧ word < 16)
  | .pbudgetWrite _ => true
  | .savesetsWrite _ => true
  | .sreqWrite _ _ => true
  | .controlSpaceWrite _ _ => true
  | .hostAccess _ _ _ _ => true
  | .peerAccess _ _ _ _ => true
  | .linkRetrain _ => true
  | .linkDown _ _ => true
  | .hostPortTraining _ _ _ => true
  | .hostPortHotReset _ => true
  | .coldReset _ _ => true
  | .deviceReset _ => true
  | .spdmMessage _ => true
  | .mgmtReadTables _ => true
  | .mgmtWritePbudget _ _ => true
  | .mgmtWriteOffreq _ _ => true
  | .mgmtLoadImage _ _ => true
  | .accessFilterDenial => true
  | .attach _ => true
  | .detach _ => true
  | .halt _ => true
  | .haltPointReached _ => true
  | .resume _ => true
  | .readmem _ => true
  | .writemem _ => true
  | .readctx _ => true
  | .writectx _ => true
  | .readslip _ => true
  | .illegalInstruction _ => true
  | .instructionFetchFault => true
  | .matrixSliceFailure _ => true
  | .druthesLinkTrained _ _ _ _ => true
  | .druthesFlitRetry _ => true
  | .runtimeRelease => true
  | .runtimeEndsContext _ => true

end Sys2Proof
end

