-- ==== Sys2Proof/Decode.lean ====
section
/-! DEFINITION. The decoder: total on any 32-bit word, rejecting every word R73 steps 1 to 3 reject (the trap 0x01), and the
encoder written from the same tables (R69 to R81).
A row is recognised by the fixed bits of its encoding; selectors with unassigned values are rejected by Instr.wf. -/

namespace Sys2Proof

/-- Bits [lo + len - 1 : lo] of the word n, where p = 2^lo and m = 2^len. -/
def bitsAt (n p m : Nat) : Nat := n / p % m

/-- The name field whose lowest bit stands for p = 2^lo. -/
def nameAt (n p : Nat) : NameF := BitVec.ofNat 7 (n / p)

/-- The field of len bits whose lowest bit stands for p = 2^lo. -/
def fieldAt (n len p : Nat) : BitVec len := BitVec.ofNat len (n / p)

/-- Bit k of the word n, where p = 2^k. -/
def bitAt (n p : Nat) : Bool := n / p % 2 == 1

/-- Major 0x01 (R76, R79 to R81). -/
def decodeMajor01 (n : Nat) : Option Instr :=
  if bitsAt n 2097152 32 = 0 then some (.add (nameAt n 16384) (nameAt n 128) (nameAt n 1)) else
  if bitsAt n 2097152 32 = 4 then some (.sub (nameAt n 16384) (nameAt n 128) (nameAt n 1)) else
  if bitsAt n 2097152 32 = 8 then some (.and (nameAt n 16384) (nameAt n 128) (nameAt n 1)) else
  if bitsAt n 2097152 32 = 12 then some (.or (nameAt n 16384) (nameAt n 128) (nameAt n 1)) else
  if bitsAt n 2097152 32 = 16 then some (.xor (nameAt n 16384) (nameAt n 128) (nameAt n 1)) else
  if bitsAt n 2097152 32 = 20 then some (.andn (nameAt n 16384) (nameAt n 128) (nameAt n 1)) else
  if bitsAt n 2097152 32 = 24 then some (.shl (nameAt n 16384) (nameAt n 128) (nameAt n 1)) else
  if bitsAt n 2097152 32 = 28 then some (.shr (nameAt n 16384) (nameAt n 128) (nameAt n 1)) else
  none

/-- Major 0x02 (R76, R79 to R81). -/
def decodeMajor02 (n : Nat) : Option Instr :=
  if bitsAt n 2097152 32 = 0 then some (.sar (nameAt n 16384) (nameAt n 128) (nameAt n 1)) else
  if bitsAt n 2097152 32 = 4 then some (.rol (nameAt n 16384) (nameAt n 128) (nameAt n 1)) else
  if bitsAt n 2097152 32 = 8 then some (.mul (nameAt n 16384) (nameAt n 128) (nameAt n 1)) else
  if bitsAt n 2097152 32 = 12 then some (.mulhs (nameAt n 16384) (nameAt n 128) (nameAt n 1)) else
  if bitsAt n 2097152 32 = 16 then some (.mulhn (nameAt n 16384) (nameAt n 128) (nameAt n 1)) else
  if bitsAt n 2097152 32 = 20 then some (.divs (nameAt n 16384) (nameAt n 128) (nameAt n 1)) else
  if bitsAt n 2097152 32 = 24 then some (.divn (nameAt n 16384) (nameAt n 128) (nameAt n 1)) else
  if bitsAt n 2097152 32 = 28 then some (.rems (nameAt n 16384) (nameAt n 128) (nameAt n 1)) else
  none

/-- Major 0x03 (R76, R79 to R81). -/
def decodeMajor03 (n : Nat) : Option Instr :=
  if bitsAt n 2097152 32 = 0 then some (.remn (nameAt n 16384) (nameAt n 128) (nameAt n 1)) else
  if bitsAt n 2097152 32 = 4 then some (.mins (nameAt n 16384) (nameAt n 128) (nameAt n 1)) else
  if bitsAt n 2097152 32 = 8 then some (.maxs (nameAt n 16384) (nameAt n 128) (nameAt n 1)) else
  if bitsAt n 2097152 32 = 12 then some (.minn (nameAt n 16384) (nameAt n 128) (nameAt n 1)) else
  if bitsAt n 2097152 32 = 16 then some (.maxn (nameAt n 16384) (nameAt n 128) (nameAt n 1)) else
  if bitsAt n 1 128 = 0 ∧ bitsAt n 2097152 32 = 20 then some (.clz (nameAt n 16384) (nameAt n 128)) else
  if bitsAt n 1 128 = 0 ∧ bitsAt n 2097152 32 = 24 then some (.ctz (nameAt n 16384) (nameAt n 128)) else
  if bitsAt n 1 128 = 0 ∧ bitsAt n 2097152 32 = 28 then some (.popc (nameAt n 16384) (nameAt n 128)) else
  none

/-- Major 0x04 (R76, R79 to R81). -/
def decodeMajor04 (n : Nat) : Option Instr :=
  if bitsAt n 1 128 = 0 ∧ bitsAt n 2097152 32 = 0 then some (.bswap (nameAt n 16384) (nameAt n 128)) else
  if bitsAt n 2097152 32 = 4 then some (.seq (nameAt n 16384) (nameAt n 128) (nameAt n 1)) else
  if bitsAt n 2097152 32 = 8 then some (.sne (nameAt n 16384) (nameAt n 128) (nameAt n 1)) else
  if bitsAt n 2097152 32 = 12 then some (.slts (nameAt n 16384) (nameAt n 128) (nameAt n 1)) else
  if bitsAt n 2097152 32 = 16 then some (.sltn (nameAt n 16384) (nameAt n 128) (nameAt n 1)) else
  if bitsAt n 2097152 32 = 20 then some (.sles (nameAt n 16384) (nameAt n 128) (nameAt n 1)) else
  if bitsAt n 2097152 32 = 24 then some (.slen (nameAt n 16384) (nameAt n 128) (nameAt n 1)) else
  if bitsAt n 2097152 32 = 28 then some (.sel (nameAt n 16384) (nameAt n 128) (nameAt n 1)) else
  none

/-- Major 0x05 (R76, R79 to R81). -/
def decodeMajor05 (n : Nat) : Option Instr :=
  if bitsAt n 1 128 = 0 ∧ bitsAt n 2097152 32 = 0 then some (.extsX8 (nameAt n 16384) (nameAt n 128)) else
  if bitsAt n 1 128 = 0 ∧ bitsAt n 2097152 32 = 4 then some (.extsX16 (nameAt n 16384) (nameAt n 128)) else
  if bitsAt n 1 128 = 0 ∧ bitsAt n 2097152 32 = 8 then some (.extsX32 (nameAt n 16384) (nameAt n 128)) else
  if bitsAt n 1 128 = 0 ∧ bitsAt n 2097152 32 = 12 then some (.extzN8 (nameAt n 16384) (nameAt n 128)) else
  if bitsAt n 1 128 = 0 ∧ bitsAt n 2097152 32 = 16 then some (.extzN16 (nameAt n 16384) (nameAt n 128)) else
  if bitsAt n 1 128 = 0 ∧ bitsAt n 2097152 32 = 20 then some (.extzN32 (nameAt n 16384) (nameAt n 128)) else
  if bitsAt n 2097152 32 = 24 then some (.bfx (nameAt n 16384) (nameAt n 128) (nameAt n 1)) else
  if bitsAt n 2097152 32 = 28 then some (.bfi (nameAt n 16384) (nameAt n 128) (nameAt n 1)) else
  none

/-- Major 0x06 (R76, R79 to R81). -/
def decodeMajor06 (n : Nat) : Option Instr :=
  if bitsAt n 2097152 32 = 0 then some (.faddS (nameAt n 16384) (nameAt n 128) (nameAt n 1)) else
  if bitsAt n 2097152 32 = 4 then some (.fsubS (nameAt n 16384) (nameAt n 128) (nameAt n 1)) else
  if bitsAt n 2097152 32 = 8 then some (.fmulS (nameAt n 16384) (nameAt n 128) (nameAt n 1)) else
  if bitsAt n 2097152 32 = 12 then some (.fdivS (nameAt n 16384) (nameAt n 128) (nameAt n 1)) else
  if bitsAt n 2097152 32 = 16 then some (.fminS (nameAt n 16384) (nameAt n 128) (nameAt n 1)) else
  if bitsAt n 2097152 32 = 20 then some (.fmaxS (nameAt n 16384) (nameAt n 128) (nameAt n 1)) else
  if bitsAt n 2097152 32 = 24 then some (.fcmpS (nameAt n 16384) (nameAt n 128) (nameAt n 1)) else
  if bitsAt n 2097152 32 = 28 then some (.ffmaS (nameAt n 16384) (nameAt n 128) (nameAt n 1)) else
  none

/-- Major 0x07 (R76, R79 to R81). -/
def decodeMajor07 (n : Nat) : Option Instr :=
  if bitsAt n 2097152 32 = 0 then some (.faddD (nameAt n 16384) (nameAt n 128) (nameAt n 1)) else
  if bitsAt n 2097152 32 = 4 then some (.fsubD (nameAt n 16384) (nameAt n 128) (nameAt n 1)) else
  if bitsAt n 2097152 32 = 8 then some (.fmulD (nameAt n 16384) (nameAt n 128) (nameAt n 1)) else
  if bitsAt n 2097152 32 = 12 then some (.fdivD (nameAt n 16384) (nameAt n 128) (nameAt n 1)) else
  if bitsAt n 2097152 32 = 16 then some (.fminD (nameAt n 16384) (nameAt n 128) (nameAt n 1)) else
  if bitsAt n 2097152 32 = 20 then some (.fmaxD (nameAt n 16384) (nameAt n 128) (nameAt n 1)) else
  if bitsAt n 2097152 32 = 24 then some (.fcmpD (nameAt n 16384) (nameAt n 128) (nameAt n 1)) else
  if bitsAt n 2097152 32 = 28 then some (.ffmaD (nameAt n 16384) (nameAt n 128) (nameAt n 1)) else
  none

/-- Major 0x08 (R76, R79 to R81). -/
def decodeMajor08 (n : Nat) : Option Instr :=
  if bitsAt n 8388608 8 = 0 then some (.vadd (bitAt n 4194304) (bitAt n 2097152) (nameAt n 16384) (nameAt n 128) (nameAt n 1)) else
  if bitsAt n 8388608 8 = 1 then some (.vsub (bitAt n 4194304) (bitAt n 2097152) (nameAt n 16384) (nameAt n 128) (nameAt n 1)) else
  if bitsAt n 8388608 8 = 2 then some (.vmul (bitAt n 4194304) (bitAt n 2097152) (nameAt n 16384) (nameAt n 128) (nameAt n 1)) else
  if bitsAt n 8388608 8 = 3 then some (.vfma (bitAt n 4194304) (bitAt n 2097152) (nameAt n 16384) (nameAt n 128) (nameAt n 1)) else
  if bitsAt n 8388608 8 = 4 then some (.vfms (bitAt n 4194304) (bitAt n 2097152) (nameAt n 16384) (nameAt n 128) (nameAt n 1)) else
  if bitsAt n 8388608 8 = 5 then some (.vfnma (bitAt n 4194304) (bitAt n 2097152) (nameAt n 16384) (nameAt n 128) (nameAt n 1)) else
  if bitsAt n 1 128 = 0 ∧ bitsAt n 2097152 2 = 0 ∧ bitsAt n 8388608 8 = 6 then some (.vabs (bitAt n 4194304) (nameAt n 16384) (nameAt n 128)) else
  if bitsAt n 1 128 = 0 ∧ bitsAt n 2097152 2 = 0 ∧ bitsAt n 8388608 8 = 7 then some (.vneg (bitAt n 4194304) (nameAt n 16384) (nameAt n 128)) else
  none

/-- Major 0x09 (R76, R79 to R81). -/
def decodeMajor09 (n : Nat) : Option Instr :=
  if bitsAt n 8388608 8 = 0 then some (.vand (bitAt n 4194304) (bitAt n 2097152) (nameAt n 16384) (nameAt n 128) (nameAt n 1)) else
  if bitsAt n 8388608 8 = 1 then some (.vor (bitAt n 4194304) (bitAt n 2097152) (nameAt n 16384) (nameAt n 128) (nameAt n 1)) else
  if bitsAt n 8388608 8 = 2 then some (.vxor (bitAt n 4194304) (bitAt n 2097152) (nameAt n 16384) (nameAt n 128) (nameAt n 1)) else
  if bitsAt n 8388608 8 = 3 then some (.vandn (bitAt n 4194304) (bitAt n 2097152) (nameAt n 16384) (nameAt n 128) (nameAt n 1)) else
  if bitsAt n 8388608 8 = 4 then some (.vshl (bitAt n 4194304) (bitAt n 2097152) (nameAt n 16384) (nameAt n 128) (nameAt n 1)) else
  if bitsAt n 8388608 8 = 5 then some (.vshr (bitAt n 4194304) (bitAt n 2097152) (nameAt n 16384) (nameAt n 128) (nameAt n 1)) else
  if bitsAt n 8388608 8 = 6 then some (.vsar (bitAt n 4194304) (bitAt n 2097152) (nameAt n 16384) (nameAt n 128) (nameAt n 1)) else
  if bitsAt n 8388608 8 = 7 then some (.vsel (bitAt n 4194304) (bitAt n 2097152) (nameAt n 16384) (nameAt n 128) (nameAt n 1)) else
  none

/-- Major 0x0A (R76, R79 to R81). -/
def decodeMajor0A (n : Nat) : Option Instr :=
  if bitsAt n 8388608 8 = 0 then some (.vmin (bitAt n 4194304) (bitAt n 2097152) (nameAt n 16384) (nameAt n 128) (nameAt n 1)) else
  if bitsAt n 8388608 8 = 1 then some (.vminX (bitAt n 4194304) (bitAt n 2097152) (nameAt n 16384) (nameAt n 128) (nameAt n 1)) else
  if bitsAt n 8388608 8 = 2 then some (.vminN (bitAt n 4194304) (bitAt n 2097152) (nameAt n 16384) (nameAt n 128) (nameAt n 1)) else
  if bitsAt n 8388608 8 = 3 then some (.vmax (bitAt n 4194304) (bitAt n 2097152) (nameAt n 16384) (nameAt n 128) (nameAt n 1)) else
  if bitsAt n 8388608 8 = 4 then some (.vmaxX (bitAt n 4194304) (bitAt n 2097152) (nameAt n 16384) (nameAt n 128) (nameAt n 1)) else
  if bitsAt n 8388608 8 = 5 then some (.vmaxN (bitAt n 4194304) (bitAt n 2097152) (nameAt n 16384) (nameAt n 128) (nameAt n 1)) else
  if bitsAt n 8388608 8 = 6 then some (.vmulw (bitAt n 4194304) (bitAt n 2097152) (nameAt n 16384) (nameAt n 128) (nameAt n 1)) else
  if bitsAt n 8388608 8 = 7 then some (.vmulwX (bitAt n 4194304) (bitAt n 2097152) (nameAt n 16384) (nameAt n 128) (nameAt n 1)) else
  none

/-- Major 0x0B (R76, R79 to R81). -/
def decodeMajor0B (n : Nat) : Option Instr :=
  if bitsAt n 8388608 8 = 0 then some (.vmulwN (bitAt n 4194304) (bitAt n 2097152) (nameAt n 16384) (nameAt n 128) (nameAt n 1)) else
  if bitsAt n 2097152 2 = 0 ∧ bitsAt n 8388608 8 = 1 then some (.vmerge (bitAt n 4194304) (nameAt n 16384) (nameAt n 128) (nameAt n 1)) else
  if bitsAt n 1 128 = 0 ∧ bitsAt n 2097152 2 = 0 ∧ bitsAt n 8388608 8 = 2 then some (.vrsqe (bitAt n 4194304) (nameAt n 16384) (nameAt n 128)) else
  if bitsAt n 1 128 = 0 ∧ bitsAt n 2097152 2 = 0 ∧ bitsAt n 8388608 8 = 3 then some (.vrcpe (bitAt n 4194304) (nameAt n 16384) (nameAt n 128)) else
  if bitsAt n 1 128 = 0 ∧ bitsAt n 2097152 2 = 0 ∧ bitsAt n 8388608 8 = 4 then some (.vexp2e (bitAt n 4194304) (nameAt n 16384) (nameAt n 128)) else
  if bitsAt n 1 128 = 0 ∧ bitsAt n 2097152 2 = 0 ∧ bitsAt n 8388608 8 = 5 then some (.viota (bitAt n 4194304) (nameAt n 16384) (nameAt n 128)) else
  if bitsAt n 2097152 2 = 0 ∧ bitsAt n 8388608 8 = 6 then some (.vbcast (bitAt n 4194304) (nameAt n 16384) (nameAt n 128) (nameAt n 1)) else
  if bitsAt n 1 128 = 0 ∧ bitsAt n 2097152 2 = 0 ∧ bitsAt n 8388608 8 = 7 then some (.vclr (bitAt n 4194304) (nameAt n 16384) (nameAt n 128)) else
  none

/-- Major 0x0C (R76, R79 to R81). -/
def decodeMajor0C (n : Nat) : Option Instr :=
  if bitsAt n 2097152 32 = 0 then some (.vins (nameAt n 16384) (nameAt n 128) (nameAt n 1)) else
  if bitsAt n 2097152 2 = 0 ∧ bitsAt n 8388608 8 = 1 then some (.vext (bitAt n 4194304) (nameAt n 16384) (nameAt n 128) (nameAt n 1)) else
  if bitsAt n 2097152 2 = 0 ∧ bitsAt n 8388608 8 = 2 then some (.vslideUp (bitAt n 4194304) (nameAt n 16384) (nameAt n 128) (nameAt n 1)) else
  if bitsAt n 2097152 2 = 0 ∧ bitsAt n 8388608 8 = 3 then some (.vslideDn (bitAt n 4194304) (nameAt n 16384) (nameAt n 128) (nameAt n 1)) else
  if bitsAt n 8388608 8 = 4 then some (.vperm (bitAt n 4194304) (bitAt n 2097152) (nameAt n 16384) (nameAt n 128) (nameAt n 1)) else
  if bitsAt n 1 128 = 0 ∧ bitsAt n 2097152 2 = 0 ∧ bitsAt n 8388608 8 = 5 then some (.vcopy (bitAt n 4194304) (nameAt n 16384) (nameAt n 128)) else
  if bitsAt n 16384 4096 = 3072 then some (.vshape (nameAt n 128) (nameAt n 1)) else
  if bitsAt n 2097152 32 = 28 then some (.pmovs (nameAt n 16384) (nameAt n 128) (nameAt n 1)) else
  none

/-- Major 0x0D (R76, R79 to R81). -/
def decodeMajor0D (n : Nat) : Option Instr :=
  if bitsAt n 2097152 2 = 0 ∧ bitsAt n 8388608 8 = 0 then some (.vred (bitAt n 4194304) (nameAt n 16384) (nameAt n 128) (fieldAt n 7 1)) else
  none

/-- Major 0x0E (R76, R79 to R81). -/
def decodeMajor0E (n : Nat) : Option Instr :=
  if bitsAt n 8388608 8 = 0 then some (.vcmpEq (bitAt n 4194304) (bitAt n 2097152) (nameAt n 16384) (nameAt n 128) (nameAt n 1)) else
  if bitsAt n 8388608 8 = 1 then some (.vcmpNe (bitAt n 4194304) (bitAt n 2097152) (nameAt n 16384) (nameAt n 128) (nameAt n 1)) else
  if bitsAt n 8388608 8 = 2 then some (.vcmpLt (bitAt n 4194304) (bitAt n 2097152) (nameAt n 16384) (nameAt n 128) (nameAt n 1)) else
  if bitsAt n 8388608 8 = 3 then some (.vcmpLe (bitAt n 4194304) (bitAt n 2097152) (nameAt n 16384) (nameAt n 128) (nameAt n 1)) else
  if bitsAt n 8388608 8 = 4 then some (.vcmpUn (bitAt n 4194304) (bitAt n 2097152) (nameAt n 16384) (nameAt n 128) (nameAt n 1)) else
  if bitsAt n 8388608 8 = 5 then some (.vcmpLtX (bitAt n 4194304) (bitAt n 2097152) (nameAt n 16384) (nameAt n 128) (nameAt n 1)) else
  if bitsAt n 8388608 8 = 6 then some (.vcmpLeX (bitAt n 4194304) (bitAt n 2097152) (nameAt n 16384) (nameAt n 128) (nameAt n 1)) else
  if bitsAt n 8388608 8 = 7 then some (.vcmpLtN (bitAt n 4194304) (bitAt n 2097152) (nameAt n 16384) (nameAt n 128) (nameAt n 1)) else
  none

/-- Major 0x0F (R76, R79 to R81). -/
def decodeMajor0F (n : Nat) : Option Instr :=
  if bitsAt n 8388608 8 = 0 then some (.vcmpLeN (bitAt n 4194304) (bitAt n 2097152) (nameAt n 16384) (nameAt n 128) (nameAt n 1)) else
  none

/-- Major 0x12 (R76, R79 to R81). -/
def decodeMajor12 (n : Nat) : Option Instr :=
  if bitsAt n 2097152 2 = 0 ∧ bitsAt n 8388608 8 = 0 then some (.vcvt (bitAt n 4194304) (nameAt n 16384) (nameAt n 128) (fieldAt n 3 16) (fieldAt n 4 1)) else
  if bitsAt n 2097152 2 = 0 ∧ bitsAt n 8388608 8 = 1 then some (.vcvtX (bitAt n 4194304) (nameAt n 16384) (nameAt n 128) (fieldAt n 3 16) (fieldAt n 4 1)) else
  if bitsAt n 2097152 2 = 0 ∧ bitsAt n 8388608 8 = 2 then some (.vcvtN (bitAt n 4194304) (nameAt n 16384) (nameAt n 128) (fieldAt n 3 16) (fieldAt n 4 1)) else
  if bitsAt n 2097152 2 = 0 ∧ bitsAt n 8388608 8 = 3 then some (.vscl (bitAt n 4194304) (nameAt n 16384) (nameAt n 128) (nameAt n 1)) else
  none

/-- Major 0x13 (R76, R79 to R81). -/
def decodeMajor13 (n : Nat) : Option Instr :=
  if bitsAt n 2 64 = 0 ∧ bitsAt n 2097152 32 = 0 then some (.fsqrt (nameAt n 16384) (nameAt n 128) (bitAt n 1)) else
  if bitsAt n 2 64 = 0 ∧ bitsAt n 2097152 32 = 4 then some (.frsqe (nameAt n 16384) (nameAt n 128) (bitAt n 1)) else
  if bitsAt n 2 64 = 0 ∧ bitsAt n 2097152 32 = 8 then some (.frcpe (nameAt n 16384) (nameAt n 128) (bitAt n 1)) else
  if bitsAt n 2 64 = 0 ∧ bitsAt n 2097152 32 = 12 then some (.fclass (nameAt n 16384) (nameAt n 128) (bitAt n 1)) else
  if bitsAt n 16 8 = 0 ∧ bitsAt n 2097152 32 = 16 then some (.fcvt (nameAt n 16384) (nameAt n 128) (fieldAt n 4 1)) else
  none

/-- Major 0x14 (R76, R79 to R81). -/
def decodeMajor14 (n : Nat) : Option Instr :=
  if bitsAt n 2097152 32 = 0 then some (.pand (nameAt n 16384) (nameAt n 128) (nameAt n 1)) else
  if bitsAt n 2097152 32 = 4 then some (.por (nameAt n 16384) (nameAt n 128) (nameAt n 1)) else
  if bitsAt n 2097152 32 = 8 then some (.pxor (nameAt n 16384) (nameAt n 128) (nameAt n 1)) else
  if bitsAt n 2097152 32 = 12 then some (.pandn (nameAt n 16384) (nameAt n 128) (nameAt n 1)) else
  if bitsAt n 1 128 = 0 ∧ bitsAt n 2097152 32 = 16 then some (.pnot (nameAt n 16384) (nameAt n 128)) else
  if bitsAt n 1 128 = 0 ∧ bitsAt n 2097152 32 = 20 then some (.pcnt (nameAt n 16384) (nameAt n 128)) else
  if bitsAt n 1 128 = 0 ∧ bitsAt n 2097152 32 = 24 then some (.pfirst (nameAt n 16384) (nameAt n 128)) else
  if bitsAt n 1 128 = 0 ∧ bitsAt n 2097152 32 = 28 then some (.pset (nameAt n 16384) (nameAt n 128)) else
  none

/-- Major 0x15 (R76, R79 to R81). -/
def decodeMajor15 (n : Nat) : Option Instr :=
  if bitsAt n 2097152 2 = 0 ∧ bitsAt n 8388608 8 = 0 then some (.shuf (bitAt n 4194304) (nameAt n 16384) (nameAt n 128) (nameAt n 1)) else
  if bitsAt n 2097152 2 = 0 ∧ bitsAt n 8388608 8 = 1 then some (.shufx (bitAt n 4194304) (nameAt n 16384) (nameAt n 128) (nameAt n 1)) else
  if bitsAt n 2097152 2 = 0 ∧ bitsAt n 8388608 8 = 2 then some (.gbcast (bitAt n 4194304) (nameAt n 16384) (nameAt n 128) (nameAt n 1)) else
  if bitsAt n 1 67108864 = 25165824 then some (.gbar) else
  if bitsAt n 16384 4096 = 2048 then some (.gsplit (nameAt n 128) (nameAt n 1)) else
  if bitsAt n 1 67108864 = 41943040 then some (.gjoin) else
  if bitsAt n 1 67108864 = 50331648 then some (.gsync) else
  none

/-- Major 0x16 (R76, R79 to R81). -/
def decodeMajor16 (n : Nat) : Option Instr :=
  if bitsAt n 2097152 2 = 0 ∧ bitsAt n 8388608 8 = 0 then some (.gred (bitAt n 4194304) (nameAt n 16384) (nameAt n 128) (fieldAt n 7 1)) else
  none

/-- Major 0x17 (R76, R79 to R81). -/
def decodeMajor17 (n : Nat) : Option Instr :=
  if bitsAt n 1 16384 = 0 ∧ bitsAt n 2097152 32 = 0 then some (.wb (nameAt n 16384)) else
  if bitsAt n 1 16384 = 0 ∧ bitsAt n 2097152 32 = 4 then some (.pre (nameAt n 16384)) else
  if bitsAt n 1 128 = 0 ∧ bitsAt n 2097152 32 = 8 then some (.rcopy (nameAt n 16384) (nameAt n 128)) else
  if bitsAt n 16 1024 = 0 ∧ bitsAt n 2097152 32 = 12 then some (.tag (nameAt n 16384) (fieldAt n 4 1)) else
  if bitsAt n 2097152 32 = 16 then some (.saverow (nameAt n 16384) (nameAt n 128) (nameAt n 1)) else
  if bitsAt n 2097152 32 = 20 then some (.loadrow (nameAt n 16384) (nameAt n 128) (nameAt n 1)) else
  if bitsAt n 1 128 = 0 ∧ bitsAt n 16384 4096 = 3072 then some (.refScalar (nameAt n 128)) else
  none

/-- Major 0x19 (R76, R79 to R81). -/
def decodeMajor19 (n : Nat) : Option Instr :=
  if bitsAt n 1 128 = 0 ∧ bitsAt n 2097152 32 = 0 then some (.mshape (nameAt n 16384) (nameAt n 128)) else
  if bitsAt n 1 16384 = 0 ∧ bitsAt n 2097152 32 = 4 then some (.mzero (nameAt n 16384)) else
  if bitsAt n 8388608 8 = 2 then some (.mmf (bitAt n 4194304) (bitAt n 2097152) (nameAt n 16384) (nameAt n 128) (nameAt n 1)) else
  if bitsAt n 8388608 8 = 3 then some (.mmfO (bitAt n 4194304) (bitAt n 2097152) (nameAt n 16384) (nameAt n 128) (nameAt n 1)) else
  if bitsAt n 1 67108864 = 33554432 then some (.mwait) else
  if bitsAt n 1 128 = 0 ∧ bitsAt n 2097152 32 = 20 then some (.mstat (nameAt n 16384) (nameAt n 128)) else
  none

/-- Major 0x1A (R76, R79 to R81). -/
def decodeMajor1A (n : Nat) : Option Instr :=
  if bitsAt n 16384 4096 = 0 then some (.cset (nameAt n 128) (fieldAt n 7 1)) else
  if bitsAt n 1 16384 = 0 ∧ bitsAt n 2097152 32 = 4 then some (.cgo (nameAt n 16384)) else
  if bitsAt n 1 128 = 0 ∧ bitsAt n 2097152 32 = 8 then some (.cwait (nameAt n 16384) (nameAt n 128)) else
  if bitsAt n 1 128 = 0 ∧ bitsAt n 2097152 32 = 12 then some (.cstat (nameAt n 16384) (nameAt n 128)) else
  if bitsAt n 1 128 = 0 ∧ bitsAt n 16384 4096 = 2048 then some (.ccancel (nameAt n 128)) else
  if bitsAt n 1 128 = 0 ∧ bitsAt n 16384 4096 = 2560 then some (.cresume (nameAt n 128)) else
  none

/-- Major 0x1C (R76, R79 to R81). -/
def decodeMajor1C (n : Nat) : Option Instr :=
  if bitsAt n 64 2 = 0 ∧ bitsAt n 2097152 32 = 0 then some (.aadd (nameAt n 16384) (nameAt n 128) (bitAt n 32) (fieldAt n 2 8) (fieldAt n 3 1)) else
  if bitsAt n 64 2 = 0 ∧ bitsAt n 2097152 32 = 4 then some (.ainc (nameAt n 16384) (nameAt n 128) (bitAt n 32) (fieldAt n 2 8) (fieldAt n 3 1)) else
  if bitsAt n 64 2 = 0 ∧ bitsAt n 2097152 32 = 8 then some (.amins (nameAt n 16384) (nameAt n 128) (bitAt n 32) (fieldAt n 2 8) (fieldAt n 3 1)) else
  if bitsAt n 64 2 = 0 ∧ bitsAt n 2097152 32 = 12 then some (.amaxs (nameAt n 16384) (nameAt n 128) (bitAt n 32) (fieldAt n 2 8) (fieldAt n 3 1)) else
  if bitsAt n 64 2 = 0 ∧ bitsAt n 2097152 32 = 16 then some (.aminn (nameAt n 16384) (nameAt n 128) (bitAt n 32) (fieldAt n 2 8) (fieldAt n 3 1)) else
  if bitsAt n 64 2 = 0 ∧ bitsAt n 2097152 32 = 20 then some (.amaxn (nameAt n 16384) (nameAt n 128) (bitAt n 32) (fieldAt n 2 8) (fieldAt n 3 1)) else
  if bitsAt n 64 2 = 0 ∧ bitsAt n 2097152 32 = 24 then some (.aand (nameAt n 16384) (nameAt n 128) (bitAt n 32) (fieldAt n 2 8) (fieldAt n 3 1)) else
  if bitsAt n 64 2 = 0 ∧ bitsAt n 2097152 32 = 28 then some (.aor (nameAt n 16384) (nameAt n 128) (bitAt n 32) (fieldAt n 2 8) (fieldAt n 3 1)) else
  none

/-- Major 0x1D (R76, R79 to R81). -/
def decodeMajor1D (n : Nat) : Option Instr :=
  if bitsAt n 64 2 = 0 ∧ bitsAt n 2097152 32 = 0 then some (.axor (nameAt n 16384) (nameAt n 128) (bitAt n 32) (fieldAt n 2 8) (fieldAt n 3 1)) else
  if bitsAt n 64 2 = 0 ∧ bitsAt n 2097152 32 = 4 then some (.axchg (nameAt n 16384) (nameAt n 128) (bitAt n 32) (fieldAt n 2 8) (fieldAt n 3 1)) else
  if bitsAt n 64 2 = 0 ∧ bitsAt n 2097152 32 = 8 then some (.acas (nameAt n 16384) (nameAt n 128) (bitAt n 32) (fieldAt n 2 8) (fieldAt n 3 1)) else
  if bitsAt n 8 8388608 = 3145728 then some (.fence (fieldAt n 3 1)) else
  if bitsAt n 8 8388608 = 3145732 then some (.fenceC (fieldAt n 3 1)) else
  if bitsAt n 2097152 32 = 16 then some (.claim (nameAt n 16384) (nameAt n 128) (nameAt n 1)) else
  none

/-- Major 0x1E (R76, R79 to R81). -/
def decodeMajor1E (n : Nat) : Option Instr :=
  if bitsAt n 128 128 = 0 ∧ bitsAt n 2097152 32 = 0 then some (.mfc (nameAt n 16384) (fieldAt n 7 1)) else
  if bitsAt n 16384 4096 = 512 then some (.mtc (nameAt n 128) (fieldAt n 7 1)) else
  if bitsAt n 128 524288 = 131072 then some (.trap (fieldAt n 7 1)) else
  if bitsAt n 1 67108864 = 25165824 then some (.eret) else
  if bitsAt n 1 128 = 0 ∧ bitsAt n 16384 4096 = 2048 then some (.tlbinvVa (nameAt n 128)) else
  if bitsAt n 1 128 = 1 ∧ bitsAt n 16384 4096 = 2048 then some (.tlbinvTok (nameAt n 128)) else
  if bitsAt n 1 67108864 = 33554434 then some (.tlbinvAll) else
  if bitsAt n 1 128 = 0 ∧ bitsAt n 16384 4096 = 2560 then some (.trace (nameAt n 128)) else
  if bitsAt n 1 128 = 0 ∧ bitsAt n 16384 4096 = 3072 then some (.jr (nameAt n 128)) else
  if bitsAt n 1 67108864 = 50331649 then some (.exit) else
  if bitsAt n 1 67108864 = 50331650 then some (.yield) else
  if bitsAt n 1 67108864 = 50331651 then some (.nop) else
  if bitsAt n 1 67108864 = 50331652 then some (.brk) else
  if bitsAt n 1 128 = 0 ∧ bitsAt n 2097152 32 = 28 then some (.waitwEq (nameAt n 16384) (nameAt n 128)) else
  if bitsAt n 1 128 = 1 ∧ bitsAt n 2097152 32 = 28 then some (.waitwNe (nameAt n 16384) (nameAt n 128)) else
  if bitsAt n 1 128 = 2 ∧ bitsAt n 2097152 32 = 28 then some (.waitwGe (nameAt n 16384) (nameAt n 128)) else
  none

/-- Major 0x20 (R76, R79 to R81). -/
def decodeMajor20 (n : Nat) : Option Instr :=
  some (.addi (nameAt n 524288) (nameAt n 4096) (fieldAt n 12 1))

/-- Major 0x21 (R76, R79 to R81). -/
def decodeMajor21 (n : Nat) : Option Instr :=
  some (.andi (nameAt n 524288) (nameAt n 4096) (fieldAt n 12 1))

/-- Major 0x22 (R76, R79 to R81). -/
def decodeMajor22 (n : Nat) : Option Instr :=
  some (.ori (nameAt n 524288) (nameAt n 4096) (fieldAt n 12 1))

/-- Major 0x23 (R76, R79 to R81). -/
def decodeMajor23 (n : Nat) : Option Instr :=
  some (.xori (nameAt n 524288) (nameAt n 4096) (fieldAt n 12 1))

/-- Major 0x24 (R76, R79 to R81). -/
def decodeMajor24 (n : Nat) : Option Instr :=
  if bitsAt n 64 64 = 0 then some (.shli (nameAt n 524288) (nameAt n 4096) (fieldAt n 6 1)) else
  none

/-- Major 0x25 (R76, R79 to R81). -/
def decodeMajor25 (n : Nat) : Option Instr :=
  if bitsAt n 64 64 = 0 then some (.shri (nameAt n 524288) (nameAt n 4096) (fieldAt n 6 1)) else
  none

/-- Major 0x26 (R76, R79 to R81). -/
def decodeMajor26 (n : Nat) : Option Instr :=
  if bitsAt n 64 64 = 0 then some (.sari (nameAt n 524288) (nameAt n 4096) (fieldAt n 6 1)) else
  none

/-- Major 0x27 (R76, R79 to R81). -/
def decodeMajor27 (n : Nat) : Option Instr :=
  some (.sltsi (nameAt n 524288) (nameAt n 4096) (fieldAt n 12 1))

/-- Major 0x28 (R76, R79 to R81). -/
def decodeMajor28 (n : Nat) : Option Instr :=
  some (.sltni (nameAt n 524288) (nameAt n 4096) (fieldAt n 12 1))

/-- Major 0x2C (R76, R79 to R81). -/
def decodeMajor2C (n : Nat) : Option Instr :=
  some (.ld (nameAt n 524288) (nameAt n 4096) (fieldAt n 3 512) (fieldAt n 9 1))

/-- Major 0x2D (R76, R79 to R81). -/
def decodeMajor2D (n : Nat) : Option Instr :=
  if bitsAt n 2048 2 = 0 then some (.st (nameAt n 524288) (nameAt n 4096) (fieldAt n 2 512) (fieldAt n 9 1)) else
  if bitsAt n 2048 2 = 1 then some (.stRel (nameAt n 524288) (nameAt n 4096) (fieldAt n 2 512) (fieldAt n 9 1)) else
  none

/-- Major 0x2E (R76, R79 to R81). -/
def decodeMajor2E (n : Nat) : Option Instr :=
  some (.ldAcq (nameAt n 524288) (nameAt n 4096) (fieldAt n 3 512) (fieldAt n 9 1))

/-- Major 0x2F (R76, R79 to R81). -/
def decodeMajor2F (n : Nat) : Option Instr :=
  if bitsAt n 1024 4 = 0 then some (.ldc (nameAt n 524288) (nameAt n 4096) (fieldAt n 10 1)) else
  if bitsAt n 1024 4 = 1 then some (.pfetch (nameAt n 524288) (nameAt n 4096) (fieldAt n 10 1)) else
  none

/-- Major 0x30 (R76, R79 to R81). -/
def decodeMajor30 (n : Nat) : Option Instr :=
  if bitsAt n 131072 4 = 0 then some (.movi (nameAt n 524288) (fieldAt n 17 1)) else
  if bitsAt n 131072 4 = 1 then some (.lui (nameAt n 524288) (fieldAt n 17 1)) else
  if bitsAt n 131072 4 = 2 then some (.addpc (nameAt n 524288) (fieldAt n 17 1)) else
  none

/-- Major 0x31 (R76, R79 to R81). -/
def decodeMajor31 (n : Nat) : Option Instr :=
  some (.call (nameAt n 524288) (fieldAt n 19 1))

/-- Major 0x32 (R76, R79 to R81). -/
def decodeMajor32 (n : Nat) : Option Instr :=
  if bitsAt n 8388608 8 = 0 then some (.bEqz (nameAt n 65536) (fieldAt n 16 1)) else
  if bitsAt n 8388608 8 = 1 then some (.bNez (nameAt n 65536) (fieldAt n 16 1)) else
  if bitsAt n 8388608 8 = 2 then some (.bLtz (nameAt n 65536) (fieldAt n 16 1)) else
  if bitsAt n 8388608 8 = 3 then some (.bGez (nameAt n 65536) (fieldAt n 16 1)) else
  if bitsAt n 8388608 8 = 4 then some (.bGtz (nameAt n 65536) (fieldAt n 16 1)) else
  if bitsAt n 8388608 8 = 5 then some (.bLez (nameAt n 65536) (fieldAt n 16 1)) else
  none

/-- Major 0x33 (R76, R79 to R81). -/
def decodeMajor33 (n : Nat) : Option Instr :=
  if bitsAt n 8388608 8 = 0 then some (.bAny (nameAt n 65536) (fieldAt n 16 1)) else
  if bitsAt n 8388608 8 = 1 then some (.bAll (nameAt n 65536) (fieldAt n 16 1)) else
  if bitsAt n 65536 1024 = 256 then some (.br (fieldAt n 16 1)) else
  none

/-- Major 0x34 (R76, R79 to R81). -/
def decodeMajor34 (n : Nat) : Option Instr :=
  if bitsAt n 2048 2 = 0 ∧ bitsAt n 524288 128 = 0 then some (.loop (nameAt n 4096) (fieldAt n 11 1)) else
  if bitsAt n 2048 2 = 1 then some (.sloop (nameAt n 524288) (nameAt n 4096) (fieldAt n 11 1)) else
  none

/-- Major 0x35 (R76, R79 to R81). -/
def decodeMajor35 (n : Nat) : Option Instr :=
  if bitsAt n 32 2097152 = 0 then some (.swin (fieldAt n 5 1)) else
  if bitsAt n 4 16777216 = 256 then some (.vcfg (fieldAt n 2 1)) else
  if bitsAt n 256 262144 = 8 then some (.vshapeImm (fieldAt n 4 16) (fieldAt n 4 1)) else
  none

/-- Major 0x36 (R76, R79 to R81). -/
def decodeMajor36 (n : Nat) : Option Instr :=
  if bitsAt n 16 256 = 0 then some (.act (nameAt n 524288) (nameAt n 4096) (fieldAt n 4 1)) else
  if bitsAt n 16 256 = 64 then some (.actz (nameAt n 524288) (nameAt n 4096) (fieldAt n 4 1)) else
  if bitsAt n 16 4194304 = 128 then some (.refImm (fieldAt n 4 1)) else
  none

/-- The row of a word by its fixed bits alone. -/
def decodeRow (n : Nat) : Option Instr :=
  match n / 67108864 with
  | 0x01 => decodeMajor01 n
  | 0x02 => decodeMajor02 n
  | 0x03 => decodeMajor03 n
  | 0x04 => decodeMajor04 n
  | 0x05 => decodeMajor05 n
  | 0x06 => decodeMajor06 n
  | 0x07 => decodeMajor07 n
  | 0x08 => decodeMajor08 n
  | 0x09 => decodeMajor09 n
  | 0x0A => decodeMajor0A n
  | 0x0B => decodeMajor0B n
  | 0x0C => decodeMajor0C n
  | 0x0D => decodeMajor0D n
  | 0x0E => decodeMajor0E n
  | 0x0F => decodeMajor0F n
  | 0x12 => decodeMajor12 n
  | 0x13 => decodeMajor13 n
  | 0x14 => decodeMajor14 n
  | 0x15 => decodeMajor15 n
  | 0x16 => decodeMajor16 n
  | 0x17 => decodeMajor17 n
  | 0x19 => decodeMajor19 n
  | 0x1A => decodeMajor1A n
  | 0x1C => decodeMajor1C n
  | 0x1D => decodeMajor1D n
  | 0x1E => decodeMajor1E n
  | 0x20 => decodeMajor20 n
  | 0x21 => decodeMajor21 n
  | 0x22 => decodeMajor22 n
  | 0x23 => decodeMajor23 n
  | 0x24 => decodeMajor24 n
  | 0x25 => decodeMajor25 n
  | 0x26 => decodeMajor26 n
  | 0x27 => decodeMajor27 n
  | 0x28 => decodeMajor28 n
  | 0x2C => decodeMajor2C n
  | 0x2D => decodeMajor2D n
  | 0x2E => decodeMajor2E n
  | 0x2F => decodeMajor2F n
  | 0x30 => decodeMajor30 n
  | 0x31 => decodeMajor31 n
  | 0x32 => decodeMajor32 n
  | 0x33 => decodeMajor33 n
  | 0x34 => decodeMajor34 n
  | 0x35 => decodeMajor35 n
  | 0x36 => decodeMajor36 n
  | _ => none

/-- The instruction of a word, or none where R73 steps 1 to 3 trap with 0x01. -/
def decode (w : Word32) : Option Instr :=
  match decodeRow w.toNat with
  | some i => if i.wf then some i else none
  | none => none

/-- The word at an address, from its four bytes, the lowest address first (R68). -/
def wordOfBytes (b0 b1 b2 b3 : Byte) : Word32 :=
  BitVec.ofNat 32 (b0.toNat + 256 * b1.toNat + 65536 * b2.toNat + 16777216 * b3.toNat)

/-- Decode from a list of bytes: the instruction and the rest of the list. -/
def decodeBytes : List Byte → Option (Instr × List Byte)
  | b0 :: b1 :: b2 :: b3 :: rest => (decode (wordOfBytes b0 b1 b2 b3)).map (fun i => (i, rest))
  | _ => none

/-- The instruction the decoder reads from a word numbered as the opcode table numbers it: its bytes are laid out in the
order of R68 and given to the decoder. Every encoded row has 32 bits; no row is longer. -/
def decodeTableWord (nbits w : Nat) : Option Instr :=
  if nbits ≤ 32 then
    (decodeBytes [BitVec.ofNat 8 w, BitVec.ofNat 8 (w / 256), BitVec.ofNat 8 (w / 65536), BitVec.ofNat 8 (w / 16777216)]).map
      Prod.fst
  else none

/-- The bits of an encoded instruction's word as a number; none for a step that has no encoding. -/
def encodeNat : Instr → Option Nat
  | .add d a b => some (0x04000000 + d.toNat * 16384 + a.toNat * 128 + b.toNat)
  | .sub d a b => some (0x04800000 + d.toNat * 16384 + a.toNat * 128 + b.toNat)
  | .and d a b => some (0x05000000 + d.toNat * 16384 + a.toNat * 128 + b.toNat)
  | .or d a b => some (0x05800000 + d.toNat * 16384 + a.toNat * 128 + b.toNat)
  | .xor d a b => some (0x06000000 + d.toNat * 16384 + a.toNat * 128 + b.toNat)
  | .andn d a b => some (0x06800000 + d.toNat * 16384 + a.toNat * 128 + b.toNat)
  | .shl d a b => some (0x07000000 + d.toNat * 16384 + a.toNat * 128 + b.toNat)
  | .shr d a b => some (0x07800000 + d.toNat * 16384 + a.toNat * 128 + b.toNat)
  | .sar d a b => some (0x08000000 + d.toNat * 16384 + a.toNat * 128 + b.toNat)
  | .rol d a b => some (0x08800000 + d.toNat * 16384 + a.toNat * 128 + b.toNat)
  | .mul d a b => some (0x09000000 + d.toNat * 16384 + a.toNat * 128 + b.toNat)
  | .mulhs d a b => some (0x09800000 + d.toNat * 16384 + a.toNat * 128 + b.toNat)
  | .mulhn d a b => some (0x0A000000 + d.toNat * 16384 + a.toNat * 128 + b.toNat)
  | .divs d a b => some (0x0A800000 + d.toNat * 16384 + a.toNat * 128 + b.toNat)
  | .divn d a b => some (0x0B000000 + d.toNat * 16384 + a.toNat * 128 + b.toNat)
  | .rems d a b => some (0x0B800000 + d.toNat * 16384 + a.toNat * 128 + b.toNat)
  | .remn d a b => some (0x0C000000 + d.toNat * 16384 + a.toNat * 128 + b.toNat)
  | .mins d a b => some (0x0C800000 + d.toNat * 16384 + a.toNat * 128 + b.toNat)
  | .maxs d a b => some (0x0D000000 + d.toNat * 16384 + a.toNat * 128 + b.toNat)
  | .minn d a b => some (0x0D800000 + d.toNat * 16384 + a.toNat * 128 + b.toNat)
  | .maxn d a b => some (0x0E000000 + d.toNat * 16384 + a.toNat * 128 + b.toNat)
  | .clz d a => some (0x0E800000 + d.toNat * 16384 + a.toNat * 128)
  | .ctz d a => some (0x0F000000 + d.toNat * 16384 + a.toNat * 128)
  | .popc d a => some (0x0F800000 + d.toNat * 16384 + a.toNat * 128)
  | .bswap d a => some (0x10000000 + d.toNat * 16384 + a.toNat * 128)
  | .seq d a b => some (0x10800000 + d.toNat * 16384 + a.toNat * 128 + b.toNat)
  | .sne d a b => some (0x11000000 + d.toNat * 16384 + a.toNat * 128 + b.toNat)
  | .slts d a b => some (0x11800000 + d.toNat * 16384 + a.toNat * 128 + b.toNat)
  | .sltn d a b => some (0x12000000 + d.toNat * 16384 + a.toNat * 128 + b.toNat)
  | .sles d a b => some (0x12800000 + d.toNat * 16384 + a.toNat * 128 + b.toNat)
  | .slen d a b => some (0x13000000 + d.toNat * 16384 + a.toNat * 128 + b.toNat)
  | .sel d a b => some (0x13800000 + d.toNat * 16384 + a.toNat * 128 + b.toNat)
  | .extsX8 d a => some (0x14000000 + d.toNat * 16384 + a.toNat * 128)
  | .extsX16 d a => some (0x14800000 + d.toNat * 16384 + a.toNat * 128)
  | .extsX32 d a => some (0x15000000 + d.toNat * 16384 + a.toNat * 128)
  | .extzN8 d a => some (0x15800000 + d.toNat * 16384 + a.toNat * 128)
  | .extzN16 d a => some (0x16000000 + d.toNat * 16384 + a.toNat * 128)
  | .extzN32 d a => some (0x16800000 + d.toNat * 16384 + a.toNat * 128)
  | .bfx d a b => some (0x17000000 + d.toNat * 16384 + a.toNat * 128 + b.toNat)
  | .bfi d a b => some (0x17800000 + d.toNat * 16384 + a.toNat * 128 + b.toNat)
  | .faddS d a b => some (0x18000000 + d.toNat * 16384 + a.toNat * 128 + b.toNat)
  | .fsubS d a b => some (0x18800000 + d.toNat * 16384 + a.toNat * 128 + b.toNat)
  | .fmulS d a b => some (0x19000000 + d.toNat * 16384 + a.toNat * 128 + b.toNat)
  | .fdivS d a b => some (0x19800000 + d.toNat * 16384 + a.toNat * 128 + b.toNat)
  | .fminS d a b => some (0x1A000000 + d.toNat * 16384 + a.toNat * 128 + b.toNat)
  | .fmaxS d a b => some (0x1A800000 + d.toNat * 16384 + a.toNat * 128 + b.toNat)
  | .fcmpS d a b => some (0x1B000000 + d.toNat * 16384 + a.toNat * 128 + b.toNat)
  | .ffmaS d a b => some (0x1B800000 + d.toNat * 16384 + a.toNat * 128 + b.toNat)
  | .faddD d a b => some (0x1C000000 + d.toNat * 16384 + a.toNat * 128 + b.toNat)
  | .fsubD d a b => some (0x1C800000 + d.toNat * 16384 + a.toNat * 128 + b.toNat)
  | .fmulD d a b => some (0x1D000000 + d.toNat * 16384 + a.toNat * 128 + b.toNat)
  | .fdivD d a b => some (0x1D800000 + d.toNat * 16384 + a.toNat * 128 + b.toNat)
  | .fminD d a b => some (0x1E000000 + d.toNat * 16384 + a.toNat * 128 + b.toNat)
  | .fmaxD d a b => some (0x1E800000 + d.toNat * 16384 + a.toNat * 128 + b.toNat)
  | .fcmpD d a b => some (0x1F000000 + d.toNat * 16384 + a.toNat * 128 + b.toNat)
  | .ffmaD d a b => some (0x1F800000 + d.toNat * 16384 + a.toNat * 128 + b.toNat)
  | .fsqrt d a dbl => some (0x4C000000 + d.toNat * 16384 + a.toNat * 128 + dbl.toNat)
  | .frsqe d a dbl => some (0x4C800000 + d.toNat * 16384 + a.toNat * 128 + dbl.toNat)
  | .frcpe d a dbl => some (0x4D000000 + d.toNat * 16384 + a.toNat * 128 + dbl.toNat)
  | .fclass d a dbl => some (0x4D800000 + d.toNat * 16384 + a.toNat * 128 + dbl.toNat)
  | .fcvt d a s => some (0x4E000000 + d.toNat * 16384 + a.toNat * 128 + s.toNat)
  | .addi d a i => some (0x80000000 + d.toNat * 524288 + a.toNat * 4096 + i.toNat)
  | .andi d a i => some (0x84000000 + d.toNat * 524288 + a.toNat * 4096 + i.toNat)
  | .ori d a i => some (0x88000000 + d.toNat * 524288 + a.toNat * 4096 + i.toNat)
  | .xori d a i => some (0x8C000000 + d.toNat * 524288 + a.toNat * 4096 + i.toNat)
  | .shli d a i => some (0x90000000 + d.toNat * 524288 + a.toNat * 4096 + i.toNat)
  | .shri d a i => some (0x94000000 + d.toNat * 524288 + a.toNat * 4096 + i.toNat)
  | .sari d a i => some (0x98000000 + d.toNat * 524288 + a.toNat * 4096 + i.toNat)
  | .sltsi d a i => some (0x9C000000 + d.toNat * 524288 + a.toNat * 4096 + i.toNat)
  | .sltni d a i => some (0xA0000000 + d.toNat * 524288 + a.toNat * 4096 + i.toNat)
  | .movi d i => some (0xC0000000 + d.toNat * 524288 + i.toNat)
  | .lui d i => some (0xC0020000 + d.toNat * 524288 + i.toNat)
  | .addpc d i => some (0xC0040000 + d.toNat * 524288 + i.toNat)
  | .call d i => some (0xC4000000 + d.toNat * 524288 + i.toNat)
  | .bEqz a o => some (0xC8000000 + a.toNat * 65536 + o.toNat)
  | .bNez a o => some (0xC8800000 + a.toNat * 65536 + o.toNat)
  | .bLtz a o => some (0xC9000000 + a.toNat * 65536 + o.toNat)
  | .bGez a o => some (0xC9800000 + a.toNat * 65536 + o.toNat)
  | .bGtz a o => some (0xCA000000 + a.toNat * 65536 + o.toNat)
  | .bLez a o => some (0xCA800000 + a.toNat * 65536 + o.toNat)
  | .bAny a o => some (0xCC000000 + a.toNat * 65536 + o.toNat)
  | .bAll a o => some (0xCC800000 + a.toNat * 65536 + o.toNat)
  | .br o => some (0xCD000000 + o.toNat)
  | .loop a l => some (0xD0000000 + a.toNat * 4096 + l.toNat)
  | .sloop d a l => some (0xD0000800 + d.toNat * 524288 + a.toNat * 4096 + l.toNat)
  | .swin n => some (0xD4000000 + n.toNat)
  | .vcfg c => some (0xD4000400 + c.toNat)
  | .vshapeImm j i => some (0xD4000800 + j.toNat * 16 + i.toNat)
  | .act d a t => some (0xD8000000 + d.toNat * 524288 + a.toNat * 4096 + t.toNat)
  | .actz d a t => some (0xD8000400 + d.toNat * 524288 + a.toNat * 4096 + t.toNat)
  | .refImm n => some (0xD8000800 + n.toNat)
  | .ld d a f i => some (0xB0000000 + d.toNat * 524288 + a.toNat * 4096 + f.toNat * 512 + i.toNat)
  | .st d a f i => some (0xB4000000 + d.toNat * 524288 + a.toNat * 4096 + f.toNat * 512 + i.toNat)
  | .stRel d a f i => some (0xB4000800 + d.toNat * 524288 + a.toNat * 4096 + f.toNat * 512 + i.toNat)
  | .ldAcq d a f i => some (0xB8000000 + d.toNat * 524288 + a.toNat * 4096 + f.toNat * 512 + i.toNat)
  | .ldc d a i => some (0xBC000000 + d.toNat * 524288 + a.toNat * 4096 + i.toNat)
  | .pfetch d a i => some (0xBC000400 + d.toNat * 524288 + a.toNat * 4096 + i.toNat)
  | .vadd lastA lastB d a b => some (0x20000000 + lastA.toNat * 4194304 + lastB.toNat * 2097152 + d.toNat * 16384 + a.toNat * 128 + b.toNat)
  | .vsub lastA lastB d a b => some (0x20800000 + lastA.toNat * 4194304 + lastB.toNat * 2097152 + d.toNat * 16384 + a.toNat * 128 + b.toNat)
  | .vmul lastA lastB d a b => some (0x21000000 + lastA.toNat * 4194304 + lastB.toNat * 2097152 + d.toNat * 16384 + a.toNat * 128 + b.toNat)
  | .vfma lastA lastB d a b => some (0x21800000 + lastA.toNat * 4194304 + lastB.toNat * 2097152 + d.toNat * 16384 + a.toNat * 128 + b.toNat)
  | .vfms lastA lastB d a b => some (0x22000000 + lastA.toNat * 4194304 + lastB.toNat * 2097152 + d.toNat * 16384 + a.toNat * 128 + b.toNat)
  | .vfnma lastA lastB d a b => some (0x22800000 + lastA.toNat * 4194304 + lastB.toNat * 2097152 + d.toNat * 16384 + a.toNat * 128 + b.toNat)
  | .vabs lastA d a => some (0x23000000 + lastA.toNat * 4194304 + d.toNat * 16384 + a.toNat * 128)
  | .vneg lastA d a => some (0x23800000 + lastA.toNat * 4194304 + d.toNat * 16384 + a.toNat * 128)
  | .vand lastA lastB d a b => some (0x24000000 + lastA.toNat * 4194304 + lastB.toNat * 2097152 + d.toNat * 16384 + a.toNat * 128 + b.toNat)
  | .vor lastA lastB d a b => some (0x24800000 + lastA.toNat * 4194304 + lastB.toNat * 2097152 + d.toNat * 16384 + a.toNat * 128 + b.toNat)
  | .vxor lastA lastB d a b => some (0x25000000 + lastA.toNat * 4194304 + lastB.toNat * 2097152 + d.toNat * 16384 + a.toNat * 128 + b.toNat)
  | .vandn lastA lastB d a b => some (0x25800000 + lastA.toNat * 4194304 + lastB.toNat * 2097152 + d.toNat * 16384 + a.toNat * 128 + b.toNat)
  | .vshl lastA lastB d a b => some (0x26000000 + lastA.toNat * 4194304 + lastB.toNat * 2097152 + d.toNat * 16384 + a.toNat * 128 + b.toNat)
  | .vshr lastA lastB d a b => some (0x26800000 + lastA.toNat * 4194304 + lastB.toNat * 2097152 + d.toNat * 16384 + a.toNat * 128 + b.toNat)
  | .vsar lastA lastB d a b => some (0x27000000 + lastA.toNat * 4194304 + lastB.toNat * 2097152 + d.toNat * 16384 + a.toNat * 128 + b.toNat)
  | .vsel lastA lastB d a b => some (0x27800000 + lastA.toNat * 4194304 + lastB.toNat * 2097152 + d.toNat * 16384 + a.toNat * 128 + b.toNat)
  | .vmin lastA lastB d a b => some (0x28000000 + lastA.toNat * 4194304 + lastB.toNat * 2097152 + d.toNat * 16384 + a.toNat * 128 + b.toNat)
  | .vminX lastA lastB d a b => some (0x28800000 + lastA.toNat * 4194304 + lastB.toNat * 2097152 + d.toNat * 16384 + a.toNat * 128 + b.toNat)
  | .vminN lastA lastB d a b => some (0x29000000 + lastA.toNat * 4194304 + lastB.toNat * 2097152 + d.toNat * 16384 + a.toNat * 128 + b.toNat)
  | .vmax lastA lastB d a b => some (0x29800000 + lastA.toNat * 4194304 + lastB.toNat * 2097152 + d.toNat * 16384 + a.toNat * 128 + b.toNat)
  | .vmaxX lastA lastB d a b => some (0x2A000000 + lastA.toNat * 4194304 + lastB.toNat * 2097152 + d.toNat * 16384 + a.toNat * 128 + b.toNat)
  | .vmaxN lastA lastB d a b => some (0x2A800000 + lastA.toNat * 4194304 + lastB.toNat * 2097152 + d.toNat * 16384 + a.toNat * 128 + b.toNat)
  | .vmulw lastA lastB d a b => some (0x2B000000 + lastA.toNat * 4194304 + lastB.toNat * 2097152 + d.toNat * 16384 + a.toNat * 128 + b.toNat)
  | .vmulwX lastA lastB d a b => some (0x2B800000 + lastA.toNat * 4194304 + lastB.toNat * 2097152 + d.toNat * 16384 + a.toNat * 128 + b.toNat)
  | .vmulwN lastA lastB d a b => some (0x2C000000 + lastA.toNat * 4194304 + lastB.toNat * 2097152 + d.toNat * 16384 + a.toNat * 128 + b.toNat)
  | .vmerge lastA d a b => some (0x2C800000 + lastA.toNat * 4194304 + d.toNat * 16384 + a.toNat * 128 + b.toNat)
  | .vrsqe lastA d a => some (0x2D000000 + lastA.toNat * 4194304 + d.toNat * 16384 + a.toNat * 128)
  | .vrcpe lastA d a => some (0x2D800000 + lastA.toNat * 4194304 + d.toNat * 16384 + a.toNat * 128)
  | .vexp2e lastA d a => some (0x2E000000 + lastA.toNat * 4194304 + d.toNat * 16384 + a.toNat * 128)
  | .viota lastA d a => some (0x2E800000 + lastA.toNat * 4194304 + d.toNat * 16384 + a.toNat * 128)
  | .vbcast lastA d a b => some (0x2F000000 + lastA.toNat * 4194304 + d.toNat * 16384 + a.toNat * 128 + b.toNat)
  | .vclr lastA d a => some (0x2F800000 + lastA.toNat * 4194304 + d.toNat * 16384 + a.toNat * 128)
  | .vins d a b => some (0x30000000 + d.toNat * 16384 + a.toNat * 128 + b.toNat)
  | .vext lastA d a b => some (0x30800000 + lastA.toNat * 4194304 + d.toNat * 16384 + a.toNat * 128 + b.toNat)
  | .vslideUp lastA d a b => some (0x31000000 + lastA.toNat * 4194304 + d.toNat * 16384 + a.toNat * 128 + b.toNat)
  | .vslideDn lastA d a b => some (0x31800000 + lastA.toNat * 4194304 + d.toNat * 16384 + a.toNat * 128 + b.toNat)
  | .vperm lastA lastB d a b => some (0x32000000 + lastA.toNat * 4194304 + lastB.toNat * 2097152 + d.toNat * 16384 + a.toNat * 128 + b.toNat)
  | .vcopy lastA d a => some (0x32800000 + lastA.toNat * 4194304 + d.toNat * 16384 + a.toNat * 128)
  | .vshape a b => some (0x33000000 + a.toNat * 128 + b.toNat)
  | .pmovs d a b => some (0x33800000 + d.toNat * 16384 + a.toNat * 128 + b.toNat)
  | .vred lastA d a s => some (0x34000000 + lastA.toNat * 4194304 + d.toNat * 16384 + a.toNat * 128 + s.toNat)
  | .vcmpEq lastA lastB d a b => some (0x38000000 + lastA.toNat * 4194304 + lastB.toNat * 2097152 + d.toNat * 16384 + a.toNat * 128 + b.toNat)
  | .vcmpNe lastA lastB d a b => some (0x38800000 + lastA.toNat * 4194304 + lastB.toNat * 2097152 + d.toNat * 16384 + a.toNat * 128 + b.toNat)
  | .vcmpLt lastA lastB d a b => some (0x39000000 + lastA.toNat * 4194304 + lastB.toNat * 2097152 + d.toNat * 16384 + a.toNat * 128 + b.toNat)
  | .vcmpLe lastA lastB d a b => some (0x39800000 + lastA.toNat * 4194304 + lastB.toNat * 2097152 + d.toNat * 16384 + a.toNat * 128 + b.toNat)
  | .vcmpUn lastA lastB d a b => some (0x3A000000 + lastA.toNat * 4194304 + lastB.toNat * 2097152 + d.toNat * 16384 + a.toNat * 128 + b.toNat)
  | .vcmpLtX lastA lastB d a b => some (0x3A800000 + lastA.toNat * 4194304 + lastB.toNat * 2097152 + d.toNat * 16384 + a.toNat * 128 + b.toNat)
  | .vcmpLeX lastA lastB d a b => some (0x3B000000 + lastA.toNat * 4194304 + lastB.toNat * 2097152 + d.toNat * 16384 + a.toNat * 128 + b.toNat)
  | .vcmpLtN lastA lastB d a b => some (0x3B800000 + lastA.toNat * 4194304 + lastB.toNat * 2097152 + d.toNat * 16384 + a.toNat * 128 + b.toNat)
  | .vcmpLeN lastA lastB d a b => some (0x3C000000 + lastA.toNat * 4194304 + lastB.toNat * 2097152 + d.toNat * 16384 + a.toNat * 128 + b.toNat)
  | .vcvt lastA d a r t => some (0x48000000 + lastA.toNat * 4194304 + d.toNat * 16384 + a.toNat * 128 + r.toNat * 16 + t.toNat)
  | .vcvtX lastA d a r t => some (0x48800000 + lastA.toNat * 4194304 + d.toNat * 16384 + a.toNat * 128 + r.toNat * 16 + t.toNat)
  | .vcvtN lastA d a r t => some (0x49000000 + lastA.toNat * 4194304 + d.toNat * 16384 + a.toNat * 128 + r.toNat * 16 + t.toNat)
  | .vscl lastA d a b => some (0x49800000 + lastA.toNat * 4194304 + d.toNat * 16384 + a.toNat * 128 + b.toNat)
  | .pand d a b => some (0x50000000 + d.toNat * 16384 + a.toNat * 128 + b.toNat)
  | .por d a b => some (0x50800000 + d.toNat * 16384 + a.toNat * 128 + b.toNat)
  | .pxor d a b => some (0x51000000 + d.toNat * 16384 + a.toNat * 128 + b.toNat)
  | .pandn d a b => some (0x51800000 + d.toNat * 16384 + a.toNat * 128 + b.toNat)
  | .pnot d a => some (0x52000000 + d.toNat * 16384 + a.toNat * 128)
  | .pcnt d a => some (0x52800000 + d.toNat * 16384 + a.toNat * 128)
  | .pfirst d a => some (0x53000000 + d.toNat * 16384 + a.toNat * 128)
  | .pset d a => some (0x53800000 + d.toNat * 16384 + a.toNat * 128)
  | .shuf lastA d a b => some (0x54000000 + lastA.toNat * 4194304 + d.toNat * 16384 + a.toNat * 128 + b.toNat)
  | .shufx lastA d a b => some (0x54800000 + lastA.toNat * 4194304 + d.toNat * 16384 + a.toNat * 128 + b.toNat)
  | .gbcast lastA d a b => some (0x55000000 + lastA.toNat * 4194304 + d.toNat * 16384 + a.toNat * 128 + b.toNat)
  | .gbar => some (0x55800000)
  | .gsplit a b => some (0x56000000 + a.toNat * 128 + b.toNat)
  | .gjoin => some (0x56800000)
  | .gsync => some (0x57000000)
  | .gred lastA d a s => some (0x58000000 + lastA.toNat * 4194304 + d.toNat * 16384 + a.toNat * 128 + s.toNat)
  | .wb d => some (0x5C000000 + d.toNat * 16384)
  | .pre d => some (0x5C800000 + d.toNat * 16384)
  | .rcopy d a => some (0x5D000000 + d.toNat * 16384 + a.toNat * 128)
  | .tag d t => some (0x5D800000 + d.toNat * 16384 + t.toNat)
  | .saverow d a b => some (0x5E000000 + d.toNat * 16384 + a.toNat * 128 + b.toNat)
  | .loadrow d a b => some (0x5E800000 + d.toNat * 16384 + a.toNat * 128 + b.toNat)
  | .refScalar a => some (0x5F000000 + a.toNat * 128)
  | .mshape d a => some (0x64000000 + d.toNat * 16384 + a.toNat * 128)
  | .mzero d => some (0x64800000 + d.toNat * 16384)
  | .mmf lastA lastB d a b => some (0x65000000 + lastA.toNat * 4194304 + lastB.toNat * 2097152 + d.toNat * 16384 + a.toNat * 128 + b.toNat)
  | .mmfO lastA lastB d a b => some (0x65800000 + lastA.toNat * 4194304 + lastB.toNat * 2097152 + d.toNat * 16384 + a.toNat * 128 + b.toNat)
  | .mwait => some (0x66000000)
  | .mstat d a => some (0x66800000 + d.toNat * 16384 + a.toNat * 128)
  | .cset a s => some (0x68000000 + a.toNat * 128 + s.toNat)
  | .cgo d => some (0x68800000 + d.toNat * 16384)
  | .cwait d a => some (0x69000000 + d.toNat * 16384 + a.toNat * 128)
  | .cstat d a => some (0x69800000 + d.toNat * 16384 + a.toNat * 128)
  | .ccancel a => some (0x6A000000 + a.toNat * 128)
  | .cresume a => some (0x6A800000 + a.toNat * 128)
  | .aadd d a w32 o c => some (0x70000000 + d.toNat * 16384 + a.toNat * 128 + w32.toNat * 32 + o.toNat * 8 + c.toNat)
  | .ainc d a w32 o c => some (0x70800000 + d.toNat * 16384 + a.toNat * 128 + w32.toNat * 32 + o.toNat * 8 + c.toNat)
  | .amins d a w32 o c => some (0x71000000 + d.toNat * 16384 + a.toNat * 128 + w32.toNat * 32 + o.toNat * 8 + c.toNat)
  | .amaxs d a w32 o c => some (0x71800000 + d.toNat * 16384 + a.toNat * 128 + w32.toNat * 32 + o.toNat * 8 + c.toNat)
  | .aminn d a w32 o c => some (0x72000000 + d.toNat * 16384 + a.toNat * 128 + w32.toNat * 32 + o.toNat * 8 + c.toNat)
  | .amaxn d a w32 o c => some (0x72800000 + d.toNat * 16384 + a.toNat * 128 + w32.toNat * 32 + o.toNat * 8 + c.toNat)
  | .aand d a w32 o c => some (0x73000000 + d.toNat * 16384 + a.toNat * 128 + w32.toNat * 32 + o.toNat * 8 + c.toNat)
  | .aor d a w32 o c => some (0x73800000 + d.toNat * 16384 + a.toNat * 128 + w32.toNat * 32 + o.toNat * 8 + c.toNat)
  | .axor d a w32 o c => some (0x74000000 + d.toNat * 16384 + a.toNat * 128 + w32.toNat * 32 + o.toNat * 8 + c.toNat)
  | .axchg d a w32 o c => some (0x74800000 + d.toNat * 16384 + a.toNat * 128 + w32.toNat * 32 + o.toNat * 8 + c.toNat)
  | .acas d a w32 o c => some (0x75000000 + d.toNat * 16384 + a.toNat * 128 + w32.toNat * 32 + o.toNat * 8 + c.toNat)
  | .fence s => some (0x75800000 + s.toNat)
  | .fenceC s => some (0x75800020 + s.toNat)
  | .claim d a b => some (0x76000000 + d.toNat * 16384 + a.toNat * 128 + b.toNat)
  | .mfc d c => some (0x78000000 + d.toNat * 16384 + c.toNat)
  | .mtc a c => some (0x78800000 + a.toNat * 128 + c.toNat)
  | .trap c => some (0x79000000 + c.toNat)
  | .eret => some (0x79800000)
  | .tlbinvVa a => some (0x7A000000 + a.toNat * 128)
  | .tlbinvTok a => some (0x7A000001 + a.toNat * 128)
  | .tlbinvAll => some (0x7A000002)
  | .trace a => some (0x7A800000 + a.toNat * 128)
  | .jr a => some (0x7B000000 + a.toNat * 128)
  | .exit => some (0x7B000001)
  | .yield => some (0x7B000002)
  | .nop => some (0x7B000003)
  | .brk => some (0x7B000004)
  | .waitwEq d a => some (0x7B800000 + d.toNat * 16384 + a.toNat * 128)
  | .waitwNe d a => some (0x7B800001 + d.toNat * 16384 + a.toNat * 128)
  | .waitwGe d a => some (0x7B800002 + d.toNat * 16384 + a.toNat * 128)
  | .asyncTrapEntry => none
  | .yieldExpiry _ => none
  | .elementGroup _ => none
  | .rowOperationStart _ _ => none
  | .refreshSlot _ _ => none
  | .refreshAccrual _ => none
  | .forcedRefresh _ _ => none
  | .selfRefreshSlot _ _ => none
  | .refreshBandCooling _ => none
  | .thermalHeating _ _ => none
  | .thermalCooling _ _ => none
  | .governorInterval _ _ => none
  | .governorCheck _ _ _ => none
  | .powerBrake _ => none
  | .haspOverheat => none
  | .launchRecord _ => none
  | .prerequisiteWake _ => none
  | .launchDispatch => none
  | .launchCompletion _ => none
  | .streamPlacement => none
  | .preemption _ => none
  | .equalPrioPreempt _ => none
  | .waitersGiveWay _ => none
  | .invalidationArrival _ _ => none
  | .pageWalk _ _ => none
  | .pageRequest _ _ => none
  | .slotGrant _ => none
  | .endpointActivation _ => none
  | .loadResponse _ => none
  | .storeAtHome _ => none
  | .atomicAtHome _ _ _ _ _ => none
  | .waitwWriteWake _ => none
  | .waitwTimerWake _ => none
  | .detentInstall _ => none
  | .copySourceRead _ _ => none
  | .recordDecompress _ _ => none
  | .copyLanding _ _ => none
  | .detentWmUpdate _ _ => none
  | .detentFree _ _ => none
  | .crewForm _ => none
  | .mmfRelease _ => none
  | .mmfComplete _ => none
  | .hingeRetry _ => none
  | .hingeLinkFail _ => none
  | .tierOffline _ => none
  | .offreq _ => none
  | .regionTableWrite _ _ _ => none
  | .pbudgetWrite _ => none
  | .savesetsWrite _ => none
  | .sreqWrite _ _ => none
  | .controlSpaceWrite _ _ => none
  | .hostAccess _ _ _ _ => none
  | .peerAccess _ _ _ _ => none
  | .linkRetrain _ => none
  | .linkDown _ _ => none
  | .hostPortTraining _ _ _ => none
  | .hostPortHotReset _ => none
  | .coldReset _ _ => none
  | .deviceReset _ => none
  | .spdmMessage _ => none
  | .mgmtReadTables _ => none
  | .mgmtWritePbudget _ _ => none
  | .mgmtWriteOffreq _ _ => none
  | .mgmtLoadImage _ _ => none
  | .accessFilterDenial => none
  | .attach _ => none
  | .detach _ => none
  | .halt _ => none
  | .haltPointReached _ => none
  | .resume _ => none
  | .readmem _ => none
  | .writemem _ => none
  | .readctx _ => none
  | .writectx _ => none
  | .readslip _ => none
  | .illegalInstruction _ => none
  | .instructionFetchFault => none
  | .matrixSliceFailure _ => none
  | .druthesLinkTrained _ _ _ _ => none
  | .druthesFlitRetry _ => none
  | .runtimeRelease => none
  | .runtimeEndsContext _ => none

/-- The word of an instruction (R69 to R81), if it has an encoding. -/
def encode (i : Instr) : Option Word32 := (encodeNat i).map (BitVec.ofNat 32)

end Sys2Proof
end

