-- ==== Sys2Proof/Config.lean ====
section
/-! DEFINITION. The constants of the device (R1, R151, R152, R329, R353) and the free values: constants without a body, so that
nothing can be proved of a value the spec leaves open. Each free value is named in the assumption log. -/

namespace Sys2Proof.Config

/-- Cores of the package (R1). -/
def nCores : Nat := 1024
/-- Tiers of the package, stack × 16 + tier (R351). -/
def nTiers : Nat := 128
/-- Stacks of the package (R1). -/
def nStacks : Nat := 8
/-- Launch queues (R329). -/
def nQueues : Nat := 64
/-- Copy slots of a core (R236). -/
def nSlots : Nat := 16
/-- Detents of a core (R242). -/
def nDetents : Nat := 32
/-- Physical keep rows of a bank (R18). -/
def nPool : Nat := 12
/-- Column-path request slots of a core (R291). -/
def nRequests : Nat := 16
/-- Slots of a core that one destination may hold (R292). -/
def nPerDestination : Nat := 4
/-- Entries of the page-request queue (R288). -/
def nPageRequests : Nat := 1024

/-- LOG 1. A choice among the values the spec allows: key is the step, kind what is chosen, pos which item of it. -/
opaque freePick (key kind pos : Nat) : Nat
/-- LOG 1. A free yes-or-no choice. -/
opaque freeBit (key kind pos : Nat) : Bool
/-- LOG 1. A free 64-bit value. -/
opaque freeWord (key kind pos : Nat) : BitVec 64
/-- LOG 77. The bucket of the watch filter that the word at a location selects (R311). -/
opaque watchBucket (word : Nat) : Nat
/-- LOG 13. The reference cycles that pass between two readings of CYCLE. -/
opaque cycles (key : Nat) : Nat
/-- LOG 10. The vendor digest in the fuses (R403). -/
opaque vendorDigest : List (BitVec 8)
/-- LOG 10. The bytes of the keyholder's ROM (R402, R404). -/
opaque romBytes : List (BitVec 8)
/-- LOG 10. The bytes in which the access filter's configuration is measured, by what it lets through (R404). -/
opaque filterBytes (lets : List Bool) : List (BitVec 8)
/-- LOG 10. The identity key in the fuses: its modulus and its private exponent (R402). -/
opaque identityModulus : Nat
opaque identityKey : Nat
/-- LOG 10. The salt of a signature, as a number (R404). -/
opaque salt (key : Nat) : Nat

end Sys2Proof.Config
end

