-- ==== Sys2Proof/Machine/Tab.lean ====
section
/-! DEFINITION. Sparse tables as plain data: a list of (key, value) pairs. In canonical form the keys rise strictly and no
value equals the value an unlisted key reads as, so equal tables are equal lists. Memory is the table of bytes. -/

namespace Sys2Proof.Machine

/-- A table keyed by numbers. -/
abbrev Tab (α : Type) := List (Nat × α)

/-- The entry of a key, if it is listed. -/
def tabFind {α : Type} : Tab α → Nat → Option α
  | [], _ => none
  | (k, v) :: t, x => if k = x then some v else tabFind t x

/-- The table without a key. -/
def tabErase {α : Type} (t : Tab α) (x : Nat) : Tab α := t.filter (fun c => c.1 != x)

/-- The table with a key bound to a value. -/
def tabPut {α : Type} (t : Tab α) (x : Nat) (v : α) : Tab α :=
  t.filter (fun c => c.1 < x) ++ (x, v) :: t.filter (fun c => x < c.1)

/-- The value of a key, where an unlisted key reads as d. -/
def tabGet {α : Type} (d : α) (t : Tab α) (x : Nat) : α := (tabFind t x).getD d

/-- Set a key. A value equal to d removes the entry, which keeps the canonical form. -/
def tabSet {α : Type} [DecidableEq α] (d : α) (t : Tab α) (x : Nat) (v : α) : Tab α :=
  if v = d then tabErase t x else tabPut t x v

/-- The keys rise strictly. -/
def tabSorted {α : Type} : Tab α → Bool
  | [] => true
  | [_] => true
  | a :: b :: t => decide (a.1 < b.1) && tabSorted (b :: t)

/-- The canonical form. -/
def tabWf {α : Type} [DecidableEq α] (d : α) (t : Tab α) : Bool :=
  tabSorted t && t.all (fun c => decide (c.2 ≠ d))

/-- One byte of memory; a byte nothing has written reads as 0 (R406 step 4). -/
def memByte (m : Tab Byte) (a : Nat) : Byte := tabGet 0 m a

/-- The nonzero bytes of the n-byte little-endian value v laid at address a. -/
def memCells (a n v : Nat) : Tab Byte :=
  (List.range n).filterMap fun i =>
    let b : Byte := BitVec.ofNat 8 (v >>> (8 * i))
    if b = 0 then none else some (a + i, b)

/-- Write the n-byte little-endian value v at a. -/
def memWrite (m : Tab Byte) (a n v : Nat) : Tab Byte :=
  m.filter (fun c => c.1 < a) ++ memCells a n v ++ m.filter (fun c => a + n ≤ c.1)

/-- The n-byte little-endian value at a. -/
def memRead (m : Tab Byte) (a n : Nat) : Nat :=
  (List.range n).foldr (fun i acc => acc + (memByte m (a + i)).toNat <<< (8 * i)) 0

/-- The n-byte value at a, gathered in one pass over a canonical memory (for whole rows). -/
def memReadBulk (m : Tab Byte) (a n : Nat) : Nat :=
  m.foldl (fun acc c => if a ≤ c.1 ∧ c.1 < a + n then acc + c.2.toNat <<< (8 * (c.1 - a)) else acc) 0

/-- The n-byte value at a. -/
def memGet (m : Tab Byte) (a n : Nat) : Nat := if n ≤ 64 then memRead m a n else memReadBulk m a n

/-- The canonical form of memory (R276): addresses strictly rising, no listed byte equal to 0. -/
def memWf (m : Tab Byte) : Bool := tabWf 0 m

end Sys2Proof.Machine
end

