-- ==== Sys2Proof/Machine/Bits.lean ====
section
/-! DEFINITION. Bit-field helpers: sign extension, field extraction and field replacement in wide values, and the integer
operations R47 fixes the corners of. -/

namespace Sys2Proof.Machine

/-- Bits [pos + w - 1 : pos] of x, as a number. -/
def bitsOf {n : Nat} (x : BitVec n) (pos w : Nat) : Nat := (x.toNat >>> pos) % 2 ^ w

/-- Replace bits [pos + w - 1 : pos] of x by the low w bits of v. -/
def putBits {n : Nat} (x : BitVec n) (pos w v : Nat) : BitVec n :=
  x ^^^ BitVec.ofNat n ((bitsOf x pos w ^^^ (v % 2 ^ w)) <<< pos)

/-- The w-bit value v read as two's complement. -/
def toSigned (w v : Nat) : Int :=
  let u := v % 2 ^ w
  if 2 * u < 2 ^ w then (u : Int) else (u : Int) - (2 : Int) ^ w

/-- The low w bits of an integer, as a number. -/
def wrapInt (w : Nat) (v : Int) : Nat := (v % (2 : Int) ^ w).toNat

/-- Sign-extend the low w bits of v to 64 bits. -/
def sext64 (w v : Nat) : Word := BitVec.ofInt 64 (toSigned w v)

/-- The largest k with 2^k ≤ n; 0 for n = 0. -/
def log2 (n : Nat) : Nat := Nat.log2 n

/-- Set bits among the low w bits of n. -/
def popCount : Nat → Nat → Nat
  | 0, _ => 0
  | w + 1, n => n % 2 + popCount w (n / 2)

/-- Zeros above the highest set bit of a w-bit value; w for 0 (R47). -/
def clz (w n : Nat) : Nat := if n = 0 then w else w - 1 - log2 n

/-- Zeros below the lowest set bit of a w-bit value; w for 0 (R47). -/
def ctz : Nat → Nat → Nat
  | 0, _ => 0
  | w + 1, n => if n % 2 = 1 then 0 else 1 + ctz w (n / 2)

/-- The parity of the low w bits of n (R278). -/
def parity (w n : Nat) : Nat := popCount w n % 2

/-- The largest r with r * r ≤ n, searched from bit b downward. -/
def isqrtFrom (n : Nat) : Nat → Nat → Nat
  | 0, r => r
  | b + 1, r => isqrtFrom n b (if (r + 2 ^ b) * (r + 2 ^ b) ≤ n then r + 2 ^ b else r)

/-- The integer square root. -/
def isqrt (n : Nat) : Nat := isqrtFrom n (log2 n / 2 + 1) 0

/-- The quotient of signed division (R47): toward zero; -1 for a divisor of 0. -/
def divSigned (a b : Int) : Int := if b = 0 then -1 else Int.tdiv a b

/-- The remainder of signed division (R47): of the dividend's sign; the dividend for a divisor of 0. -/
def remSigned (a b : Int) : Int := if b = 0 then a else Int.tmod a b

/-- The quotient of unsigned w-bit division (R47): all ones for a divisor of 0. -/
def divUnsigned (w a b : Nat) : Nat := if b = 0 then 2 ^ w - 1 else a / b

/-- The remainder of unsigned division (R47): the dividend for a divisor of 0. -/
def remUnsigned (a b : Nat) : Nat := if b = 0 then a else a % b

end Sys2Proof.Machine
end

