-- ==== Sys2Proof/Machine/Formats.lean ====
section
/-! DEFINITION. Number formats (R45 to R63): exact values of codes, and rounding of exact values to codes with their flags. -/

namespace Sys2Proof.Machine

/-- FPSR flags raised by an operation (R29): bits NV, DZ, OF, UF, NX, SAT from bit 0. -/
abbrev FpFlags := BitVec 6

def flagNV : FpFlags := 1
def flagDZ : FpFlags := 2
def flagOF : FpFlags := 4
def flagUF : FpFlags := 8
def flagNX : FpFlags := 16
def flagSAT : FpFlags := 32

/-- A flag when a condition holds. -/
def flagIf (b : Bool) (f : FpFlags) : FpFlags := if b then f else 0

/-- Rounding modes (R59). -/
inductive RMode where
  | rne | rtz | rup | rdn
  deriving DecidableEq, Repr

/-- FPCR.RM (R28). -/
def RMode.ofBits (b : Nat) : RMode :=
  match b % 4 with
  | 0 => .rne
  | 1 => .rtz
  | 2 => .rup
  | _ => .rdn

/-- The RM field of the VCVT family (R77): 0 takes FPCR.RM. -/
def RMode.ofField (fpcr : RMode) (r : BitVec 3) : RMode :=
  match r.toNat with
  | 1 => .rne
  | 2 => .rtz
  | 3 => .rup
  | 4 => .rdn
  | _ => fpcr

/-- An exact value: NaN (signalling or not), an infinity, or (-1)^neg × m × 2^e. -/
inductive FVal where
  | nan (sig : Bool)
  | inf (neg : Bool)
  | fin (neg : Bool) (m : Nat) (e : Int)
  deriving DecidableEq, Repr

def FVal.zero (neg : Bool) : FVal := .fin neg 0 0

def FVal.isNan : FVal → Bool
  | .nan _ => true
  | _ => false

def FVal.isSig : FVal → Bool
  | .nan s => s
  | _ => false

def FVal.isInf : FVal → Bool
  | .inf _ => true
  | _ => false

def FVal.isZero : FVal → Bool
  | .fin _ m _ => m == 0
  | _ => false

def FVal.isNeg : FVal → Bool
  | .nan _ => false
  | .inf s => s
  | .fin s _ _ => s

def FVal.negate : FVal → FVal
  | .nan s => .nan s
  | .inf s => .inf (!s)
  | .fin s m e => .fin (!s) m e

def FVal.abs : FVal → FVal
  | .nan s => .nan s
  | .inf _ => .inf false
  | .fin _ m e => .fin false m e

/-- The exact value of an integer. -/
def FVal.ofInt (v : Int) : FVal := .fin (decide (v < 0)) v.natAbs 0

/-- The binary floating-point formats (R48). -/
inductive Fmt where
  | f64 | f32 | f16 | bf16 | e4m3 | e5m2 | fp4
  deriving DecidableEq, Repr

/-- Fraction bits. -/
def Fmt.frac : Fmt → Nat
  | .f64 => 52 | .f32 => 23 | .f16 => 10 | .bf16 => 7 | .e4m3 => 3 | .e5m2 => 2 | .fp4 => 1

/-- Exponent bits. -/
def Fmt.ebits : Fmt → Nat
  | .f64 => 11 | .f32 => 8 | .f16 => 5 | .bf16 => 8 | .e4m3 => 4 | .e5m2 => 5 | .fp4 => 2

def Fmt.bias : Fmt → Int
  | .f64 => 1023 | .f32 => 127 | .f16 => 15 | .bf16 => 127 | .e4m3 => 7 | .e5m2 => 15 | .fp4 => 1

/-- emin = 1 - bias. -/
def Fmt.emin (f : Fmt) : Int := 1 - f.bias

/-- Code width in bits. -/
def Fmt.width (f : Fmt) : Nat := 1 + f.ebits + f.frac

def Fmt.hasInf : Fmt → Bool
  | .e4m3 | .fp4 => false
  | _ => true

/-- A finite result beyond the largest finite value saturates (R59). -/
def Fmt.sat : Fmt → Bool
  | .e5m2 | .e4m3 | .fp4 => true
  | _ => false

/-- FPCR.FZ acts on the format (R59, R60). -/
def Fmt.fz : Fmt → Bool
  | .f64 | .f32 | .f16 | .bf16 => true
  | _ => false

/-- The significand and the exponent of the largest finite value. -/
def Fmt.max : Fmt → Nat × Int
  | .f64 => (2 ^ 53 - 1, 971)
  | .f32 => (2 ^ 24 - 1, 104)
  | .f16 => (2047, 5)
  | .bf16 => (255, 120)
  | .e4m3 => (7, 6)
  | .e5m2 => (7, 13)
  | .fp4 => (3, 1)

/-- The canonical NaN (R49); FP4 has none. -/
def Fmt.qnan : Fmt → Nat
  | .f64 => 0x7FF8_0000_0000_0000
  | .f32 => 0x7FC0_0000
  | .f16 => 0x7E00
  | .bf16 => 0x7FC0
  | .e4m3 => 0x7F
  | .e5m2 => 0x7E
  | .fp4 => 0

/-- The exact value of a code (R48, R49). -/
def Fmt.value (f : Fmt) (code : Nat) : FVal :=
  let s := code / 2 ^ (f.ebits + f.frac) % 2 == 1
  let ex := code / 2 ^ f.frac % 2 ^ f.ebits
  let fr := code % 2 ^ f.frac
  let normal : FVal := .fin s (2 ^ f.frac + fr) ((ex : Int) - f.bias - f.frac)
  if ex = 0 then .fin s fr (f.emin - f.frac)
  else if ex = 2 ^ f.ebits - 1 then
    match f with
    | .fp4 => normal
    | .e4m3 => if fr = 7 then .nan false else normal
    | .e5m2 => if fr = 0 then .inf s else .nan false
    | _ => if fr = 0 then .inf s else .nan (decide (fr < 2 ^ (f.frac - 1)))
  else normal

/-- The code of a value the format represents exactly; a NaN becomes the canonical NaN. -/
def Fmt.code (f : Fmt) : FVal → Nat
  | .nan _ => f.qnan
  | .inf s => s.toNat * 2 ^ (f.ebits + f.frac) + (2 ^ f.ebits - 1) * 2 ^ f.frac
  | .fin s m e =>
    let sign := s.toNat * 2 ^ (f.ebits + f.frac)
    if m = 0 then sign
    else
      let l := log2 m
      let ex := (l : Int) + e
      if ex < f.emin then
        -- subnormal: the significand in units of 2^(emin - frac)
        let sh := e - (f.emin - f.frac)
        sign + (if 0 ≤ sh then m <<< sh.toNat else m >>> (-sh).toNat)
      else
        let fr := if l ≤ f.frac then m <<< (f.frac - l) else m >>> (l - f.frac)
        sign + (ex + f.bias).toNat * 2 ^ f.frac + fr % 2 ^ f.frac

/-- The value is a nonzero magnitude below 2^emin of the format. -/
def FVal.isSubnormal (f : Fmt) : FVal → Bool
  | .fin _ m e => m != 0 && decide ((log2 m : Int) + e < f.emin)
  | _ => false

/-- FZ on an input (R60): a subnormal of FP64, FP32, FP16 or BF16 becomes a zero of its sign. -/
def flushIn (f : Fmt) (fz : Bool) (x : FVal) : FVal :=
  if fz && f.fz && x.isSubnormal f then .zero x.isNeg else x

/-- m / 2^k rounded to an integer in a mode for a sign, and whether it was exact (rnd of R59). -/
def roundMag (mode : RMode) (neg : Bool) (m : Nat) (k : Int) : Nat × Bool :=
  if k ≤ 0 then (m <<< (-k).toNat, true)
  else
    -- far below the unit, only whether the value is zero matters
    let far := decide ((log2 m : Int) + 2 < k)
    let kk := if far then log2 m + 2 else k.toNat
    let i := m >>> kk
    let r := m % 2 ^ kk
    let half := 2 ^ (kk - 1)
    let up :=
      match mode with
      | .rne => decide (half < r) || (decide (r = half) && i % 2 == 1)
      | .rtz => false
      | .rup => !neg && r != 0
      | .rdn => neg && r != 0
    (if up then i + 1 else i, r == 0)

/-- Compare m × 2^e with m' × 2^e' (both nonzero). -/
def magLt (m : Nat) (e : Int) (m' : Nat) (e' : Int) : Bool :=
  if m = 0 then m' != 0
  else if m' = 0 then false
  else
    let x := (log2 m : Int) + e
    let y := (log2 m' : Int) + e'
    if x ≠ y then decide (x < y)
    else
      let lo := min e e'
      decide (m <<< (e - lo).toNat < m' <<< (e' - lo).toNat)

/-- round_fmt (R59): the rounded value and its flags. FZ acts on every conversion to a format it acts on (R59, R182), also on the exact
ones of R62's first row: an E5M2 value that F16 holds as a subnormal becomes a zero, with UF and NX (DESIGN CHOICE, LOG 73). -/
def roundFmt (f : Fmt) (mode : RMode) (fz : Bool) : FVal → FVal × FpFlags
  | .nan _ => (.nan false, 0)
  | .inf s => if f.hasInf then (.inf s, 0) else (.fin s f.max.1 f.max.2, flagSAT ||| flagNX)
  | .fin s m e =>
    if m = 0 then (.fin s 0 0, 0)
    else
      let ex := (log2 m : Int) + e
      let er := if ex < f.emin then f.emin else ex
      let qe := er - f.frac
      let (y, exact) := roundMag mode s m (qe - e)
      let tiny := decide (ex < f.emin)
      let fl := flagIf (!exact) flagNX ||| flagIf (!exact && tiny) flagUF
      if magLt f.max.1 f.max.2 y qe then
        if f.sat then (.fin s f.max.1 f.max.2, fl ||| flagNX ||| flagSAT)
        else if mode = .rne ∨ (mode = .rup ∧ s = false) ∨ (mode = .rdn ∧ s = true) then
          (.inf s, fl ||| flagNX ||| flagOF)
        else (.fin s f.max.1 f.max.2, fl ||| flagNX ||| flagOF)
      else if f.fz && fz && y != 0 && decide ((log2 y : Int) + qe < f.emin) then
        (.zero s, fl ||| flagUF ||| flagNX)
      else if y = 0 then (.zero s, fl)
      else (.fin s y qe, fl)

/-- round_fmt to a code. -/
def roundCode (f : Fmt) (mode : RMode) (fz : Bool) (x : FVal) : Nat × FpFlags :=
  let (v, fl) := roundFmt f mode fz x
  (f.code v, fl)

/-- The number of leading bits of the low `left` bits of m equal to top. -/
def tmRun (m : Nat) (top : Nat) : Nat → Nat
  | 0 => 0
  | left + 1 => if m / 2 ^ left % 2 = top then 1 + tmRun m top left else 0

/-- The exact value of a tumbler code of n magnitude bits (R54, R55). -/
def tmValue (n c : Nat) : FVal :=
  let s := c / 2 ^ n % 2 == 1
  let m := c % 2 ^ n
  if m = 0 then (if s then .nan false else .zero false)
  else
    let top := m / 2 ^ (n - 1) % 2
    let run := tmRun m top n
    let k : Int := if top = 1 then (run : Int) - 1 else -(run : Int)
    let rest := n - run - 1
    if rest = 0 then .fin s 1 (2 * k)
    else
      let e := m / 2 ^ (rest - 1) % 2
      let nf := rest - 1
      let fr := m % 2 ^ nf
      .fin s (2 ^ nf + fr) (2 * k + e - nf)

/-- |a - b| of two magnitudes in units of 2^lo. -/
def magUnits (lo : Int) : FVal → Nat
  | .fin _ m e => m <<< (e - lo).toNat
  | _ => 0

/-- The tumbler magnitude code in 1 .. 2^n - 1 nearest to the magnitude a, ties to the even code (R56): a search upward
that keeps the best code so far. -/
def tmNearest (n : Nat) (a : FVal) : Nat :=
  let lo : Int := match a with
    | .fin _ _ e => min e (-32)
    | _ => -32
  let av := magUnits lo a
  let dist := fun c => let cv := magUnits lo (tmValue n c); if cv ≤ av then av - cv else cv - av
  (List.range (2 ^ n - 2)).foldl
    (fun best i =>
      let c := i + 2
      let d := dist c
      let b := dist best
      if d < b then c else if d = b ∧ c % 2 = 0 then c else best) 1

/-- round_tm (R56): n is 7 for TM8 and 5 for TM6. -/
def roundTm (n : Nat) : FVal → Nat × FpFlags
  | .nan _ => (2 ^ n, 0)
  | .inf s => (s.toNat * 2 ^ n + (2 ^ n - 1), flagSAT ||| flagNX)
  | .fin s m e =>
    if m = 0 then (0, 0)
    else
      match tmValue n (2 ^ n - 1), tmValue n 1 with
      | .fin _ mM eM, .fin _ mL eL =>
        if magLt mM eM m e then (s.toNat * 2 ^ n + (2 ^ n - 1), flagSAT ||| flagNX)
        else if magLt m e mL eL then (s.toNat * 2 ^ n + 1, flagUF ||| flagNX)
        else
          let c := tmNearest n (.fin false m e)
          match tmValue n c with
          | .fin _ mc ec =>
            (s.toNat * 2 ^ n + c, flagIf (magLt mc ec m e || magLt m e mc ec) flagNX)
          | _ => (s.toNat * 2 ^ n + c, 0)
      | _, _ => (0, 0)

/-- sat_int (R53): an integer saturated to a w-bit range, with SAT and NX when it saturates. -/
def satInt (w : Nat) (signed : Bool) (v : Int) : Int × FpFlags :=
  let lo : Int := if signed then -((2 : Int) ^ (w - 1)) else 0
  let hi : Int := if signed then (2 : Int) ^ (w - 1) - 1 else (2 : Int) ^ w - 1
  if v < lo then (lo, flagSAT ||| flagNX) else if hi < v then (hi, flagSAT ||| flagNX) else (v, 0)

/-- Float to integer of w bits (R62). -/
def toInt (w : Nat) (signed : Bool) (mode : RMode) : FVal → Int × FpFlags
  | .nan _ => (0, flagNV)
  | .inf s =>
    ((if s then (if signed then -((2 : Int) ^ (w - 1)) else 0)
      else (if signed then (2 : Int) ^ (w - 1) - 1 else (2 : Int) ^ w - 1)), flagNV ||| flagSAT)
  | .fin s m e =>
    -- beyond 2^80 every value is out of range
    if decide (80 < (log2 m : Int) + e) then
      ((satInt w signed (if s then -((2 : Int) ^ 80) else (2 : Int) ^ 80)).1, flagNV ||| flagSAT)
    else
      let (y, exact) := roundMag mode s m (-e)
      let v : Int := if s then -(y : Int) else y
      let r := (satInt w signed v).1
      if r = v then (r, flagIf (!exact) flagNX) else (r, flagNV ||| flagSAT)

/-- The 4-bit format tags (R57). -/
abbrev TagBits := BitVec 4

/-- The float family F (R172). -/
def tagF (t : TagBits) : Bool := decide (1 ≤ t.toNat ∧ t.toNat ≤ 7)
/-- The block family Bk (R172). -/
def tagBk (t : TagBits) : Bool := decide (12 ≤ t.toNat)
/-- The integer family I (R172). -/
def tagI (t : TagBits) : Bool := decide (8 ≤ t.toNat ∧ t.toNat ≤ 11)
/-- RAW. -/
def tagRaw (t : TagBits) : Bool := decide (t.toNat = 0)

/-- Element width in bits (R46); RAW counts as 8-bit elements (R160). -/
def tagBits (t : TagBits) : Nat :=
  match t.toNat with
  | 1 => 32 | 2 => 16 | 3 => 16 | 7 => 6 | 9 => 16 | 10 => 32 | 11 => 64 | 15 => 4
  | _ => 8

/-- Elements in an 8 KiB segment (R46). -/
def tagPerSeg (t : TagBits) : Nat :=
  match t.toNat with
  | 1 => 2048 | 2 => 4096 | 3 => 4096 | 7 => 10240 | 9 => 4096 | 10 => 2048 | 11 => 1024
  | 12 => 7680 | 13 => 7680 | 14 => 7680 | 15 => 14336
  | _ => 8192

/-- The binary format of a float tag other than the tumblers. -/
def tagFmt (t : TagBits) : Option Fmt :=
  match t.toNat with
  | 1 => some .f32 | 2 => some .bf16 | 3 => some .f16 | 4 => some .e4m3 | 5 => some .e5m2
  | _ => none

/-- The exact value of a float-family code. -/
def tagValue (t : TagBits) (fz : Bool) (code : Nat) : FVal :=
  match tagFmt t with
  | some f => flushIn f fz (f.value code)
  | none => if t.toNat = 6 then tmValue 7 code else tmValue 5 code

/-- An exact value rounded into a float-family format (R59, R56). -/
def tagRound (t : TagBits) (mode : RMode) (fz : Bool) (x : FVal) : Nat × FpFlags :=
  match tagFmt t with
  | some f => roundCode f mode fz x
  | none => if t.toNat = 6 then roundTm 7 x else roundTm 5 x

/-- The element format of a block tag (R51, R53): none is x8. -/
def blockFmt (t : TagBits) : Option Fmt :=
  match t.toNat with
  | 12 => some .e4m3 | 13 => some .e5m2 | 15 => some .fp4
  | _ => none

/-- The exact value of a block element (R50, R51) from its code and scale byte. -/
def blockValue (t : TagBits) (code scale : Nat) : FVal :=
  if scale = 255 then .nan false
  else
    let sh : Int := (scale : Int) - 127
    match blockFmt t with
    | some f =>
      match f.value code with
      | .fin s m e => .fin s m (e + sh)
      | v => v
    | none =>
      match FVal.ofInt (toSigned 8 code) with
      | .fin s m e => .fin s m (e + sh - 6)
      | v => v

/-- f.emax of block_encode (R53). -/
def blockEmax (t : TagBits) : Int :=
  match t.toNat with
  | 12 => 8 | 13 => 15 | 15 => 2
  | _ => 0

/-- floor(log2) of the largest magnitude of a list, none when all are zero. -/
def maxExp : List FVal → Option Int
  | [] => none
  | .fin _ m e :: xs =>
    if m = 0 then maxExp xs
    else
      let x := (log2 m : Int) + e
      match maxExp xs with
      | none => some x
      | some y => some (max x y)
  | _ :: xs => maxExp xs

/-- block_encode (R53): the scale byte, the sixteen codes and the flags. -/
def blockEncode (t : TagBits) (mode : RMode) (fz : Bool) (xs : List FVal) : Nat × List Nat × FpFlags :=
  if xs.any (fun x => x.isNan || x.isInf) then (255, xs.map (fun _ => 0), flagNV)
  else
    match maxExp xs with
    | none => (127, xs.map (fun _ => 0), 0)
    | some a =>
      let d0 := a - blockEmax t
      let d := if d0 < -127 then -127 else if 127 < d0 then 127 else d0
      let one : FVal → Nat × FpFlags := fun x =>
        match x with
        | .fin s m e =>
          match blockFmt t with
          | some f => roundCode f mode fz (.fin s m (e - d))
          | none =>
            let (y, exact) := roundMag mode s m (-(e + 6 - d))
            let v : Int := if s then -(y : Int) else y
            let (r, fl) := satInt 8 true v
            (wrapInt 8 r, fl ||| flagIf (!exact) flagNX)
        | _ => (0, 0)
      let rs := xs.map one
      ((d + 127).toNat, rs.map Prod.fst, rs.foldl (fun acc r => acc ||| r.2) 0)

end Sys2Proof.Machine
end

