-- ==== Sys2Proof/Machine/Arith.lean ====
section
/-! DEFINITION. Exact arithmetic on values (R59 to R67): sums, products, quotients, square roots, minimum, maximum,
comparison, the summation tree and the seeds. A quotient or a root that is not dyadic is carried to 70 or more bits with a
sticky last bit, which rounds exactly as the real number does. -/

namespace Sys2Proof.Machine

/-- A NaN result: NV when an operand is signalling (R63). -/
def nanOf (xs : List FVal) : FVal × FpFlags := (.nan false, flagIf (xs.any FVal.isSig) flagNV)

/-- The exact sum with R61's zeros and R63's special cases. -/
def addVal (mode : RMode) (x y : FVal) : FVal × FpFlags :=
  match x, y with
  | .fin s1 m1 e1, .fin s2 m2 e2 =>
    if m1 = 0 ∧ m2 = 0 then
      (.zero (if s1 = s2 then s1 else decide (mode = .rdn)), 0)
    else if m1 = 0 then (y, 0)
    else if m2 = 0 then (x, 0)
    else
      let lo := min e1 e2
      let a : Int := (m1 <<< (e1 - lo).toNat : Nat)
      let b : Int := (m2 <<< (e2 - lo).toNat : Nat)
      let r := (if s1 then -a else a) + (if s2 then -b else b)
      if r = 0 then (.zero (decide (mode = .rdn)), 0) else (.fin (decide (r < 0)) r.natAbs lo, 0)
  | .inf s1, .inf s2 => if s1 = s2 then (.inf s1, 0) else (.nan false, flagNV)
  | .inf s1, .fin _ _ _ => (.inf s1, 0)
  | .fin _ _ _, .inf s2 => (.inf s2, 0)
  | _, _ => nanOf [x, y]

/-- The exact product. -/
def mulVal (x y : FVal) : FVal × FpFlags :=
  match x, y with
  | .fin s1 m1 e1, .fin s2 m2 e2 => (.fin (s1 != s2) (m1 * m2) (if m1 * m2 = 0 then 0 else e1 + e2), 0)
  | .inf s1, .inf s2 => (.inf (s1 != s2), 0)
  | .inf s1, .fin s2 m2 _ => if m2 = 0 then (.nan false, flagNV) else (.inf (s1 != s2), 0)
  | .fin s1 m1 _, .inf s2 => if m1 = 0 then (.nan false, flagNV) else (.inf (s1 != s2), 0)
  | _, _ => nanOf [x, y]

/-- x × y + c with one later rounding; 0 × ∞ is invalid for every c (R63). -/
def fmaVal (mode : RMode) (x y c : FVal) : FVal × FpFlags :=
  if x.isNan || y.isNan then nanOf [x, y, c]
  else
    let (p, fl) := mulVal x y
    if p.isNan then (p, fl)
    else if c.isNan then nanOf [c]
    else addVal mode p c

/-- The quotient; finite nonzero / 0 is an infinity with DZ (R63). -/
def divVal (x y : FVal) : FVal × FpFlags :=
  match x, y with
  | .fin s1 m1 e1, .fin s2 m2 e2 =>
    let s := s1 != s2
    if m2 = 0 then (if m1 = 0 then (.nan false, flagNV) else (.inf s, flagDZ))
    else if m1 = 0 then (.zero s, 0)
    else
      let k := 70 + log2 m2
      let n := m1 <<< k
      (.fin s (2 * (n / m2) + (if n % m2 = 0 then 0 else 1)) (e1 - e2 - k - 1), 0)
  | .inf _, .inf _ => (.nan false, flagNV)
  | .inf s1, .fin s2 _ _ => (.inf (s1 != s2), 0)
  | .fin s1 _ _, .inf s2 => (.zero (s1 != s2), 0)
  | _, _ => nanOf [x, y]

/-- The square root (R63). -/
def sqrtVal (x : FVal) : FVal × FpFlags :=
  match x with
  | .nan _ => nanOf [x]
  | .inf s => if s then (.nan false, flagNV) else (x, 0)
  | .fin s m e =>
    if m = 0 then (x, 0)
    else if s then (.nan false, flagNV)
    else
      let odd := (e % 2).toNat
      let n := (m <<< odd) <<< 140
      let r := isqrt n
      (.fin false (2 * r + (if r * r = n then 0 else 1)) ((e - odd - 140) / 2 - 1), 0)

/-- a < b among numbers, where the two zeros are equal. -/
def ltVal (x y : FVal) : Bool :=
  match x, y with
  | .fin s1 m1 e1, .fin s2 m2 e2 =>
    if m1 = 0 ∧ m2 = 0 then false
    else if m1 = 0 then !s2
    else if m2 = 0 then s1
    else if s1 != s2 then s1
    else if s1 then magLt m2 e2 m1 e1 else magLt m1 e1 m2 e2
  | .inf s1, .inf s2 => s1 && !s2
  | .inf s1, .fin _ _ _ => s1
  | .fin _ _ _, .inf s2 => !s2
  | _, _ => false

/-- The relation of two values (R63, R105). -/
inductive Rel where
  | lt | eq | gt | un
  deriving DecidableEq, Repr

/-- Compare: NV only for a signalling NaN. -/
def cmpVal (x y : FVal) : Rel × FpFlags :=
  if x.isNan || y.isNan then (.un, flagIf (x.isSig || y.isSig) flagNV)
  else if ltVal x y then (.lt, 0)
  else if ltVal y x then (.gt, 0)
  else (.eq, 0)

/-- Minimum or maximum (R63): the number beside a NaN, -0 below +0. -/
def minMaxVal (isMax : Bool) (x y : FVal) : FVal × FpFlags :=
  let fl := flagIf (x.isSig || y.isSig) flagNV
  if x.isNan then (if y.isNan then .nan false else y, fl)
  else if y.isNan then (x, fl)
  else
    let xLess := ltVal x y || (x.isZero && y.isZero && x.isNeg && !y.isNeg)
    (if xLess then (if isMax then y else x)
     else if ltVal y x || (x.isZero && y.isZero && y.isNeg && !x.isNeg) then (if isMax then x else y)
     else x, 0)

/-- One level of the summation tree (R64): adjacent pairs, an odd last element carried up. -/
def treeLevel {α : Type} (op : α → α → α) : List α → List α
  | x :: y :: t => op x y :: treeLevel op t
  | t => t

/-- tree_sum (R64), level by level. -/
def treeSum {α : Type} (op : α → α → α) : Nat → List α → List α
  | 0, v => v
  | n + 1, v => if v.length ≤ 1 then v else treeSum op n (treeLevel op v)

/-- The root of the summation tree; d for an empty list, which R64 excludes. -/
def treeRoot {α : Type} (d : α) (op : α → α → α) (v : List α) : α := (treeSum op v.length v).headD d

/-- G with 13 or 14 bits nearest to the square root of num / den, ties to even. -/
def nearestSqrt (num den : Nat) : Nat :=
  let g := isqrt (num / den)
  let lhs := (2 * g + 1) * (2 * g + 1) * den
  if 4 * num < lhs then g else if lhs < 4 * num then g + 1 else if g % 2 = 0 then g else g + 1

/-- num / den to the nearest integer, ties to even. -/
def nearestQuot (num den : Nat) : Nat :=
  let g := num / den
  let r := num % den
  if 2 * r < den then g else if den < 2 * r then g + 1 else if g % 2 = 0 then g else g + 1

/-- The seed 1/√ (R65) as an exact value and its flags. -/
def rsqeVal (f : Fmt) (fz : Bool) (x0 : FVal) : FVal × FpFlags :=
  match flushIn f fz x0 with
  | .nan s => (.nan false, flagIf s flagNV)
  | .inf s => if s then (.nan false, flagNV) else (.zero false, 0)
  | .fin s m e =>
    if m = 0 then (.inf s, flagDZ)
    else if s then (.nan false, flagNV)
    else
      let l := log2 m
      let ex := (l : Int) + e
      let b := (ex % 2).toNat
      let q := (ex - b) / 2
      let t := m * 1024 / 2 ^ l - 1024
      -- c = 2^b × (2049 + 2t) / 2048; g × 2^14 is the nearest integer to √(2^28 / c)
      let g := nearestSqrt (2 ^ 28 * 2048) (2 ^ b * (2049 + 2 * t))
      (.fin false g (-14 - q), 0)

/-- The seed 1/x (R66), before its last rounding. -/
def rcpeVal (f : Fmt) (fz : Bool) (x0 : FVal) : FVal × FpFlags :=
  match flushIn f fz x0 with
  | .nan s => (.nan false, flagIf s flagNV)
  | .inf s => (.zero s, 0)
  | .fin s m e =>
    if m = 0 then (.inf s, flagDZ)
    else
      let l := log2 m
      let ex := (l : Int) + e
      let t := m * 2048 / 2 ^ l - 2048
      let g := nearestQuot (2 ^ 14 * 4096) (4097 + 2 * t)
      let (r, fl) := roundFmt f .rne fz (.fin s g (-14 - ex))
      (r, fl)

/-- n raised to 2^k by squaring. -/
def squarings : Nat → Nat → Nat
  | 0, n => n
  | k + 1, n => squarings k (n * n)

/-- 2^13 × 2^(u / 2048) rounded to an integer (R185): bit by bit, with g + 1/2 compared through the 2048th power. -/
def exp2Search (u : Nat) : Nat → Nat → Nat
  | 0, g => g
  | b + 1, g =>
    -- keep the bit while the candidate minus one half lies below the exact value
    let c := g + 2 ^ b
    exp2Search u b (if squarings 11 (2 * c - 1) < 2 ^ (14 * 2048 + u) then c else g)

/-- vexp2e (R185) on FP32. -/
def vexp2eVal (fz : Bool) (x0 : FVal) : FVal × FpFlags :=
  match flushIn .f32 fz x0 with
  | .nan s => (.nan false, flagIf s flagNV)
  | .inf s => (if s then .zero false else .inf false, 0)
  | .fin s m e =>
    let k := (-e).toNat
    let v : Int := if 0 ≤ e then (m <<< e.toNat : Nat) else m
    let v := if s then -v else v
    let n := v / (2 : Int) ^ k
    let t := ((v % (2 : Int) ^ k) * 1024 / (2 : Int) ^ k).toNat
    let g := exp2Search (2 * t + 1) 14 0
    roundFmt .f32 .rne fz (.fin false g (n - 13))

/-- The class mask of FCLASS (R107). -/
def classMask (f : Fmt) (v : FVal) : Nat :=
  match v with
  | .nan s => if s then 2 ^ 8 else 2 ^ 9
  | .inf s => if s then 2 ^ 0 else 2 ^ 7
  | .fin s m _ =>
    if m = 0 then (if s then 2 ^ 3 else 2 ^ 4)
    else if v.isSubnormal f then (if s then 2 ^ 2 else 2 ^ 5)
    else if s then 2 ^ 1 else 2 ^ 6

end Sys2Proof.Machine
end

