-- ==== Sys2Proof/Machine/State.lean ====
section
/-! DEFINITION. The state of the X816 as plain data: the running context, the other contexts, the memory and the tables of the
device. INVENTORY.md, section State, lists every piece with the rule that names it. -/

namespace Sys2Proof.Machine

/-- A state no step leaves. -/
inductive Fault where
  /-- Raised by step while the hasp die holds the device in reset after its own sensor passed 110 °C (R401) and the next input
  is neither a reset nor management: nothing runs. Safe: the spec gives the device no way out but a reset. -/
  | heldInReset
  deriving DecidableEq, Repr

/-- Why an instruction has no meaning. -/
inductive Refusal where
  /-- Raised by exec alone, for a row of the opcode table that has no meaning yet. Safe: nothing can be proved of it. -/
  | notModelled (mnemonic : String)
  deriving DecidableEq, Repr

/-- STATE of a row register (R14). -/
inductive RowState where
  | closed | opened | revoked
  deriving DecidableEq, Repr

/-- A page a row register pins (R138): its address, its size, and whether it may be written (R135). -/
structure PinPage where
  va   : Nat
  size : Nat
  w    : Bool
  deriving DecidableEq, Repr

/-- A row register in one bank (R14). The latch, FM and DIRTY of its segments follow each other from bit 0 (R13). pinned holds
the pages it pins (R138). -/
structure RowReg where
  st    : RowState
  row   : BitVec 26
  pin   : BitVec 56
  tag   : BitVec 4
  fmc   : BitVec 8
  fm    : BitVec 16384
  dirty : BitVec 256
  latch : BitVec 524288
  pinned : List PinPage
  deriving DecidableEq, Repr

/-- Every field is 0 while the register is CLOSED (R14). -/
def RowReg.reset : RowReg := ⟨.closed, 0, 0, 0, 0, 0, 0, 0, []⟩

/-- A physical keep row (R18). -/
structure KeepRow where
  data : BitVec 65536
  tag  : BitVec 4
  fm   : BitVec 2048
  fmc  : BitVec 8
  deriving DecidableEq, Repr

def KeepRow.reset : KeepRow := ⟨0, 0, 0, 0⟩

/-- One name as an operand reads it. -/
structure Part where
  bits : Nat
  fm   : Nat
  fmc  : Nat
  deriving DecidableEq, Repr

/-- An operand with its values: registers, or one element for every position (R161). -/
inductive Vec where
  | regs (tag : TagBits) (cap : Nat) (parts : List Part)
  | splat (tag : TagBits) (code : Nat)
  | splatVal (tag : TagBits) (v : FVal)
  deriving DecidableEq, Repr

/-- A vector instruction in a slot of a bank (R164), with its issue-time inputs (R168): the shape, the rounding, the values of its
scalar operands and the tags of A, B and the result. next is the first element it has not gone through; gang the banks it was issued
in, which a GSPLIT or a GJOIN after it does not change (R198, R207, R210). held are A and B as an instruction read them that reads all
of its sources before it writes (R163, R166). -/
structure InFlight where
  instr : Instr
  pc    : Word
  gang  : BitVec 16
  next  : Nat
  nrow  : Nat
  ncol  : Nat
  rm    : BitVec 2
  fz    : Bool
  sval  : Word
  sval2 : Word
  tagA  : BitVec 4
  tagB  : BitVec 4
  tagD  : BitVec 4
  held  : Option (Vec × Vec) := none
  deriving DecidableEq, Repr

/-- The state a stream holds in one bank of its gang (R11). kname maps a keep name to its pool row + 1, 0 when unbound; frame
holds the IRP words of a trap frame while the stream is away inside its handler (R358, R364). history holds what the stream left in
the pool rows it gave back (R18). stopped holds the inputs of the instructions that a stop has recorded, by slot (R169), and
frameStopped those of the trap frame. -/
structure Bank where
  rows    : Tab RowReg
  kname   : Tab Nat
  pool    : Tab KeepRow
  history : List (BitVec 65536)
  preds   : Tab (BitVec 16384)
  slots   : List InFlight
  irp     : Tab Word
  stopped : Tab InFlight
  frame   : Tab Word
  frameStopped : Tab InFlight
  slip    : Tab Word
  deriving DecidableEq, Repr

/-- Stream start (R27). -/
def Bank.reset : Bank := ⟨[], [], [], [], [], [], [], [], [], [], []⟩

/-- A column-path request of an instruction that waits (R291, R292): its address and bytes, its destination, the step of its issue,
whether it holds its slot, whether its endpoint has come to it (R304), and whether it has crossed the hasp die (R308). -/
structure Request where
  pa   : Nat
  n    : Nat
  dest : Nat
  at_  : Nat
  held : Bool
  turn : Bool
  crossed : Bool := false
  deriving DecidableEq, Repr

/-- The place of a CGO or CRESUME that waits for detents (R237, R318): its ticket and the cores it needs. -/
structure DetentWait where
  ticket : Nat
  cores  : List Nat
  deriving DecidableEq, Repr

/-- The other sub-gang of a split stream (R209): its banks, its pc, whether it waits at GJOIN, its pending 0x10, the hold of a GBAR
of its own (R205), and what its next instruction waits for (R208, R344), as the context says it of the running one. -/
structure Sibling where
  banks  : BitVec 16
  pc     : Word
  parked : Bool
  pend10 : Bool
  gbar   : Bool
  stall  : Bool
  onWord : Option Nat
  asking : List Request
  detentWait : Option DetentWait
  inv    : Bool
  since  : Nat
  deriving DecidableEq, Repr

/-- A sub-gang that waits for nothing. -/
def Sibling.at_ (banks : BitVec 16) (pc : Word) (now : Nat) : Sibling := ⟨banks, pc, false, false, false, false, none, [], none, false, now⟩

/-- An MMF a member has issued and that is not yet complete there (R262, R267, R273). part is the member's own partial sums,
acc the sum that passes down the chain, held with the bottom member; rows the tile rows this member has sent down, or written in C
(R273); skip says that its tier was in T1 or T2; exempt that a marked word gave its chunk back to it (R264); freed that its operand
locks have ended (R261); byTrap that a trap entry stopped it, so that only an ERET resumes it. got holds the sums of the chunks that a
receiver has computed, by the POS of their owners, and relay that of the one it is at: the POS, the steps done and the sums; noted is the
MPROG word that its last stop recorded (R273). -/
structure MmfFlight where
  strict : Bool
  d      : NameF
  a      : NameF
  b      : NameF
  lastA  : Bool
  lastB  : Bool
  tagA   : BitVec 4
  tagB   : BitVec 4
  mg     : Word
  q      : Nat
  bank   : Nat
  fz     : Bool
  kdone  : Nat
  part   : BitVec 65536
  acc    : BitVec 65536
  rows   : Nat
  formed : Bool
  skip   : Bool
  exempt : Bool
  freed  : Bool
  released : Bool
  stopped : Bool
  byTrap : Bool
  spoiled : Bool
  got    : List (Nat × BitVec 65536)
  relay  : Option (Nat × Nat × BitVec 65536)
  noted  : Word := 0
  deriving DecidableEq, Repr

/-- Where a context stands (R342, R352, R377, R339). -/
inductive Place where
  | absent
  | resident
  | away
  | halted (reason : Nat)
  | ended
  deriving DecidableEq, Repr

/-- A stream (bad marks registers with a double-bit error, R369: physical scalar i at i, control register x at 256 + x,
word w of predicate p in bank j at 512 + 2048 j + 256 p + w) with everything the spec gives it: its identity (R332, R355), registers (R24), bank state and scheduling state. -/
structure Context where
  id      : Nat
  seq     : Nat
  l       : Nat
  owner   : Word
  prio    : Nat
  energy  : Nat
  ord     : Bool
  keep    : Nat
  nslots  : Nat
  core    : Nat
  saveset : Nat
  block   : Nat
  place   : Place
  pc      : Word
  scalars : Tab Word
  rm      : BitVec 2
  fz      : Bool
  lt      : Bool
  fpsr    : BitVec 6
  win     : BitVec 8
  vcode   : BitVec 2
  nrow    : Nat
  ncol    : Nat
  srem    : BitVec 32
  smax    : BitVec 15
  sord    : BitVec 32
  sbeg    : BitVec 56
  send    : BitVec 56
  lc      : BitVec 32
  lcPend  : Bool
  lcn     : BitVec 32
  lbeg    : BitVec 56
  lend    : BitVec 56
  slip    : BitVec 6
  gmBanks : BitVec 16
  gmBase  : BitVec 4
  gmWlog  : BitVec 3
  gmSub   : Bool
  rfth    : BitVec 3
  fref    : BitVec 32
  mrep    : Word
  mprog   : Word
  wid     : Word
  sup     : Bool
  ad      : Bool
  tvec    : BitVec 56
  tpc     : BitVec 56
  tcause  : BitVec 13
  tval    : Word
  tstat   : BitVec 3
  tscr    : Word
  sib     : Option Sibling
  sibHeld : Bool
  turned  : Option Bool
  gbar    : Bool
  mg      : Word
  mseq    : Word
  staged  : Tab Word
  mmf     : Option MmfFlight
  past    : Option MmfFlight
  foldFault : Option Word
  doomQ   : Option Nat
  markTrap : Option (BitVec 8 × Word)
  owed    : List (Nat × NameF)
  banks   : Tab Bank
  pend10  : Bool
  pend11  : BitVec 16
  pend30  : Option Word
  parked  : Option Nat
  stall   : Bool
  yielding : Bool
  pheld   : Bool
  heldNow : Bool
  heldLast : Bool
  since   : Nat
  turnScalar : Bool
  turnBank : Bool
  num     : Nat
  placedAt : Nat
  fencedAt : Nat
  syncAt  : Nat
  constAt : Nat
  dbk     : Bool
  trc     : Bool
  trcBuf  : Nat
  trcLen  : Nat
  haltReq : Option Nat
  stepOnce : Bool
  claims  : Bool
  leaving : Bool
  bad     : Tab Bool
  asking  : List Request
  detentWait : Option DetentWait
  inv     : Bool
  deriving DecidableEq, Repr

/-- The control registers at the reset values of R24 and R27; the launch supplies the rest. -/
def Context.reset : Context where
  id := 0
  seq := 0
  l := 0
  owner := 0
  prio := 0
  energy := 0
  ord := false
  keep := 8
  nslots := 0
  core := 0
  saveset := 0
  block := 0
  place := .absent
  pc := 0
  scalars := []
  rm := 0
  fz := false
  lt := false
  fpsr := 0
  win := 0
  vcode := 0
  nrow := 1
  ncol := 64
  srem := 0
  smax := 0
  sord := 0
  sbeg := 0
  send := 0
  lc := 0
  lcPend := false
  lcn := 0
  lbeg := 0
  lend := 0
  slip := 8
  gmBanks := 0
  gmBase := 0
  gmWlog := 0
  gmSub := false
  rfth := 6
  fref := 0
  mrep := 0
  mprog := 0
  wid := 0
  sup := false
  ad := false
  tvec := 0
  tpc := 0
  tcause := 0
  tval := 0
  tstat := 0
  tscr := 0
  sib := none
  sibHeld := false
  turned := none
  gbar := false
  mg := 0
  mseq := 0
  staged := []
  mmf := none
  past := none
  foldFault := none
  doomQ := none
  markTrap := none
  owed := []
  banks := []
  pend10 := false
  pend11 := 0
  pend30 := none
  parked := none
  stall := false
  yielding := false
  pheld := false
  heldNow := false
  heldLast := false
  since := 0
  turnScalar := false
  turnBank := false
  num := 0
  placedAt := 0
  fencedAt := 0
  syncAt := 0
  constAt := 0
  dbk := false
  trc := false
  trcBuf := 0
  trcLen := 0
  haltReq := none
  stepOnce := false
  claims := false
  leaving := false
  bad := []
  asking := []
  detentWait := none
  inv := false

/-- A destination page a copy has pinned (R237, R251): live until an invalidation covers it. -/
structure DestPage where
  va   : Nat
  pa   : Nat
  size : Nat
  live : Bool
  deriving DecidableEq, Repr

/-- A source page a copy has translated for the run it reads (R251). -/
structure SourcePage where
  va   : Nat
  pa   : Nat
  size : Nat
  cc   : Nat
  deriving DecidableEq, Repr

/-- A fill record that has arrived (R323): its bits, the step it came in, whether the decompressor has taken it, its row once that is
known, the stack whose decompressor it waits for, and what of its raw row has been read (R322). -/
structure FillRecord where
  bits  : Nat
  at_   : Nat
  taken : Bool
  row   : Option Nat
  stack : Nat := 0
  got   : Nat := 0
  deriving DecidableEq, Repr

/-- An entry of the region table (R281). masks holds the entries that differ from the defaults of R280. -/
structure Region where
  v    : Bool
  sz   : BitVec 6
  base : BitVec 39
  masks : Tab (BitVec 39)
  deriving DecidableEq, Repr

def Region.reset : Region := ⟨false, 0, 0, []⟩

/-- A copy slot (R39, R236, R237) with the detents it has installed (R242, R316): map is the region table at their installation,
cores the cores that hold one, wmFrom and wmAt their copies of the watermark (R317). next is the next element to land and moved the
bytes of it that have moved (R313); window holds the steps at which the read-ahead window moved on, each with its end (R315), ahead the elements read, records the fill records that have arrived after those (R323). srcPages are the source pages of the run that is read,
runEnd its end, and doom the fault their translation met, at its element (R251). fetched is the bytes of the element it reads that have
come in (R313), front the step since which the element to land is queued (R304). born is the step of the CGO and sup its mode. -/
structure CopySlot where
  owner  : Option Nat
  state  : BitVec 3
  cause  : BitVec 8
  start  : Nat
  next   : Nat
  wm     : Nat
  staged : Tab Word
  ticket : Nat
  pages  : List DestPage
  window : List (Nat × Nat)
  ahead  : List Nat
  moved  : Nat
  fetched : Nat
  front  : Nat
  records : List FillRecord
  srcPages : List SourcePage
  runEnd : Nat
  doom   : Option (Nat × Nat × Nat)
  born   : Nat
  installed : Bool
  map    : Tab Region
  cores  : List Nat
  wmFrom : Nat
  wmAt   : Tab Nat
  faultVa : Nat
  faultSrc : Bool
  token  : Word
  sup    : Bool
  deriving DecidableEq, Repr

def CopySlot.reset : CopySlot where
  owner := none
  state := 0
  cause := 0
  start := 0
  next := 0
  wm := 0
  staged := []
  ticket := 0
  pages := []
  window := []
  ahead := []
  moved := 0
  fetched := 0
  front := 0
  records := []
  srcPages := []
  runEnd := 0
  doom := none
  born := 0
  installed := false
  map := []
  cores := []
  wmFrom := 0
  wmAt := []
  faultVa := 0
  faultSrc := false
  token := 0
  sup := false

/-- A core (R351, R384, R151, R236, R254). lastPick and lastBank are the streams picked last in
the scalar and in the bank class (R344), copyTurn and readTurn the slots its copy unit served last, for a landing and for a read (R313), refReq the slots each REF has
still to perform in a bank, oldest first, with whether DEBT has bounded them (R155), lastClass the class its endpoint
served last: 0 scalar, 1 copy, 2 external (R304). -/
structure CoreRec where
  mat    : Bool
  hup    : Bool
  hdn    : Bool
  online : Bool
  sreq   : BitVec 32
  debt   : Tab Nat
  refPtr : Tab Nat
  refReq : Tab (List (Nat × Bool))
  slots  : Tab CopySlot
  slice  : Option Nat
  lastPick : Nat
  lastBank : Nat
  copyTurn : Nat
  readTurn : Nat
  lastClass : Nat
  deriving DecidableEq, Repr

/-- The tier of a core: placed bits [38:32] (R277). -/
def tierOf (core : Nat) : Nat := core / 8
/-- The tier's number within its spindle (R254). -/
def tierInStack (core : Nat) : Nat := core / 8 % 16
/-- The stack of a core. -/
def stackOf (core : Nat) : Nat := core / 128

/-- A core after a self-test that passed (LOG 4): hinges exist only between neighbouring tiers. -/
def CoreRec.reset (core : Nat) : CoreRec :=
  ⟨true, decide (tierInStack core < 15), decide (0 < tierInStack core), true, 0, [], [], [], [], none, 0, 0, 0, 0, 2⟩

/-- A tier (R351, R370, R346, R152). ueSeen counts its uncorrectable events (R371). -/
structure TierRec where
  thermal : Nat
  pwr     : Bool
  online  : Bool
  temp    : Nat
  rband   : Nat
  ce      : BitVec 32
  ue      : BitVec 16
  ueSeen  : Nat
  deriving DecidableEq, Repr

def TierRec.reset : TierRec := ⟨0, false, true, 60, 0, 0, 0, 0⟩

/-- A stack (R351). decomp is the queue of its decompressor, as core and slot (R323); watch the masks of its watch filter, bit c for
core c (R311). -/
structure StackRec where
  allow  : Nat
  used   : Nat
  holds  : Nat
  cpool  : BitVec 40
  ccount : BitVec 32
  decomp : List (Nat × Nat)
  watch  : Tab (BitVec 1024)
  deriving DecidableEq, Repr

def StackRec.reset : StackRec := ⟨0, 0, 0, 0, 0, [], []⟩

/-- An entry of the address-space table (R284). -/
structure AsEntry where
  token : Word
  v     : Bool
  root  : BitVec 32
  deriving DecidableEq, Repr

def AsEntry.reset : AsEntry := ⟨0, false, 0⟩

/-- An entry of the page-request queue (R288). -/
structure PageReq where
  v    : Bool
  page : BitVec 40
  asid : BitVec 12
  deriving DecidableEq, Repr

def PageReq.reset : PageReq := ⟨false, 0, 0⟩

/-- A Druthes link (R400). -/
structure LinkRec where
  up    : Bool
  gen   : Bool
  lanes : BitVec 4
  peer  : BitVec 8
  acc   : Bool
  lim   : BitVec 24
  deriving DecidableEq, Repr

def LinkRec.reset : LinkRec := ⟨false, false, 0, 0, false, 0⟩

/-- A host port (R400, R396). -/
structure PortRec where
  up    : Bool
  mode  : BitVec 2
  width : BitVec 5
  lim   : BitVec 32
  deriving DecidableEq, Repr

def PortRec.reset : PortRec := ⟨false, 0, 0, 0⟩

/-- A launch queue (R329 to R331, R373). head is the slot the monitor watches; seen remembers writes of byte 255; waiting holds
the accepted launches that have not been dispatched, the head of the queue first; busy says that a debug queue waits for a HALT. -/
structure QueueRec where
  token   : Word
  dbg     : Bool
  head    : Nat
  seen    : Tab Bool
  waiting : List Nat
  busy    : Bool
  deriving DecidableEq, Repr

def QueueRec.reset : QueueRec := ⟨0, false, 0, [], [], false⟩

/-- A launch record as the monitor parses it (R332). -/
structure Record where
  len    : Nat
  ver    : Nat
  npre   : Nat
  flags  : Nat
  keep   : Nat
  nslots : Nat
  entry  : Word
  args   : Word
  owner  : Word
  widths : List Nat
  places : List Nat
  donea  : Word
  donev  : Word
  exts   : List Nat
  tveca  : Word
  preas  : List Nat
  prevs  : List Nat
  reservedClear : Bool
  deriving DecidableEq, Repr

/-- Debug settings an ATTACH keeps for a stream that has not started (R375). -/
structure Attached where
  l   : Nat
  dbk : Bool
  trc : Bool
  buf : Nat
  len : Nat
  deriving DecidableEq, Repr

/-- An accepted launch (R335 to R339). -/
structure Launch where
  record  : Record
  queue   : Nat
  slot    : Nat
  state   : Nat
  lost    : Nat
  ready   : Bool
  started : List Nat
  ended   : Nat
  attached : List Attached
  deriving DecidableEq, Repr

/-- The number under which the launch unit's own stores wait (R243, R335); no context has it. -/
def launchUnit : Nat := 2 ^ 64

/-- A plain store or ST.rel that waits at its home behind a detent (R214, R246), or a store of the launch unit. before: issued before the running strip
(R121). passed counts its flits that have crossed the hasp die, crossed says that all have (R308). token is its owner's and va the address it translated (R228), at_ the step of its issue, and sent says that it has its request
slot (R291). -/
structure Posted where
  ctx  : Nat
  core : Nat
  token : Word
  sent : Bool
  va   : Nat
  pa   : Nat
  n    : Nat
  v    : Nat
  rel  : Bool
  before : Bool
  at_  : Nat
  crossed : Bool := false
  passed : Nat := 0
  deriving DecidableEq, Repr

/-- A store of the hub scheduler to a word of the block of a context that is away, which has not performed (R243, R307): of the word the
bits of keep stay, and those of set are set. -/
structure BlockPoke where
  ctx  : Nat
  pa   : Nat
  keep : Nat
  set_ : Nat
  deriving DecidableEq, Repr

/-- A trace record that has not been written (R381): its context, the address space and the buffer, and its words (R382). -/
structure TraceRec where
  ctx   : Nat
  owner : Word
  buf   : Nat
  len   : Nat
  head  : Nat
  w8    : Nat
  w16   : Nat
  cycle : Nat
  deriving DecidableEq, Repr

/-- Who has written: a landing, by its ticket; a posted store, by its context and the step of its issue; or another. -/
inductive Writer where
  | copy (ticket : Nat)
  | store (ctx at_ : Nat)
  | other
  deriving DecidableEq, Repr

/-- An access from outside that the device has not served (R304, R308, R397, R400): src is the host port (0, 1) or 2 + the Druthes
link, flits what has still to cross the hasp die, atomic a read-modify-write with its operands. todo are the pieces, as address and
bytes, that have still to perform, got what a read has found so far. -/
structure External where
  src    : Nat
  pa     : Nat
  n      : Nat
  todo   : List (Nat × Nat)
  got    : Nat
  data   : Option Nat
  atomic : Option (AtomicOp × BitVec 64 × BitVec 64)
  flits  : Nat
  deriving DecidableEq, Repr

/-- The bytes a write has replaced, kept while a fetch (R75), a page walk (R287) or a copy's read (R240) may still see them. -/
structure Overwritten where
  at_ : Nat
  loc : Nat
  n   : Nat
  old : Nat
  by_ : Writer
  deriving DecidableEq, Repr

/-- A binding the device may still use after the address-space table changed (R284); none: the token had no address space. -/
structure OldBinding where
  token : Word
  bound : Option (Nat × Nat)
  deriving DecidableEq, Repr

/-- A line of a constant cache (R290): its 64 bytes and when it was filled. -/
structure ConstLine where
  data : Nat
  at_  : Nat
  deriving DecidableEq, Repr

/-- The mark of a 32-byte sector (R368, R250). latent: its cells hold an error that every read corrects. -/
inductive SectorMark where
  | clean | poisoned | cancelled | latent
  deriving DecidableEq, Repr

/-- The access filter in front of the control cores (R402): what it lets them reach. -/
structure AccessFilter where
  device   : Bool
  control  : Bool
  windows  : Bool
  keyholder : Bool
  fuses    : Bool
  patch    : Bool
  itself   : Bool
  log      : Bool
  deriving DecidableEq, Repr

/-- The filter as the keyholder programs it (R402). -/
def AccessFilter.programmed : AccessFilter := ⟨true, true, true, false, false, false, false, false⟩
/-- A filter nobody has programmed lets nothing through. -/
def AccessFilter.closed : AccessFilter := ⟨false, false, false, false, false, false, false, false⟩

/-- What a control core reaches for (R402). -/
inductive FilterTarget where
  | device | control | windows | keyholder | fuses | patch | itself | log
  deriving DecidableEq, Repr

/-- The filter lets an access to a target through. -/
def AccessFilter.allows (f : AccessFilter) : FilterTarget → Bool
  | .device => f.device
  | .control => f.control
  | .windows => f.windows
  | .keyholder => f.keyholder
  | .fuses => f.fuses
  | .patch => f.patch
  | .itself => f.itself
  | .log => f.log

/-- The keyholder and the control cores (R402 to R406): patch is its patch area, log the measurement log, by index. -/
structure Keyholder where
  patch    : Option Image
  runtime  : Option Image
  reported : Option Image
  minPatch : BitVec 16
  minRuntime : BitVec 16
  filter   : AccessFilter
  log      : Tab (List Byte)
  denied   : Nat
  recovery : Bool
  paused   : Bool
  deriving DecidableEq, Repr

def Keyholder.reset : Keyholder := ⟨none, none, none, 0, 0, .programmed, [], 0, false, false⟩

/-- A HALT or a stepping RESUME that waits for its target (R377). -/
structure HaltWait where
  queue : Nat
  slot  : Nat
  ctx   : Nat
  step  : Bool
  donea : Word
  donev : Word
  deriving DecidableEq, Repr

/-- The storage a soft error strikes (R368, R369). -/
inductive ErrorSite where
  | cell (loc : Nat)
  | latch (ctx bank name word : Nat)
  | keep (ctx bank name word : Nat)
  | scalar (ctx i : Nat)
  | pred (ctx bank p w : Nat)
  | control (ctx index : Nat)
  deriving DecidableEq, Repr

/-- What the world outside the instruction stream supplies next. -/
inductive Input where
  /-- A step of the table without an encoding. -/
  | event (i : Instr)
  /-- The owner of host or peer memory writes n bytes of it at the window address pa. -/
  | outside (pa n v : Nat)
  /-- Whether lanes run each vector instruction at its issue, or only at ELEMENT_GROUP steps. -/
  | lanes (eager : Bool)
  /-- A soft error: of one symbol or bit (corrected), or uncorrectable. -/
  | softError (site : ErrorSite) (corrected : Bool)
  /-- A control core reads n bytes at a physical address, or writes data there (R402). -/
  | control (pa n : Nat) (data : Option Nat)
  /-- A host asks for a register of a port's configuration space (R406). -/
  | config (port : Nat)
  /-- Time passes for the streams: the context of this number issues next if it can. -/
  | turn (id : Nat)
  deriving DecidableEq, Repr

/-- The state of the device. now counts the steps; it stamps events and is the key of the free values (LOG 1). -/
structure State where
  ctx       : Context
  others    : Tab Context
  mem       : List Host.Cell
  marks     : Tab SectorMark
  murk      : Tab Byte
  writes    : List Overwritten
  regions   : Tab Region
  asids     : Tab AsEntry
  preq      : Tab PageReq
  invAll    : Nat
  invs      : List (Nat × InvSel)
  oldBinds  : List OldBinding
  ccache    : Tab ConstLine
  cores     : Tab CoreRec
  tiers     : Tab TierRec
  stackTab  : Tab StackRec
  pbudget   : Nat
  savesets  : Nat
  brake     : Bool
  links     : Tab LinkRec
  ports     : Tab PortRec
  queues    : Tab QueueRec
  launches  : Tab Launch
  posted    : List Posted
  traces    : List TraceRec
  pokes     : List BlockPoke
  externals : List External
  haspTurn  : Nat
  report    : Bool
  halts     : List HaltWait
  keyholder : Keyholder
  held      : Bool
  retry     : Bool
  cycle     : Word
  nextSeq   : Nat
  nextCtx   : Nat
  ticket    : Nat
  runtimeTvec : BitVec 56
  eager     : Bool
  now       : Nat
  reply     : List Byte
  inputs    : List Input
  deriving DecidableEq, Repr

/-- The machine right after a cold reset (R406), with no stream resident and memory filled with zeros. -/
def State.reset : State where
  ctx := Context.reset
  others := []
  mem := []
  marks := []
  murk := []
  writes := []
  regions := []
  asids := []
  preq := []
  invAll := 0
  invs := []
  oldBinds := []
  ccache := []
  cores := []
  tiers := []
  stackTab := []
  pbudget := 1600
  savesets := 4
  brake := false
  links := []
  ports := []
  queues := []
  launches := []
  posted := []
  traces := []
  pokes := []
  externals := []
  haspTurn := 0
  report := false
  halts := []
  keyholder := Keyholder.reset
  held := false
  retry := false
  cycle := 0
  nextSeq := 1
  nextCtx := 1
  ticket := 0
  runtimeTvec := 0
  eager := true
  now := 0
  reply := []
  inputs := []

end Sys2Proof.Machine
end

