-- ==== Sys2Proof/Machine/Access.lean ====
section
/-! DEFINITION. Reading and writing the parts of the state: names and scalars (R22, R71), contexts, and the tables of cores,
tiers, stacks, links, ports and queues. -/

namespace Sys2Proof.Machine

/-- The lowest member of a list under a rank; the first of equals. -/
def lowestBy {α : Type} (rank : α → Nat) : List α → Option α
  | [] => none
  | x :: t => some (t.foldl (fun m y => if rank y < rank m then y else m) x)

/-- Insert into a list that rises under a rank. -/
def insertBy {α : Type} (rank : α → Nat) (x : α) : List α → List α
  | [] => [x]
  | y :: t => if rank x < rank y then x :: y :: t else y :: insertBy rank x t

/-- The class of a name field (R71). -/
inductive NameClass where
  | v | k | p | z | s | bad
  deriving DecidableEq, Repr

def nameClass (n : NameF) : NameClass :=
  let x := n.toNat
  if x < 8 then .v else if x < 16 then .k else if x < 24 then .p else if x = 24 then .z else if x < 32 then .bad else .s

/-- The physical scalar a name reaches (R22). -/
def Context.physical (c : Context) (n : NameF) : Nat := (c.win.toNat + (n.toNat - 32)) % 256

/-- The value of a scalar name; z reads 0 (R22). -/
def Context.read (c : Context) (n : NameF) : Word :=
  if 32 ≤ n.toNat then tabGet 0 c.scalars (c.physical n) else 0

/-- Write a scalar name; a write to z is discarded (R22). The write clears a soft error of the register (R369). -/
def Context.write (c : Context) (n : NameF) (v : Word) : Context :=
  if 32 ≤ n.toNat then
    { c with scalars := tabSet 0 c.scalars (c.physical n) v, bad := tabErase c.bad (c.physical n) }
  else c

/-- A write of whole control registers clears their soft errors (R369). -/
def Context.mend (c : Context) (is : List Nat) : Context :=
  if c.bad = [] then c else { c with bad := c.bad.filter fun e => !is.contains (e.1 - 256) || decide (e.1 < 256 ∨ 512 ≤ e.1) }

/-- Replace the running context. -/
def State.withCtx (s : State) (c : Context) : State := { s with ctx := c }

/-- A context by its number. -/
def State.findCtx (s : State) (id : Nat) : Option Context :=
  if s.ctx.id = id then some s.ctx else tabFind s.others id

/-- Change every context. -/
def State.mapCtxs (s : State) (f : Context → Context) : State :=
  { s with ctx := f s.ctx, others := s.others.map fun e => (e.1, f e.2) }

/-- Change one context, by its number. -/
def State.updCtx (s : State) (id : Nat) (f : Context → Context) : State :=
  s.mapCtxs fun c => if c.id = id then f c else c

/-- All contexts, the running one first. -/
def State.allCtxs (s : State) : List Context := s.ctx :: s.others.map Prod.snd

/-- A core (R351). -/
def State.core (s : State) (n : Nat) : CoreRec := tabGet (CoreRec.reset n) s.cores n
def State.setCore (s : State) (n : Nat) (r : CoreRec) : State := { s with cores := tabSet (CoreRec.reset n) s.cores n r }
/-- A tier (R351). -/
def State.tier (s : State) (t : Nat) : TierRec := tabGet TierRec.reset s.tiers t
def State.setTier (s : State) (t : Nat) (r : TierRec) : State := { s with tiers := tabSet TierRec.reset s.tiers t r }
/-- A stack (R351). -/
def State.stack (s : State) (n : Nat) : StackRec := tabGet StackRec.reset s.stackTab n
def State.setStack (s : State) (n : Nat) (r : StackRec) : State := { s with stackTab := tabSet StackRec.reset s.stackTab n r }
/-- A Druthes link (R400). -/
def State.link (s : State) (n : Nat) : LinkRec := tabGet LinkRec.reset s.links n
def State.setLink (s : State) (n : Nat) (r : LinkRec) : State := { s with links := tabSet LinkRec.reset s.links n r }
/-- A host port (R400). -/
def State.port (s : State) (n : Nat) : PortRec := tabGet PortRec.reset s.ports n
def State.setPort (s : State) (n : Nat) (r : PortRec) : State := { s with ports := tabSet PortRec.reset s.ports n r }
/-- A launch queue (R329). -/
def State.queue (s : State) (q : Nat) : QueueRec := tabGet QueueRec.reset s.queues q
def State.setQueue (s : State) (q : Nat) (r : QueueRec) : State := { s with queues := tabSet QueueRec.reset s.queues q r }

/-- Copy slot n of a core (R236). -/
def CoreRec.slot (r : CoreRec) (n : Nat) : CopySlot := tabGet CopySlot.reset r.slots n
def State.slot (s : State) (core n : Nat) : CopySlot := (s.core core).slot n
def State.setSlot (s : State) (core n : Nat) (c : CopySlot) : State :=
  let r := s.core core
  s.setCore core { r with slots := tabSet CopySlot.reset r.slots n c }

/-- All copy slots in use, with their core and number. -/
def State.allSlots (s : State) : List (Nat × Nat × CopySlot) :=
  s.cores.foldr (fun e acc => e.2.slots.map (fun q => (e.1, q.1, q.2)) ++ acc) []

/-- The slots of a core that a context owns. -/
def State.ownedSlots (s : State) (core id : Nat) : List Nat :=
  ((s.core core).slots.filter (fun e => e.2.owner = some id)).map Prod.fst

/-- The clock state of a tier: the slower of its thermal and its power state (R346). -/
def State.clock (s : State) (t : Nat) : Nat :=
  let r := s.tier t
  max r.thermal (if r.pwr then 1 else 0)

/-- The context is resident on a core (R11). -/
def Context.resident (c : Context) : Bool := decide (c.place = .resident)

/-- The streams resident on a core. -/
def State.residents (s : State) (core : Nat) : List Context :=
  s.allCtxs.filter fun c => c.resident && decide (c.core = core)

/-- The banks of a set, rising. -/
def bankList (g : BitVec 16) : List Nat := (List.range 16).filter fun j => g.getLsbD j

/-- The lowest bank of a set; 0 for none. -/
def lowBank (g : BitVec 16) : Nat := (bankList g).headD 0

/-- The banks of the whole stream: both sub-gangs of a split one (R209). -/
def Context.allBanks (c : Context) : BitVec 16 :=
  match c.sib with
  | none => c.gmBanks
  | some b => c.gmBanks ||| b.banks

/-- The running sub-gang and its sibling change places (R208); parked says whether the one that stops running waits at GJOIN. -/
def Context.swapTo (c : Context) (parked : Bool) : Context :=
  match c.sib with
  | none => c
  | some b =>
    { c with
      gmBanks := b.banks, pc := b.pc, pend10 := b.pend10, gbar := b.gbar, stall := b.stall, parked := b.onWord, asking := b.asking
      detentWait := b.detentWait, inv := b.inv, since := b.since
      sib := some { banks := c.gmBanks, pc := c.pc, parked := parked, pend10 := c.pend10, gbar := c.gbar, stall := c.stall, onWord := c.parked,
                    asking := c.asking, detentWait := c.detentWait, inv := c.inv, since := c.since } }
def Context.swap (c : Context) : Context := c.swapTo false

/-- The instructions of a stream that wait issue again: they are ready from now on (R344). -/
def Context.restart (c : Context) (now : Nat) : Context :=
  let c1 := if c.stall then { c with stall := false, since := now } else c
  { c1 with sib := c1.sib.map fun b => if b.stall then { b with stall := false, since := now } else b }

/-- A sub-gang's wait, and the hold of its GBAR, are abandoned with no effect (R246, R212, R205). -/
def Sibling.abandon (b : Sibling) : Sibling := { b with stall := false, onWord := none, asking := [], detentWait := none, inv := false, gbar := false }
def Context.abandon (c : Context) : Context :=
  { c with stall := false, parked := none, asking := [], detentWait := none, inv := false, gbar := false, sib := c.sib.map Sibling.abandon }

/-- One bank of the stream. -/
def Context.bank (c : Context) (j : Nat) : Bank := tabGet Bank.reset c.banks j
def Context.setBank (c : Context) (j : Nat) (b : Bank) : Context := { c with banks := tabSet Bank.reset c.banks j b }

/-- A register of a bank. -/
def Bank.row (b : Bank) (i : Nat) : RowReg := tabGet RowReg.reset b.rows i
def Bank.setRow (b : Bank) (i : Nat) (r : RowReg) : Bank := { b with rows := tabSet RowReg.reset b.rows i r }
def Bank.pred (b : Bank) (i : Nat) : BitVec 16384 := tabGet 0 b.preds i
def Bank.setPred (b : Bank) (i : Nat) (p : BitVec 16384) : Bank := { b with preds := tabSet 0 b.preds i p }

/-- Segments of a row-register name (R12). -/
def Context.segs (c : Context) : Nat := 2 ^ c.vcode.toNat
/-- Row-register names of the configuration (R12). -/
def Context.nNames (c : Context) : Nat := 8 / c.segs

/-- OR flags into FPSR (R29). -/
def Context.orFlags (c : Context) (f : FpFlags) : Context := { c with fpsr := c.fpsr ||| f }

/-- The address of scalar-class accesses: base plus a scaled signed offset, modulo 2^64 (R216). -/
def offsetAddr (base : Word) (w : Nat) (imm : Nat) (scale : Nat) : Word :=
  base + BitVec.ofInt 64 (toSigned w imm * scale)

end Sys2Proof.Machine
end

