-- ==== Sys2Proof/Machine/Place.lean ====
section
/-! DEFINITION. Physical addresses (R276 to R282), the locations they name, what is backed (R286), and the detents that guard
them (R242 to R244). A location is a placed address (39 bits) for device memory, and the physical address for a window. -/

namespace Sys2Proof.Machine

/-- The spaces of R276. -/
inductive Space where
  | device | host (port : Nat) | druthes (link : Nat) | control | none
  deriving DecidableEq, Repr

def spaceOf (pa : Nat) : Space :=
  let k := pa / 2 ^ 48 % 16
  if k = 0 then (if pa / 2 ^ 40 % 256 = 0 then .device else .none)
  else if k = 1 ∨ k = 2 then .host (k - 1)
  else if 4 ≤ k ∧ k ≤ 11 then (if pa / 2 ^ 40 % 256 = 0 then .druthes (k - 4) else .none)
  else if k = 12 then .control
  else .none

/-- The position Ki of key bit i (R278). -/
def keyBit (i : Nat) : Nat := if i < 4 then 9 + i else 28 + i

/-- The default mask i (R280). -/
def defaultMask (i : Nat) : BitVec 39 := BitVec.ofNat 39 (2 ^ keyBit i)

/-- Mask i of a region entry (R281). -/
def Region.mask (r : Region) (i : Nat) : BitVec 39 := tabGet (defaultMask i) r.masks i

/-- The entry of a region table in force for an interleaved address (R282). -/
def regionFor (rs : Tab Region) (ipa : Nat) : Option Region :=
  (rs.find? fun e => e.2.v && decide (e.2.base.toNat ≤ ipa ∧ ipa < e.2.base.toNat + 2 ^ e.2.sz.toNat)).map Prod.snd
def State.regionOf (s : State) (ipa : Nat) : Option Region := regionFor s.regions ipa

/-- The placed address of an interleaved one (R278). -/
def interleave (mask : Nat → BitVec 39) (ipa : Nat) : Nat :=
  let c := (List.range 10).foldr (fun i acc => acc + parity 39 (ipa &&& (mask i).toNat) * 2 ^ i) 0
  let o := ipa % 2 ^ 9 + 2 ^ 9 * (ipa / 2 ^ 13 % 2 ^ 19) + 2 ^ 28 * (ipa / 2 ^ 38 % 2)
  c / 2 ^ 7 * 2 ^ 36 + c / 2 ^ 3 % 16 * 2 ^ 32 + c % 8 * 2 ^ 29 + o

/-- The key bit i of the interleaved address that names a placed location under the masks, from the bits below the keys (R278, R279). -/
def deinterleave (mask : Nat → BitVec 39) (loc : Nat) : Nat :=
  let o := loc % 2 ^ 29
  let c := loc / 2 ^ 36 * 2 ^ 7 + loc / 2 ^ 32 % 16 * 2 ^ 3 + loc / 2 ^ 29 % 8
  let low := o % 2 ^ 9 + o / 2 ^ 9 % 2 ^ 19 * 2 ^ 13 + o / 2 ^ 28 * 2 ^ 38
  (List.range 10).foldl (fun a i => a + (c / 2 ^ i + parity 39 (low &&& (mask i).toNat)) % 2 * 2 ^ keyBit i) low

def Region.holds (r : Region) (ipa : Nat) : Bool := decide (r.base.toNat ≤ ipa ∧ ipa < r.base.toNat + 2 ^ r.sz.toNat)

/-- The interleaved address that names a placed location under a region table (R282). -/
def ipaOf (rs : Tab Region) (loc : Nat) : Nat :=
  match rs.find? fun e => e.2.v && e.2.holds (deinterleave e.2.mask loc) with
  | some e => deinterleave e.2.mask loc
  | none => deinterleave defaultMask loc

/-- The location a physical address names (R277, R278, R293). The spec does not say whether one host address reached through both
ports is one byte, nor whether a peer's byte reached in its placed and in its interleaved view is: a window address is a location of
its own (DESIGN CHOICE, LOG 76). -/
def State.locOf (s : State) (pa : Nat) : Nat :=
  match spaceOf pa with
  | .device =>
    if pa / 2 ^ 39 % 2 = 0 then pa % 2 ^ 39
    else
      let ipa := pa % 2 ^ 39
      match s.regionOf ipa with
      | some r => interleave r.mask ipa
      | none => interleave defaultMask ipa
  | _ => pa

/-- The core whose cells hold a device location (R277). -/
def coreOfLoc (loc : Nat) : Nat := loc / 2 ^ 29
/-- The tier whose cells hold a device location. -/
def tierOfLoc (loc : Nat) : Nat := loc / 2 ^ 32

/-- The control-space words with a register (R276): the offset ranges of R281, R284, R288, R331, R351, R370, R373, R384, R400. -/
def controlWord (off : Nat) : Bool :=
  decide (off < 0x800 ∨ (0x10000 ≤ off ∧ off < 0x30000) ∨ (0x30000 ≤ off ∧ off < 0x34000) ∨ (0x40000 ≤ off ∧ off < 0x40800) ∨
    (0x50000 ≤ off ∧ off < 0x50200 ∧ off % 64 < 32) ∨ off = 0x50200 ∨ off = 0x50208 ∨ (0x60000 ≤ off ∧ off < 0x60400) ∨
    (0x70000 ≤ off ∧ off < 0x70080) ∨ (0x70100 ≤ off ∧ off < 0x70120) ∨ (0x80000 ≤ off ∧ off < 0x84000))

/-- backed (R286). plain says that the access is an LD.x64 or a ST.n64. -/
def State.backed (s : State) (plain : Bool) (pa : Nat) : Bool :=
  match spaceOf pa with
  | .device => (s.tier (tierOfLoc (s.locOf pa))).online
  | .host p => (s.port p).up && decide (pa % 2 ^ 48 < (s.port p).lim.toNat * 2 ^ 16)
  | .druthes l => (s.link l).up && decide (pa % 2 ^ 40 < (s.link l).lim.toNat * 2 ^ 16)
  | .control => plain && controlWord (pa % 2 ^ 48)
  | .none => false

/-! Copies: element addresses (R234) and the guarded set. -/

/-- A staged field (R232) with its reset value. -/
def stagedField (t : Tab Word) (sel : Nat) : Word :=
  tabGet (if sel = 2 ∨ (4 ≤ sel ∧ sel ≤ 9) then 1 else 0) t sel

def CopySlot.field (c : CopySlot) (sel : Nat) : Nat := (stagedField c.staged sel).toNat
def CopySlot.esize (c : CopySlot) : Nat := c.field 2
def CopySlot.dc (c : CopySlot) : Nat := c.field 3 % 4
def CopySlot.count (c : CopySlot) (l : Nat) : Nat := c.field (4 + l)

/-- N (R234). -/
def CopySlot.total (c : CopySlot) : Nat := (List.range 6).foldl (fun n l => n * c.count l) 1

/-- base + sum of i_l × stride_l, for the strides that begin at selector first. -/
def CopySlot.elemAddr (c : CopySlot) (base first e : Nat) : Int :=
  ((List.range 6).foldl (fun (acc : Int × Nat) l =>
    (acc.1 + (acc.2 % c.count l : Nat) * toSigned 64 (c.field (first + l)), acc.2 / c.count l)) ((base : Int), e)).1

def CopySlot.src (c : CopySlot) (e : Nat) : Int := c.elemAddr (c.field 0) 10 e
def CopySlot.dst (c : CopySlot) (e : Nat) : Int := c.elemAddr (c.field 1) 16 e
/-- DHI (R234), for monotone destinations. -/
def CopySlot.dhi (c : CopySlot) : Int := c.dst (c.total - 1) + c.esize

/-- The bytes of guarded data a slot may have in flight above its watermark (R314). -/
def copyFlight : Nat := 16384

/-- The n bytes read for the element that stands i places behind the next one to land, as far as they may be in flight (R314). -/
def CopySlot.flying (c : CopySlot) (i : Nat) : Nat := min c.esize (copyFlight - i * c.esize)

/-- The last element at or after e, of the b-bit steps, whose destination is at most x. -/
def CopySlot.lastFrom (c : CopySlot) (x : Int) : Nat → Nat → Nat
  | 0, e => e
  | b + 1, e => c.lastFrom x b (if e + 2 ^ b < c.total ∧ c.dst (e + 2 ^ b) ≤ x then e + 2 ^ b else e)

/-- The lowest byte of G that is at least x (R234). -/
def CopySlot.nextGuarded (c : CopySlot) (x : Int) : Option Int :=
  if x < c.dst 0 then some (c.dst 0)
  else
    let e := c.lastFrom x 49 0
    if x < c.dst e + c.esize then some x
    else if e + 1 < c.total then some (c.dst (e + 1))
    else none

/-- The copy of the watermark that the detent in a core holds (R317). -/
def CopySlot.wmIn (c : CopySlot) (core : Nat) : Nat := tabGet c.wmFrom c.wmAt core

/-- Some byte of [lo, hi) is in G and not yet passed by a detent's copy w of the watermark (R242). -/
def CopySlot.guardsVa (c : CopySlot) (w : Nat) (lo hi : Int) : Bool :=
  match c.nextGuarded (max lo w) with
  | some x => decide (x < hi)
  | none => false

/-- A physical address as a region table of an earlier moment names the same cells: detents keep the bytes they were installed
with (R282). -/
def State.asInstalled (s : State) (rs : Tab Region) (pa : Nat) : Nat :=
  if spaceOf pa = .device ∧ pa / 2 ^ 39 % 2 = 1 ∧ rs ≠ s.regions then 2 ^ 39 + ipaOf rs (s.locOf pa) else pa

/-- The detents of the copy guard some byte of physical addresses [pa, pa + n), in the copy's view (R242, R244). The bytes lie in one
core. -/
def State.guards (s : State) (c : CopySlot) (pa n : Nat) : Bool :=
  c.installed &&
    let at_ := s.asInstalled c.map pa
    let w := c.wmIn (coreOfLoc (s.locOf pa))
    c.pages.any fun p =>
      let lo := max at_ p.pa
      let hi := min (at_ + n) (p.pa + p.size)
      decide (lo < hi) && c.guardsVa w ((p.va : Int) + ((lo : Int) - p.pa)) ((p.va : Int) + ((hi : Int) - p.pa))

/-- An access of [pa, pa + n) touches a detent (R242). -/
def State.touches (s : State) (pa n : Nat) : Bool := s.allSlots.any fun q => s.guards q.2.2 pa n

/-- The tier of a device address is in T3 (R307): an offlined tier is not, and access to it fails. -/
def State.asleep (s : State) (pa : Nat) : Bool :=
  decide (spaceOf pa = .device) && (s.tier (tierOfLoc (s.locOf pa))).online && decide ((s.tier (tierOfLoc (s.locOf pa))).thermal = 3)

/-- A column access of [pa, pa + n) has to wait at its home (R243, R307). -/
def State.blocked (s : State) (pa n : Nat) : Bool := s.touches pa n || s.asleep pa

/-- The same for an access that left its stream at a step: a copy started later lets it pass (R296). -/
def State.blockedSince (s : State) (at_ pa n : Nat) : Bool :=
  (s.allSlots.any fun q => decide (q.2.2.born ≤ at_) && s.guards q.2.2 pa n) || s.asleep pa

end Sys2Proof.Machine
end

