-- ==== Sys2Proof/Machine/Translate.lean ====
section
/-! DEFINITION. Address spaces, page tables and translate (R41, R283 to R287). -/

namespace Sys2Proof.Machine

/-- Why an instruction does not complete: a trap (bank none: the lowest bank of the gang), or a wait. -/
inductive Stop where
  | trap (cause : Nat) (val : Word) (bank : Option Nat)
  | wait
  deriving DecidableEq, Repr

/-- A trap with the lowest bank of the gang in TCAUSE.BANK (LOG 14). -/
def trapS {α : Type} (cause : Nat) (val : Word) : Except Stop α := .error (.trap cause val none)

/-- Stop with a trap unless a condition holds. -/
def require (ok : Bool) (cause : Nat) (val : Word) : Except Stop Unit :=
  if ok then .ok () else trapS cause val

/-- Wait unless a condition holds. -/
def waitUnless (ok : Bool) : Except Stop Unit := if ok then .ok () else .error .wait

/-- A value the spec leaves open among x and xs: x when they agree, else a free pick (LOG 1). -/
def State.choose {α : Type} [DecidableEq α] (s : State) (kind pos : Nat) (x : α) (xs : List α) : α :=
  if xs.all (fun y => decide (y = x)) then x
  else (x :: xs).getD (Config.freePick s.now kind pos % (xs.length + 1)) x

/-- The value v of the n bytes at loc with the bytes that e replaced put back. -/
def Overwritten.undo (e : Overwritten) (loc n v : Nat) : Nat :=
  (List.range n).foldr (fun i acc =>
    let a := loc + i
    let b := if e.loc ≤ a ∧ a < e.loc + e.n then e.old / 2 ^ (8 * (a - e.loc)) % 256 else v / 2 ^ (8 * i) % 256
    acc + b * 2 ^ (8 * i)) 0

/-- The earlier values of the n bytes at loc, newest first, as far as the writes that satisfy p go back. -/
def pastValues (p : Overwritten → Bool) (loc n : Nat) : List Overwritten → Nat → List Nat
  | [], _ => []
  | e :: es, v =>
    if e.loc < loc + n ∧ loc < e.loc + e.n then
      let u := e.undo loc n v
      if p e then u :: pastValues p loc n es u else pastValues p loc n es u
    else pastValues p loc n es v

/-- What an access does, for permits (R286). -/
inductive AccessKind where
  | read | write | exec | row
  deriving DecidableEq, Repr

/-- A leaf entry (R285). -/
structure Page where
  frame : Nat
  size  : Nat
  rd : Bool
  w  : Bool
  x  : Bool
  u  : Bool
  c  : Bool
  cc : Nat
  deriving DecidableEq, Repr

/-- The lowest address bit a level indexes (R283); an entry of the level maps 2^shift bytes. -/
def levelShift (lvl : Nat) : Nat := match lvl with
  | 0 => 16 | 1 => 21 | 2 => 30 | _ => 39
/-- Entries of a table of the level. -/
def levelEntries (lvl : Nat) : Nat := match lvl with
  | 0 => 32 | 1 => 512 | 2 => 512 | _ => 131072

def walkIndex (va lvl : Nat) : Nat := va / 2 ^ levelShift lvl % levelEntries lvl

/-- The page of a leaf entry. -/
def Page.of (lvl e : Nat) : Page :=
  { frame := e / 2 ^ 16 % 2 ^ 36 * 2 ^ 16, size := 2 ^ levelShift lvl,
    rd := e.testBit 2, w := e.testBit 3, x := e.testBit 4, u := e.testBit 5, c := e.testBit 6, cc := e / 2 ^ 8 % 4 }

/-- A present entry of the level is malformed (R285). -/
def malformed (lvl e : Nat) : Bool :=
  if e.testBit 1 then
    decide (lvl = 3) || e.testBit 7 || decide (e / 2 ^ 10 % 64 ≠ 0) ||
      decide ((Page.of lvl e).frame % 2 ^ levelShift lvl ≠ 0) ||
      (decide (lvl ≠ 0) && decide (spaceOf (Page.of lvl e).frame ≠ .device))
  else
    decide (lvl = 0) || decide (e / 4 % 64 ≠ 0) ||
      decide (e / 2 ^ 8 % 2 ^ 44 * 2 ^ 8 % (8 * levelEntries (lvl - 1)) ≠ 0)

/-- An invalidation covers the entry of a level that a walk of va in the address space reads (R228). -/
def invCovers (i : InvSel) (token : Word) (asid va lvl : Nat) : Bool :=
  match i with
  | .va a v => decide (a = asid) && decide (v / 2 ^ levelShift lvl = va / 2 ^ levelShift lvl)
  | .tok t => decide (t = token)
  | .all => true

/-- A walker may still hold what the write replaced (R287). -/
def State.mayHold (s : State) (token : Word) (asid va lvl : Nat) (e : Overwritten) : Bool :=
  decide (s.invAll < e.at_) && s.invs.all fun i => !(decide (e.at_ ≤ i.1) && invCovers i.2 token asid va lvl)

/-- The byte a copy has read for location loc and may have landed above its watermark (R244, R314). Nothing lands through a page that an
invalidation has covered (R289). -/
def State.aheadByte (s : State) (c : CopySlot) (loc : Nat) : List Byte :=
  (c.ahead.zipIdx 0).filterMap fun (d, i) =>
    ((List.range (c.flying i)).find? fun (j : Nat) =>
      let va := c.dst (c.next + i) + j
      c.pages.any fun p =>
        p.live && decide ((p.va : Int) ≤ va ∧ va < p.va + p.size) && decide (s.locOf (p.pa + (va - p.va).toNat) = loc)).map
      fun (j : Nat) => BitVec.ofNat 8 (d / 2 ^ (8 * j))

/-- The values the copies in flight hold for a location. -/
def State.inFlight (s : State) (loc : Nat) : List Byte :=
  s.allSlots.foldr (fun q acc => (if q.2.2.ahead = [] then [] else s.aheadByte q.2.2 loc) ++ acc) []

/-- Some copy holds elements it has read and not landed. -/
def State.anyAhead (s : State) : Bool := s.allSlots.any fun q => decide (q.2.2.ahead ≠ [])

/-- The n bytes at a location. A byte of a copy in flight, reached past its detent, is the old or the landed one (R244, R299). -/
def State.readLoc (s : State) (loc n : Nat) : Nat :=
  if s.anyAhead then
    (List.range n).foldr (fun i acc =>
      acc + (s.choose 3 i (memByte s.mem (loc + i)) (s.inFlight (loc + i))).toNat * 2 ^ (8 * i)) 0
  else memGet s.mem loc n

/-- The walk (R283). A table that does not lie in backed device memory is malformed. -/
def State.walk (s : State) (token : Word) (asid va : Nat) : Nat → Nat → Except Stop Page
  | 0, _ => trapS 0x0C (BitVec.ofNat 64 va)
  | n + 1, table =>
    let pa := table + 8 * walkIndex va n
    if spaceOf pa ≠ .device ∨ s.backed false pa = false then trapS 0x0C (BitVec.ofNat 64 va)
    else if s.blocked pa 8 then .error .wait
    else
      let cur := s.readLoc (s.locOf pa) 8
      let olds := pastValues (s.mayHold token asid va n) (s.locOf pa) 8 s.writes cur
      let e := s.choose 1 n cur olds
      if e % 2 = 0 then trapS 0x08 (BitVec.ofNat 64 va)
      else if malformed n e then trapS 0x0C (BitVec.ofNat 64 va)
      else if e.testBit 1 then .ok (Page.of n e)
      else s.walk token asid va n (e / 2 ^ 8 % 2 ^ 44 * 2 ^ 8)

/-- The binding of a token in the address-space table: the lowest ASID with V = 1 (R284). -/
def State.boundNow (s : State) (token : Word) : Option (Nat × Nat) :=
  (s.asids.find? fun e => e.2.v && decide (e.2.token = token)).map fun e => (e.1, e.2.root.toNat * 2 ^ 20)

/-- The binding a translation uses: the table's, or an old one before its TLBINV (R284). -/
def State.binding (s : State) (token : Word) : Option (Nat × Nat) :=
  s.choose 2 0 (s.boundNow token) ((s.oldBinds.filter fun o => decide (o.token = token)).map OldBinding.bound)

/-- permits (R286). -/
def Page.permits (e : Page) (kind : AccessKind) (sup : Bool) : Bool :=
  if spaceOf e.frame = .control ∧ sup = false then false
  else if e.u = false ∧ sup = false then false
  else match kind with
    | .read | .row => e.rd
    | .write => e.w
    | .exec => e.x && decide (spaceOf e.frame = .device)

/-- The page entry of an address that passed the range check, in the address space of a token. -/
def State.pageOf (s : State) (token : Word) (va : Nat) : Except Stop Page :=
  match s.binding token with
  | none => trapS 0x08 (BitVec.ofNat 64 va)
  | some (asid, root) => s.walk token asid va 4 root

/-- translate (R41) up to the permission: the physical address and the page entry. -/
def State.locate (s : State) (token : Word) (sup : Bool) (va : Word) (kind : AccessKind) (size : Nat) :
    Except Stop (Nat × Page) := do
  require (decide (va.toNat % size = 0)) 0x0F va
  require (decide (va.toNat < 2 ^ 56)) 0x0C va
  let e ← s.pageOf token va.toNat
  require (e.permits kind sup) 0x09 va
  return (e.frame + va.toNat % e.size, e)

/-- translate (R41). plain says that the access is an LD.x64 or a ST.n64 (R281). -/
def State.translateAs (s : State) (token : Word) (sup plain : Bool) (va : Word) (kind : AccessKind) (size : Nat) :
    Except Stop (Nat × Page) := do
  let (pa, e) ← s.locate token sup va kind size
  require (s.backed plain pa) 0x0C va
  return (pa, e)

/-- translate for the running context. -/
def State.translate (s : State) (plain : Bool) (va : Word) (kind : AccessKind) (size : Nat) : Except Stop (Nat × Page) :=
  s.translateAs s.ctx.owner s.ctx.sup plain va kind size

end Sys2Proof.Machine
end

