-- ==== Sys2Proof/Machine/Control.lean ====
section
/-! DEFINITION. The control-space registers (R281, R282, R284, R288, R331, R351, R370, R373, R384, R400): reads, and writes of
their S rw fields. OFFREQ is left to the operation that offlines a tier. -/

namespace Sys2Proof.Machine

def boolNat (b : Bool) : Nat := if b then 1 else 0

def State.region (s : State) (i : Nat) : Region := tabGet Region.reset s.regions i
def State.asid (s : State) (i : Nat) : AsEntry := tabGet AsEntry.reset s.asids i
def State.pageReq (s : State) (i : Nat) : PageReq := tabGet PageReq.reset s.preq i

def readRegion (r : Region) (o : Nat) : Nat :=
  if o = 0 then boolNat r.v + r.sz.toNat * 2 ^ 8
  else if o = 8 then r.base.toNat
  else if 16 ≤ o ∧ o < 96 then (r.mask ((o - 16) / 8)).toNat
  else 0

/-- The first word of a core's entry (R351). -/
def State.coreWord (s : State) (c : Nat) : Nat :=
  let r := s.core c
  boolNat r.mat + 2 * boolNat r.hup + 4 * boolNat r.hdn + 8 * boolNat r.online + 16 * (s.residents c).length

/-- The first word of a tier's entry (R351). -/
def State.tierWord (s : State) (t : Nat) : Nat :=
  let r := s.tier t
  s.clock t + 4 * boolNat r.pwr + 8 * boolNat r.online + 2 ^ 8 * (r.temp % 256) + 2 ^ 16 * (r.rband % 4)

def readStack (r : StackRec) (o : Nat) : Nat :=
  if o = 0 then r.allow % 2 ^ 32 + r.used % 2 ^ 32 * 2 ^ 32
  else if o = 8 then r.holds % 2 ^ 16
  else if o = 16 then r.cpool.toNat * 2 ^ 12
  else if o = 24 then r.ccount.toNat
  else 0

def readLink (r : LinkRec) : Nat :=
  boolNat r.up + 2 * boolNat r.gen + 4 * r.lanes.toNat + 2 ^ 8 * r.peer.toNat + 2 ^ 16 * boolNat r.acc

/-- The 64-bit control-space word at an offset; an offset without a register is not backed (R286). -/
def State.readControl (s : State) (off : Nat) : Nat :=
  if off < 0x800 then readRegion (s.region (off / 128)) (off % 128)
  else if 0x10000 ≤ off ∧ off < 0x30000 then
    let e := s.asid ((off - 0x10000) / 32)
    if off % 32 = 0 then e.token.toNat else if off % 32 = 8 then boolNat e.v + e.root.toNat * 2 ^ 20 else 0
  else if 0x30000 ≤ off ∧ off < 0x34000 then
    let c := (off - 0x30000) / 16
    if off % 16 = 0 then s.coreWord c else (s.core c).sreq.toNat
  else if 0x40000 ≤ off ∧ off < 0x40800 then
    let t := (off - 0x40000) / 16
    if off % 16 = 0 then s.tierWord t else (s.tier t).ce.toNat + (s.tier t).ue.toNat * 2 ^ 32
  else if 0x50000 ≤ off ∧ off < 0x50200 then readStack (s.stack ((off - 0x50000) / 64)) (off % 64)
  else if off = 0x50200 then s.pbudget
  else if off = 0x50208 then s.savesets
  else if 0x60000 ≤ off ∧ off < 0x60200 then (s.queue ((off - 0x60000) / 8)).token.toNat
  else if 0x60200 ≤ off ∧ off < 0x60400 then boolNat (s.queue ((off - 0x60200) / 8)).dbg
  else if 0x70000 ≤ off ∧ off < 0x70080 then
    let r := s.link ((off - 0x70000) / 16)
    if off % 16 = 0 then readLink r else r.lim.toNat * 2 ^ 16
  else if 0x70100 ≤ off ∧ off < 0x70120 then
    let r := s.port ((off - 0x70100) / 16)
    if off % 16 = 0 then boolNat r.up + 2 * r.mode.toNat + 8 * r.width.toNat else r.lim.toNat * 2 ^ 16
  else if 0x80000 ≤ off ∧ off < 0x84000 then
    let r := s.pageReq ((off - 0x80000) / 16)
    if off % 16 = 0 then boolNat r.v + r.page.toNat * 2 ^ 16 else r.asid.toNat
  else 0

/-- A valid set of masks (R279). -/
def Region.masksValid (r : Region) : Bool :=
  (List.range 10).all fun i =>
    let m := r.mask i
    m.getLsbD (keyBit i) && decide (m.toNat % 2 ^ 9 = 0) &&
      (List.range 10).all fun j => decide (j = i) || !m.getLsbD (keyBit j)

/-- The admission rules for V = 1 of entry i (R282). -/
def State.admits (s : State) (i : Nat) (r : Region) : Bool :=
  let z := r.sz.toNat
  decide (30 ≤ z ∧ z ≤ 39) && decide (r.base.toNat % 2 ^ z = 0) && r.masksValid &&
    ((List.range 10).all fun k =>
      if z ≤ keyBit k then decide (r.mask k = defaultMask k) else decide ((r.mask k).toNat < 2 ^ z)) &&
    s.regions.all fun e =>
      decide (e.1 = i) || !e.2.v ||
        decide (r.base.toNat + 2 ^ z ≤ e.2.base.toNat ∨ e.2.base.toNat + 2 ^ e.2.sz.toNat ≤ r.base.toNat)

/-- A store to word o of region entry i (R281, R282). A change of V drops the constant-cache lines (R290). -/
def State.writeRegion (s : State) (i o : Nat) (v : Word) : State :=
  let r := s.region i
  let put := fun (q : Region) => { s with regions := tabSet Region.reset s.regions i q }
  if r.v then
    if o = 0 ∧ v.getLsbD 0 = false then { put { r with v := false } with ccache := [] } else s
  else if o = 0 then
    let q := { r with sz := v.extractLsb' 8 6 }
    if v.getLsbD 0 ∧ s.admits i q then { put { q with v := true } with ccache := [] } else put q
  else if o = 8 then put { r with base := v.extractLsb' 0 39 }
  else if 16 ≤ o ∧ o < 96 then
    let k := (o - 16) / 8
    put { r with masks := tabSet (defaultMask k) r.masks k (v.extractLsb' 0 39) }
  else s

/-- Note the binding of a token that a write has changed, until its TLBINV (R284). -/
def State.noteBinding (s t : State) (token : Word) : State :=
  if s.boundNow token = t.boundNow token then t
  else { t with oldBinds := { token := token, bound := s.boundNow token } :: t.oldBinds }

/-- A store to word o of the address-space entry of an ASID (R284). -/
def State.writeAsid (s : State) (i o : Nat) (v : Word) : State :=
  let e := s.asid i
  let e' : AsEntry :=
    if o = 0 then { e with token := v }
    else if o = 8 then { e with v := v.getLsbD 0, root := v.extractLsb' 20 32 }
    else e
  let t := { s with asids := tabSet AsEntry.reset s.asids i e' }
  s.noteBinding (s.noteBinding t e.token) e'.token

/-- Some stream has been placed and has not ended (R351). -/
def State.anyPlaced (s : State) : Bool :=
  s.allCtxs.any fun c => match c.place with
    | .resident | .away | .halted _ => true
    | _ => false

def clampNat (lo hi v : Nat) : Nat := if v < lo then lo else if hi < v then hi else v

/-- A ST.n64 to a control-space word: it changes the fields marked S rw (R281). -/
def State.writeControl (s : State) (off : Nat) (v : Word) : State :=
  if off < 0x800 then s.writeRegion (off / 128) (off % 128) v
  else if 0x10000 ≤ off ∧ off < 0x30000 then s.writeAsid ((off - 0x10000) / 32) (off % 32) v
  else if 0x30000 ≤ off ∧ off < 0x34000 ∧ off % 16 = 8 then
    let c := (off - 0x30000) / 16
    s.setCore c { s.core c with sreq := v.extractLsb' 0 32 }
  else if 0x50000 ≤ off ∧ off < 0x50200 then
    let i := (off - 0x50000) / 64
    if off % 64 = 16 then s.setStack i { s.stack i with cpool := v.extractLsb' 12 40 }
    else if off % 64 = 24 then s.setStack i { s.stack i with ccount := v.extractLsb' 0 32 }
    else s
  else if off = 0x50200 then { s with pbudget := clampNat 400 1600 (v.toNat % 2 ^ 11) }
  else if off = 0x50208 then
    if s.anyPlaced then s else { s with savesets := clampNat 2 8 (v.toNat % 16) }
  else if 0x60000 ≤ off ∧ off < 0x60200 then
    let q := (off - 0x60000) / 8
    s.setQueue q { s.queue q with token := v }
  else if 0x60200 ≤ off ∧ off < 0x60400 then
    let q := (off - 0x60200) / 8
    s.setQueue q { s.queue q with dbg := v.getLsbD 0 }
  else if 0x70000 ≤ off ∧ off < 0x70080 then
    let i := (off - 0x70000) / 16
    let r := s.link i
    s.setLink i (if off % 16 = 0 then { r with acc := v.getLsbD 16 } else { r with lim := v.extractLsb' 16 24 })
  else if 0x70100 ≤ off ∧ off < 0x70120 ∧ off % 16 = 8 then
    let p := (off - 0x70100) / 16
    s.setPort p { s.port p with lim := v.extractLsb' 16 32 }
  else if 0x80000 ≤ off ∧ off < 0x84000 ∧ off % 16 = 0 then
    let i := (off - 0x80000) / 16
    { s with preq := tabSet PageReq.reset s.preq i { s.pageReq i with v := v.getLsbD 0 } }
  else s

/-- The lowest free entry of the page-request queue, searched from i. -/
def State.freeReq (s : State) : Nat → Nat → Option Nat
  | 0, _ => none
  | n + 1, i => if (s.pageReq i).v then s.freeReq n (i + 1) else some i

/-- Post a page request (R288). -/
def State.postRequest (s : State) (asid page : Nat) : State :=
  let q : PageReq := { v := true, page := BitVec.ofNat 40 page, asid := BitVec.ofNat 12 asid }
  if s.preq.any (fun e => decide (e.2 = q)) then s
  else match s.freeReq Config.nPageRequests 0 with
    | some i => { s with preq := tabSet PageReq.reset s.preq i q }
    | none => s

end Sys2Proof.Machine
end

