-- ==== Sys2Proof/Machine/Memory.lean ====
section
/-! DEFINITION. The cells: reads and writes with the marks of their sectors (R213, R250, R368), the wakes of parked WAITWs
(R127), the line monitor's notice (R330), and the column-path requests (R291, R292). -/

namespace Sys2Proof.Machine

/-- The cause a read of [loc, loc + n) of device memory meets: 0x0E before 0x0D (R44, R213). -/
def State.markCause (s : State) (loc n : Nat) : Option Nat :=
  let hit := s.marks.filter fun e => decide (loc < 32 * (e.1 + 1) ∧ 32 * e.1 < loc + n)
  if loc < 2 ^ 39 then
    if hit.any fun e => decide (e.2 = .cancelled) then some 0x0E
    else if hit.any fun e => decide (e.2 = .poisoned) then some 0x0D
    else none
  else none

/-- The n bytes at a physical address of device memory or of a window. -/
def State.readCells (s : State) (pa n : Nat) : Nat := s.readLoc (s.locOf pa) n

/-- The sub-gangs of a context parked on a word that p holds of read again (R127): their instruction is ready from now on. -/
def Context.wakeIf (c : Context) (now : Nat) (p : Nat → Bool) : Context :=
  let c1 := if c.parked.any p then { c with parked := none, stall := false, since := now } else c
  { c1 with sib := c1.sib.map fun b => if b.onWord.any p then { b with onWord := none, stall := false, since := now } else b }

/-- A context parked on the word at w stops being parked when [loc, loc + n) is written (R127). -/
def Context.wake (c : Context) (now loc n : Nat) : Context := c.wakeIf now fun w => decide (w < loc + n ∧ loc < w + 8)

/-- Wake the streams parked on a word of [loc, loc + n). -/
def State.wake (s : State) (loc n : Nat) : State := s.mapCtxs fun c => c.wake s.now loc n

/-- The bucket of the watch filter that a word selects at its home stack (R311): the spec does not give the function (LOG 77). -/
def watchBucket (loc : Nat) : Nat := Config.watchBucket (loc / 8) % 4096

/-- A WAITW that parks on a word of device memory sets its core's bit (R311). -/
def State.watchWord (s : State) (core loc : Nat) : State :=
  if loc < 2 ^ 39 then
    let k := stackOf (coreOfLoc loc)
    let r := s.stack k
    let m := tabGet 0 r.watch (watchBucket loc)
    s.setStack k { r with watch := tabSet 0 r.watch (watchBucket loc) (m ||| BitVec.ofNat 1024 (2 ^ core)) }
  else s

/-- A write of a word of a bucket clears its mask and wakes every core set in it (R311). -/
def State.wakeBucket (s : State) (loc : Nat) : State :=
  let k := stackOf (coreOfLoc loc)
  let r := s.stack k
  let m := tabGet 0 r.watch (watchBucket loc)
  if m = 0 then s
  else (s.setStack k { r with watch := tabErase r.watch (watchBucket loc) }).mapCtxs fun c =>
    if c.resident && m.getLsbD c.core then c.wakeIf s.now fun _ => true else c

/-- The buckets of the words of [loc, loc + n) that a write of device memory reaches. -/
def State.wakeBuckets (s : State) (loc n : Nat) : State :=
  if loc < 2 ^ 39 ∧ (s.stack (stackOf (coreOfLoc loc))).watch ≠ [] then
    (List.range ((loc % 8 + n + 7) / 8)).foldl (fun s i => s.wakeBucket (loc / 8 * 8 + 8 * i)) s
  else s

/-- The line monitor's notice of a write to the byte 255 of launch slots (R330, R397). -/
def State.notice (s : State) (pa n : Nat) : State :=
  if spaceOf pa = .device ∧ pa / 2 ^ 39 % 2 = 1 ∧ pa % 2 ^ 39 < 2 ^ 20 then
    (List.range ((pa % 256 + n) / 256)).foldl (fun s k =>
      let i := (pa % 2 ^ 39 / 256 + k) % 4096
      let q := s.queue (i / 64)
      s.setQueue (i / 64) { q with seen := tabSet false q.seen (i % 64) true }) s
  else s

/-- The sector marks after a write of [loc, loc + n): a sector written whole is clean (R213). -/
def clearMarks (m : Tab SectorMark) (loc n : Nat) : Tab SectorMark :=
  m.filter fun e => !decide (loc ≤ 32 * e.1 ∧ 32 * (e.1 + 1) ≤ loc + n)

/-- CE of a tier counts k corrections, saturating (R370). -/
def TierRec.correct (r : TierRec) (k : Nat) : TierRec := { r with ce := BitVec.ofNat 32 (min (2 ^ 32 - 1) (r.ce.toNat + k)) }

/-- The sectors of [loc, loc + n) whose cells hold an error that a read corrects (R368). -/
def State.latentIn (s : State) (loc n : Nat) : List Nat :=
  (s.marks.filter fun e => decide (e.2 = .latent) && decide (loc < 32 * (e.1 + 1) ∧ 32 * e.1 < loc + n)).map Prod.fst

/-- A read of [loc, loc + n) corrects what it reads: the tier counts the sectors, and their cells keep the error (R368, R370). -/
def State.corrected (s : State) (loc n : Nat) : State :=
  match s.latentIn loc n with
  | [] => s
  | k :: ks => s.setTier (tierOfLoc (32 * k)) ((s.tier (tierOfLoc (32 * k))).correct (ks.length + 1))

/-- A write of part of a sector reads it first and writes it back whole (R306): an error of it is corrected, and gone. -/
def State.rewritten (s : State) (loc n : Nat) : State :=
  if s.latentIn loc n = [] then s
  else
    let t := (s.latentIn loc n).foldl (fun (t : State) k =>
      if loc ≤ 32 * k ∧ 32 * (k + 1) ≤ loc + n then t else t.corrected (32 * k) 32) s
    { t with marks := t.marks.filter fun e => !(s.latentIn loc n).contains e.1 }

/-- The n bytes at a location become v. -/
def State.writeLoc (s0 : State) (loc n v : Nat) : State :=
  let s := s0.rewritten loc n
  let t := { s with
    mem := memWrite s.mem loc n v
    writes := { at_ := s.now, loc := loc, n := n, old := memGet s.mem loc n, by_ := .other } :: s.writes
    marks := clearMarks s.marks loc n }
  (t.wake loc n).wakeBuckets loc n

/-- The last write is a landing's or a posted store's. -/
def State.signed (s : State) (w : Writer) : State :=
  { s with writes := match s.writes with
      | [] => []
      | e :: t => { e with by_ := w } :: t }

/-- Remember bytes stored past the detent of a copy in flight: its landing may or may not overwrite them (R244). -/
def State.murky (s : State) (loc n v : Nat) : State :=
  if s.anyAhead then
    (List.range n).foldl (fun t i =>
      if t.inFlight (loc + i) = [] then t
      else { t with murk := tabPut t.murk (loc + i) (BitVec.ofNat 8 (v / 2 ^ (8 * i))) }) s
  else s

/-- A write of the n bytes at a location that may pass a detent, in the view it does not guard (R244). -/
def State.writeBytes (s : State) (loc n v : Nat) : State := (s.writeLoc loc n v).murky loc n v

/-- The n bytes at a physical address of device memory or of a window become v. -/
def State.writeCells (s : State) (pa n v : Nat) : State := (s.writeBytes (s.locOf pa) n v).notice pa n

/-- The pieces of n bytes at va, split at multiples of 512. -/
def pieces (va n : Nat) : List (Nat × Nat) :=
  (List.range ((va % 512 + n + 511) / 512)).map fun i =>
    let lo := max va (va / 512 * 512 + 512 * i)
    (lo, min (va + n) (va / 512 * 512 + 512 * (i + 1)) - lo)

/-- k pieces of 512 bytes from a 512-aligned physical address: an interleaved address is contiguous within each (R278). -/
def State.readBulk (s : State) (pa k : Nat) : Nat :=
  (List.range k).foldr (fun i acc => acc + s.readCells (pa + 512 * i) 512 * 2 ^ (4096 * i)) 0
def State.writeBulk (s : State) (pa k v : Nat) : State :=
  (List.range k).foldl (fun s i => s.writeCells (pa + 512 * i) 512 (v / 2 ^ (4096 * i) % 2 ^ 4096)) s

/-- The destination of a column-path request (R291). -/
def State.destination (s : State) (pa : Nat) : Nat :=
  match spaceOf pa with
  | .device => s.locOf pa / 2 ^ 25
  | .host p => 2 ^ 20 + p
  | .druthes l => 2 ^ 21 + l
  | .control => 2 ^ 22
  | .none => 2 ^ 23

/-- The destination of an LDC: the constant cache (R291). -/
def cacheDest : Nat := 2 ^ 24

/-- The requests of a context's instructions that wait. -/
def Context.requests (c : Context) : List Request := c.asking ++ (c.sib.map Sibling.asking).getD []

/-- The requests of a core's streams that wait. -/
def State.requestsAt (s : State) (core : Nat) : List Request := (s.residents core).flatMap Context.requests

/-- The destinations of the request slots in use at a core (R291): those of stores at their homes and of requests that wait there. The
launch unit has slots of its own. -/
def State.slotsHeld (s : State) (core : Nat) : List Nat :=
  ((s.posted.filter fun p => decide (p.core = core ∧ p.ctx ≠ launchUnit) && p.sent).map fun p => s.destination p.pa) ++
    ((s.requestsAt core).filter Request.held).map Request.dest

/-- The destinations of the requests that wait for a slot and issued before a step (R292). -/
def State.slotsWanted (s : State) (core at_ : Nat) : List Nat :=
  ((s.posted.filter fun p => decide (p.core = core ∧ p.at_ < at_) && !p.sent).map fun p => s.destination p.pa) ++
    ((s.requestsAt core).filter fun r => !r.held && decide (r.at_ < at_)).map Request.dest

/-- A core grants a slot for a destination to a request issued at a step (R292): at most 16 in all and 4 of one destination, and
older requests that could have one go first. -/
def State.slotFreeTo (s : State) (core at_ dest : Nat) : Bool :=
  let used := s.slotsHeld core
  let first := (s.slotsWanted core at_).foldl (fun f d => if (used ++ f).count d < Config.nPerDestination then d :: f else f) []
  decide (used.length + first.length < Config.nRequests) && decide ((used ++ first).count dest < Config.nPerDestination)

/-- The step at which the running instruction issued its requests: an earlier one, when it waits (R292). -/
def State.askedAt (s : State) : Nat := (s.ctx.asking.head?.map Request.at_).getD s.now

/-- The running stream gets a slot for a destination, the one its waiting instruction holds included. -/
def State.grants (s : State) (dest : Nat) : Bool :=
  (s.withCtx { s.ctx with asking := [] }).slotFreeTo s.ctx.core s.askedAt dest

/-- The running stream gets a request slot for a physical address (R291, R292). -/
def State.slotFree (s : State) (pa : Nat) : Bool := s.grants (s.destination pa)

/-- A posted store of the stream has no slot yet: the stream issues nothing further (R292). -/
def State.unsent (s : State) (id : Nat) : Bool := s.posted.any fun p => decide (p.ctx = id) && !p.sent

/-- The posted stores that waited for a slot get one, in their order (R292). -/
def State.sendWaiting (s : State) : State :=
  if s.posted.all Posted.sent then s
  else (List.range s.posted.length).foldl (fun s k => match s.posted[k]? with
    | some p => if !p.sent && s.slotFreeTo p.core p.at_ (s.destination p.pa) then
        { s with posted := s.posted.set k { p with sent := true } } else s
    | none => s) s

/-- The context has a posted store that reaches a byte of [pa, pa + n) (R215). -/
def State.postedOver (s : State) (id pa n : Nat) : Bool :=
  let loc := s.locOf pa
  s.posted.any fun p => decide (p.ctx = id) && decide (s.locOf p.pa < loc + n ∧ loc < s.locOf p.pa + p.n)

/-- The context has a posted store; from before the running strip only (R121). -/
def State.postedBy (s : State) (id : Nat) : Bool := s.posted.any fun p => decide (p.ctx = id)
def State.postedBefore (s : State) (id : Nat) : Bool := s.posted.any fun p => decide (p.ctx = id) && p.before

/-- The sources of the hasp die (R308): two host ports, eight Druthes links, and the hub links of the eight stacks. -/
def haspSources : Nat := 18

/-- An access of a core leaves its stack over the hub link (R308). -/
def State.crosses (s : State) (core pa : Nat) : Bool := match spaceOf pa with
  | .device => decide (stackOf (coreOfLoc (s.locOf pa)) ≠ stackOf core)
  | .host _ | .druthes _ => true
  | _ => false

/-- A store on its way, or a request of an instruction that waits, has still to leave its stack (R308). -/
def State.storeCrosses (s : State) (p : Posted) : Bool := p.sent && !p.crossed && s.crosses p.core p.pa
def State.requestCrosses (s : State) (c : Context) (r : Request) : Bool := r.held && !r.crossed && s.crosses c.core r.pa

/-- The hub link of a stack has a store or a request to send over the hasp die. -/
def State.hubWaits (s : State) (stack : Nat) : Bool :=
  (s.posted.any fun p => decide (stackOf p.core = stack) && s.storeCrosses p) ||
    s.allCtxs.any fun c => c.resident && decide (stackOf c.core = stack) && c.requests.any (s.requestCrosses c)

/-- A source of the hasp die has traffic waiting, the pieces of copies apart: a port or a link, or a hub link. -/
def State.haspTraffic (s : State) (src : Nat) : Bool :=
  if src < 10 then s.externals.any fun r => decide (r.src = src ∧ 0 < r.flits) else s.hubWaits (src - 10)

/-- An access of a class has performed: its endpoint served the class last (R304), and the hasp die served its hub link last (R308). -/
def State.reached (s : State) (core cls pa : Nat) : State :=
  let t := if s.crosses core pa then { s with haspTurn := 10 + stackOf core } else s
  if spaceOf pa = .device then
    let k := coreOfLoc (s.locOf pa)
    t.setCore k { t.core k with lastClass := cls }
  else t

/-- Count a scalar access in the SREQ of the core that serves it (R384). -/
def State.counted (s : State) (pa : Nat) : State :=
  if spaceOf pa = .device then
    let c := coreOfLoc (s.locOf pa)
    let r := s.core c
    s.setCore c { r with sreq := if r.sreq = BitVec.allOnes 32 then r.sreq else r.sreq + 1 }
  else s

/-- A scalar access of the running stream has performed at its home (R304, R384). -/
def State.serve (s : State) (pa : Nat) : State := (s.reached s.ctx.core 0 pa).counted pa

end Sys2Proof.Machine
end

