-- ==== Sys2Proof/Machine/Operands.lean ====
section
/-! DEFINITION. Operand forms: which names an instruction accepts (R71, R73), register groups (R160, R161), keep-row names and
their bindings (R18 to R20), and the elements, marks and scale bytes of an operand (R13, R45, R52). -/

namespace Sys2Proof.Machine

/-- The word of an instruction, zero-extended (TVAL of 0x01 and 0x05). -/
def wordOf (i : Instr) : Word := match encode i with
  | some w => w.setWidth 64
  | none => 0

/-- A name of one of the accepted classes, a v name within the configuration (R73 step 4). -/
def Context.accepts (c : Context) (cls : List NameClass) (n : NameF) : Bool :=
  cls.contains (nameClass n) && (decide (nameClass n ≠ .v) || decide (n.toNat < c.nNames))

/-- The name checks in the order given: D, A, B (R73). -/
def Context.checkNames (c : Context) : List (List NameClass × NameF) → Except Stop Unit
  | [] => .ok ()
  | (cls, n) :: t => if c.accepts cls n then c.checkNames t else trapS 0x02 (n.setWidth 64)

def clsS : List NameClass := [.s, .z]
def clsS1 : List NameClass := [.s]
def clsV : List NameClass := [.v, .k]
def clsVz : List NameClass := [.v, .k, .z]
def clsVzs : List NameClass := [.v, .k, .z, .s]
def clsP : List NameClass := [.p]
def clsRow : List NameClass := [.v]
def clsK : List NameClass := [.k]
def clsKz : List NameClass := [.k, .z]

/-- A read of a scalar or control register with a double-bit error (R369): 0x0D with the register form. -/
def Context.sound (c : Context) (names : List NameF) (ctl : List Nat) (dst : List NameF := []) : Except Stop Unit :=
  if c.bad = [] then .ok ()
  else if (names ++ dst).any (fun n => decide (nameClass n = .s)) && tabGet false c.bad (256 + 0x02) then trapS 0x0D 0xA000000000000002
  else match names.find? fun n => decide (nameClass n = .s) && tabGet false c.bad (c.physical n) with
    | some n => trapS 0x0D (0x8000000000000000 + BitVec.ofNat 64 (c.physical n))
    | none =>
      match ctl.find? fun i => tabGet false c.bad (256 + i) with
      | some i => trapS 0x0D (0xA000000000000000 + BitVec.ofNat 64 i)
      | none => .ok ()

/-- The same as a failure of a bank-class instruction: every bank of the gang meets it (R131, R408). -/
def Context.soundFails (c : Context) (names : List NameF) (ctl : List Nat) (dst : List NameF := []) : List (Nat × Word) :=
  match c.sound names ctl dst with
  | .error (.trap k v _) => [(k, v)]
  | _ => []

/-- A read of a predicate word below VL with a double-bit error, in one bank (R369). -/
def Context.predSound (c : Context) (p bank words : Nat) : Option Word :=
  if c.bad = [] then none
  else ((List.range words).find? fun w => tabGet false c.bad (512 + 2048 * bank + 256 * p + w)).map fun w =>
    0x9000000000000000 + BitVec.ofNat 64 (256 * p + w)

/-- VL (R159). -/
def Context.vl (c : Context) : Nat := c.nrow * c.ncol

/-- VFMA and the like act on blocks: elements produced (R162). -/
def roundBlocks (n : Nat) : Nat := (n + 15) / 16 * 16

/-! Names of a bank: v names are 0 to 7, keep names 8 to 15. -/

/-- The pool row a keep name is bound to (R18). -/
def Bank.bound (b : Bank) (k : Nat) : Option Nat :=
  match tabGet 0 b.kname k with
  | 0 => none
  | r + 1 => some r

def Bank.poolRow (b : Bank) (r : Nat) : KeepRow := tabGet KeepRow.reset b.pool r
def Bank.setPool (b : Bank) (r : Nat) (q : KeepRow) : Bank := { b with pool := tabSet KeepRow.reset b.pool r q }

/-- The lowest free pool row (R18); eight names always leave one. -/
def Bank.freeRow (b : Bank) : Nat :=
  ((List.range Config.nPool).find? fun r => b.kname.all fun e => decide (e.2 ≠ r + 1)).getD 0

/-- What an unwritten row holds: each of its 32 beats is zero or that beat of a row this stream owned earlier (R18). Which, the spec
leaves open (LOG 1). -/
def Bank.openRow (b : Bank) (now : Nat) : BitVec 65536 :=
  if b.history = [] then 0
  else BitVec.ofNat 65536 ((List.range 32).foldr (fun i acc =>
    acc * 2 ^ 2048 + bitsOf ((0 :: b.history).getD (Config.freePick now 4 i % (b.history.length + 1)) 0) (2048 * i) 2048) 0)

/-- Give a keep name's row back to the pool (R19) and remember its content (R18). -/
def Bank.release (b : Bank) (k : Nat) : Bank :=
  match b.bound k with
  | none => b
  | some r =>
    { b with
      kname := tabErase b.kname k
      pool := tabErase b.pool r
      history := (b.poolRow r).data :: b.history }

/-- Bind an unbound keep name to the lowest free row (R18); its contents are open. -/
def Bank.bind (b : Bank) (k now : Nat) : Bank :=
  match b.bound k with
  | some _ => b
  | none =>
    let r := b.freeRow
    { b with
      kname := tabPut b.kname k (r + 1)
      pool := tabSet KeepRow.reset b.pool r { KeepRow.reset with data := b.openRow now } }

/-- The tag of a name; for an unbound keep name an open one (R19). -/
def Bank.tagOf (b : Bank) (now n : Nat) : TagBits :=
  if n < 8 then (b.row n).tag
  else match b.bound (n - 8) with
    | some r => (b.poolRow r).tag
    | none => BitVec.ofNat 4 (Config.freePick now 5 n)

/-- The stored bits of a name. -/
def Bank.bitsOfName (b : Bank) (now n : Nat) : Nat :=
  if n < 8 then (b.row n).latch.toNat
  else match b.bound (n - 8) with
    | some r => (b.poolRow r).data.toNat
    | none => (b.openRow now).toNat

/-- The fault mask of a name. -/
def Bank.fmOf (b : Bank) (n : Nat) : Nat :=
  if n < 8 then (b.row n).fm.toNat
  else match b.bound (n - 8) with
    | some r => (b.poolRow r).fm.toNat
    | none => 0

def Bank.fmcOf (b : Bank) (n : Nat) : Nat :=
  if n < 8 then (b.row n).fmc.toNat
  else match b.bound (n - 8) with
    | some r => (b.poolRow r).fmc.toNat
    | none => 0

/-- Set the tag of a name. -/
def Bank.setTag (b : Bank) (n : Nat) (t : TagBits) : Bank :=
  if n < 8 then b.setRow n { b.row n with tag := t }
  else match b.bound (n - 8) with
    | some r => b.setPool r { b.poolRow r with tag := t }
    | none => b

/-! Element positions within a name. -/

/-- The bit of element e of a name (R45, R52). -/
def elemBit (t : TagBits) (e : Nat) : Nat :=
  let g := e / tagPerSeg t
  let i := e % tagPerSeg t
  65536 * g + (if t.toNat = 7 then 32 * (i / 5) + 6 * (i % 5) else tagBits t * i)

/-- The bit of the scale byte of element e (R51, R52). -/
def scaleBit (t : TagBits) (e : Nat) : Nat :=
  let g := e / tagPerSeg t
  let i := e % tagPerSeg t
  65536 * g + (if t.toNat = 15 then 57344 else 61440) + 8 * (i / 16)

/-- Elements of one name: E of R160. -/
def Context.capacity (c : Context) (n : Nat) (t : TagBits) : Nat := tagPerSeg t * (if n < 8 then c.segs else 1)

/-- Names of a group (R160). -/
def Context.groupSize (c : Context) (n : Nat) (t : TagBits) (count : Nat) : Nat :=
  (count + c.capacity n t - 1) / c.capacity n t

/-- The group ends within the configuration (R160). -/
def Context.groupFits (c : Context) (n : Nat) (t : TagBits) (count : Nat) : Bool :=
  decide (n + c.groupSize n t count ≤ (if n < 8 then c.nNames else 16))

def Part.none : Part := ⟨0, 0, 0⟩

def Vec.tag : Vec → TagBits
  | .regs t _ _ => t
  | .splat t _ => t
  | .splatVal t _ => t

/-- The code of element e. -/
def Vec.code (v : Vec) (e : Nat) : Nat := match v with
  | .regs t cap ps => (ps.getD (e / cap) Part.none).bits / 2 ^ elemBit t (e % cap) % 2 ^ tagBits t
  | .splat _ c => c
  | .splatVal _ _ => 0

/-- The scale byte of element e's block. -/
def Vec.scale (v : Vec) (e : Nat) : Nat := match v with
  | .regs t cap ps => (ps.getD (e / cap) Part.none).bits / 2 ^ scaleBit t (e % cap) % 256
  | _ => 127

/-- The exact value of element e (R48 to R55, R60). -/
def Vec.value (fz : Bool) (v : Vec) (e : Nat) : FVal := match v with
  | .splatVal _ x => x
  | _ => if tagBk v.tag then blockValue v.tag (v.code e) (v.scale e) else tagValue v.tag fz (v.code e)

/-- Whether a lane word of a part is marked. -/
def Part.marked (p : Part) (w : Nat) : Bool := p.fm.testBit w

/-- The cause a mark on element e carries onward: the FMC of the name that holds it (R15). -/
def Vec.mark (v : Vec) (e : Nat) : Option Nat := match v with
  | .regs t cap ps =>
    let p := ps.getD (e / cap) Part.none
    let w := elemBit t (e % cap) / 32
    if p.marked w || (decide (tagBits t = 64) && p.marked (w + 1)) ||
        (tagBk t && p.marked (scaleBit t (e % cap) / 32)) then some p.fmc else none
  | _ => none

/-- The mark of the lane word of element e's own code, and that of its scale byte, for copies. A 64-bit element with a mark on one of
its two lane words moves as marked: both words of its copy are (DESIGN CHOICE, LOG 72). -/
def Vec.codeMark (v : Vec) (e : Nat) : Option Nat := match v with
  | .regs t cap ps =>
    let p := ps.getD (e / cap) Part.none
    let w := elemBit t (e % cap) / 32
    if p.marked w || (decide (tagBits t = 64) && p.marked (w + 1)) then some p.fmc else none
  | _ => none
def Vec.scaleMark (v : Vec) (e : Nat) : Option Nat := match v with
  | .regs t cap ps =>
    let p := ps.getD (e / cap) Part.none
    if p.marked (scaleBit t (e % cap) / 32) then some p.fmc else none
  | _ => none

/-- The cause that the lowest of several elements with a marked lane word carries onward: names of a group rise with their elements
(R15). -/
def Vec.lowestMark (v : Vec) (es : List Nat) : Option Nat :=
  match es.filter fun e => (v.codeMark e).isSome with
  | [] => none
  | e :: t => v.codeMark (t.foldl min e)

/-- The names of a group as parts. -/
def Bank.parts (b : Bank) (now n count : Nat) : List Part :=
  (List.range count).map fun i => ⟨b.bitsOfName now (n + i), b.fmOf (n + i), b.fmcOf (n + i)⟩

/-- A register operand of count elements. -/
def Context.regVec (c : Context) (b : Bank) (now n : Nat) (t : TagBits) (count : Nat) : Vec :=
  .regs t (c.capacity n t) (b.parts now n (c.groupSize n t count))

/-- The element a scalar supplies in the format of a tag (R161). -/
def scalarVec (fz : Bool) (t : TagBits) (v : Word) : Vec :=
  if tagBk t then .splatVal t (flushIn .f32 fz (Fmt.f32.value (v.toNat % 2 ^ 32)))
  else .splat t (v.toNat % 2 ^ tagBits t)

/-- A result element: its code and, when it is marked, the cause of the mark. -/
structure Cell where
  bit   : Nat
  width : Nat
  code  : Nat
  mark  : Option Nat
  deriving DecidableEq, Repr

/-- Write cells into stored bits; cells do not overlap. -/
def putCells (bits : Nat) (cells : List Cell) : Nat :=
  cells.foldl (fun acc q =>
    let old := acc / 2 ^ q.bit % 2 ^ q.width
    acc ^^^ ((old ^^^ (q.code % 2 ^ q.width)) * 2 ^ q.bit)) bits

/-- The lane words a cell covers. -/
def Cell.words (q : Cell) : List Nat := (List.range ((q.bit % 32 + q.width + 31) / 32)).map fun i => q.bit / 32 + i

/-- The lane words that cells cover, each with whether a mark falls on it. -/
def coverage (cells : List Cell) : List (Nat × Bool) :=
  cells.foldl (fun acc q =>
    q.words.foldl (fun acc w =>
      match acc with
      | (w', m) :: t => if w' = w then (w, m || q.mark.isSome) :: t else (w, q.mark.isSome) :: acc
      | [] => [(w, q.mark.isSome)]) acc) []

/-- The fault mask after the cells are written: a lane word takes the mark of its cells, and keeps its old one too where keep says
that it also holds elements the instruction does not write, or has written before (R15, R167). -/
def putMarks (fm : Nat) (keep : Nat → Bool) (cov : List (Nat × Bool)) : Nat :=
  cov.foldl (fun acc (w, m) =>
    let bit := m || (keep w && fm.testBit w)
    acc ^^^ ((boolNat (acc.testBit w) ^^^ boolNat bit) * 2 ^ w)) fm

/-- FMC after a write: it takes the first mark's cause when FM was all zeros (R15). -/
def nextFmc (fm fm' fmc : Nat) (cells : List Cell) : Nat :=
  if fm = 0 ∧ fm' ≠ 0 then (cells.findSome? Cell.mark).getD fmc else fmc

/-- Write cells of a name: bits, FM, FMC and DIRTY (R15, R16, R18). keep says of a lane word that its old mark stays too. -/
def Bank.write (b : Bank) (n : Nat) (keep : Nat → Bool) (cells : List Cell) : Bank :=
  if cells = [] then b
  else if n < 8 then
    let r := b.row n
    let fm' := putMarks r.fm.toNat keep (coverage cells)
    let dirty := cells.foldl (fun d q => d ||| 1 <<< (q.bit / 2048)) r.dirty.toNat
    b.setRow n { r with
      latch := BitVec.ofNat 524288 (putCells r.latch.toNat cells)
      fm := BitVec.ofNat 16384 fm'
      fmc := BitVec.ofNat 8 (nextFmc r.fm.toNat fm' r.fmc.toNat cells)
      dirty := BitVec.ofNat 256 dirty }
  else match b.bound (n - 8) with
    | none => b
    | some r =>
      let q := b.poolRow r
      let fm' := putMarks q.fm.toNat keep (coverage cells)
      b.setPool r { q with
        data := BitVec.ofNat 65536 (putCells q.data.toNat cells)
        fm := BitVec.ofNat 2048 fm'
        fmc := BitVec.ofNat 8 (nextFmc q.fm.toNat fm' q.fmc.toNat cells) }

/-- Elements in one lane word of a format (R45). -/
def perWord (t : TagBits) : Nat := if t.toNat = 7 then 5 else 32 / tagBits t

/-- The first element of a name that has bits in lane word w, and how many have: 1 for a wide element, and for a word of scale bytes
the elements of its four blocks (R45, R52). -/
def wordElems (t : TagBits) (w : Nat) : Nat × Nat :=
  let g := w / 2048 * tagPerSeg t
  let i := w % 2048
  let s0 := if t.toNat = 15 then 1792 else 1920
  if tagBk t && decide (s0 ≤ i) then (g + 64 * (i - s0), 64)
  else if tagBits t = 64 then (g + i / 2, 1)
  else (g + perWord t * i, perWord t)

/-- A lane word also holds elements of the name below lo or from hi on (R167). -/
def partWritten (t : TagBits) (lo hi w : Nat) : Bool :=
  let q := wordElems t w
  decide (q.1 < lo ∨ hi < q.1 + q.2)

/-- The cells of results for elements e0, e0 + 1, … of one name. TM6 words get their top bits written 0 (R45). -/
def elemCells (t : TagBits) (e0 : Nat) (rs : List (Nat × Option Nat)) : List Cell :=
  rs.zipIdx e0 |>.map fun (r, e) => ⟨elemBit t e, tagBits t, r.1, r.2⟩

/-- The bits that hold no element and are written 0 with elements e0 to e0 + n - 1: the top bits of TM6 lane words (R45), and
the scale area's unused bytes with the last block of each segment (R52, LOG 15). -/
def fillCells (t : TagBits) (e0 n : Nat) : List Cell :=
  if t.toNat = 7 then
    (List.range ((e0 + n + 4) / 5 - e0 / 5)).map fun i =>
      let w := elemBit t (5 * (e0 / 5 + i)) / 32
      ⟨32 * w + 30, 2, 0, none⟩
  else if tagBk t then
    let g0 := e0 / tagPerSeg t
    (List.range ((e0 + n) / tagPerSeg t - g0)).map fun i =>
      ⟨65536 * (g0 + i) + (if t.toNat = 15 then 64512 else 65280), if t.toNat = 15 then 1024 else 256, 0, none⟩
  else []

/-- The cells of scale bytes for the blocks that begin at element e0. -/
def scaleCells (t : TagBits) (e0 : Nat) (ss : List (Nat × Option Nat)) : List Cell :=
  ss.zipIdx |>.map fun (r, i) => ⟨scaleBit t (e0 + 16 * i), 8, r.1, r.2⟩

/-- The fault mask after bits that carry no element are written: a lane word they fill whole has no mark (R15). -/
def clearWhole (fm : Nat) (cells : List Cell) : Nat :=
  cells.foldl (fun m q => (List.range (q.width / 32)).foldl (fun m i =>
    m ^^^ (boolNat (m.testBit (q.bit / 32 + i)) * 2 ^ (q.bit / 32 + i))) m) fm

/-- Write bits that carry no element. -/
def Bank.writePlain (b : Bank) (n : Nat) (cells : List Cell) : Bank :=
  if n < 8 then
    let r := b.row n
    b.setRow n { r with
      latch := BitVec.ofNat 524288 (putCells r.latch.toNat cells), fm := BitVec.ofNat 16384 (clearWhole r.fm.toNat cells) }
  else match b.bound (n - 8) with
    | none => b
    | some r =>
      let q := b.poolRow r
      b.setPool r { q with
        data := BitVec.ofNat 65536 (putCells q.data.toNat cells), fm := BitVec.ofNat 2048 (clearWhole q.fm.toNat cells) }

/-- Write results for the elements from lo on, of the total an instruction produces, into the group at name n: element e of the
group lies in name n + e / cap. -/
def Bank.writeGroup (b : Bank) (n : Nat) (t : TagBits) (cap lo total : Nat) (rs : List (Nat × Option Nat))
    (ss : List (Nat × Option Nat)) : Bank :=
  (List.range ((lo + rs.length + cap - 1) / cap)).foldl (fun b i =>
    let e0 := max lo (i * cap)
    let e1 := min (lo + rs.length) ((i + 1) * cap)
    if e1 ≤ e0 then b
    else
      let mine := (rs.drop (e0 - lo)).take (e1 - e0)
      let s0 := (e0 - lo) / 16
      let sc := if tagBk t then scaleCells t (e0 - i * cap) ((ss.drop s0).take ((e1 - e0) / 16)) else []
      let cells := elemCells t (e0 - i * cap) mine
      let top := fillCells t (e0 - i * cap) (e1 - e0)
      let b := b.write (n + i) (partWritten t (e0 - i * cap) (min cap (total - i * cap))) (cells ++ sc)
      (if top = [] then b else b.writePlain (n + i) top).setTag (n + i) t) b

end Sys2Proof.Machine
end

