-- ==== Sys2Proof/Machine/Lanes.lean ====
section
/-! DEFINITION. What the lanes compute for one element or block (R173 to R187): codes, marks and flags. Nothing here touches
the state of a stream. -/

namespace Sys2Proof.Machine

/-- How a code reads its operands: as floats, as signed or as unsigned integers (R76). -/
inductive Sign where
  | f | x | n
  deriving DecidableEq, Repr

/-- The operations that produce each element from the elements at the same place. -/
inductive LaneOp where
  | add | sub | mul | fma | fms | fnma | abs | neg
  | and | or | xor | andn | shl | shr | sar | sel
  | min (k : Sign) | max (k : Sign) | mulw (k : Sign)
  | rsqe | rcpe | exp2e
  | iota | bcast | clr | copy
  | cvt (k : Sign) (rm : BitVec 3) (tt : TagBits)
  | scl
  deriving DecidableEq, Repr

/-- The operands of one bank, with the issue-time inputs (R168). -/
structure LaneIn where
  a : Vec
  b : Vec
  d : Vec
  tagR : TagBits
  mode : RMode
  fz : Bool
  shift : Int

/-- The integer a code stands for. -/
def intOf (k : Sign) (t : TagBits) (code : Nat) : Int :=
  match k with
  | .n => ((code % 2 ^ tagBits t : Nat) : Int)
  | _ => toSigned (tagBits t) code

/-- The exact value of element e as the code reads it. -/
def Vec.valueAs (k : Sign) (fz : Bool) (v : Vec) (e : Nat) : FVal :=
  if tagI v.tag then FVal.ofInt (intOf k v.tag (v.code e)) else v.value fz e

/-- Multiply by a power of two. -/
def FVal.scale (n : Int) : FVal → FVal
  | .fin s m e => .fin s m (if m = 0 then 0 else e + n)
  | v => v

/-- A conversion of a NaN sets NV when it signals (R63). -/
def quiet (v : FVal) : FVal × FpFlags := (v, flagIf v.isSig flagNV)

/-- The exact value of a result, before its rounding (R173, R175, R178, R182, R183, R186). -/
def LaneOp.value (op : LaneOp) (i : LaneIn) (e : Nat) : FVal × FpFlags :=
  let x := i.a.value i.fz e
  let y := i.b.value i.fz e
  let c := i.d.value i.fz e
  match op with
  | .add => addVal i.mode x y
  | .sub => addVal i.mode x y.negate
  | .mul => mulVal x y
  | .fma => fmaVal i.mode x y c
  | .fms => fmaVal i.mode x y c.negate
  | .fnma => fmaVal i.mode x.negate y c
  | .abs => (x.abs, 0)
  | .neg => (x.negate, 0)
  | .min _ => minMaxVal false x y
  | .max _ => minMaxVal true x y
  | .mulw _ => mulVal x y
  | .rsqe => rsqeVal .f32 i.fz x
  | .rcpe => rcpeVal .f32 i.fz x
  | .exp2e => vexp2eVal i.fz x
  | .iota => (FVal.ofInt e, 0)
  | .bcast => (i.b.value i.fz e, 0)
  | .cvt k _ _ => quiet (i.a.valueAs k i.fz e)
  | .scl => quiet (x.scale i.shift)
  | _ => (x, 0)

/-- The integer result modulo 2^w, for an integer result tag (R174, R177, R178, R186). -/
def LaneOp.int (op : LaneOp) (i : LaneIn) (e : Nat) : Int :=
  let w := tagBits i.tagR
  let x := intOf .x i.a.tag (i.a.code e)
  let y := intOf .x i.b.tag (i.b.code e)
  let c := intOf .x i.d.tag (i.d.code e)
  let ax := fun k => intOf k i.a.tag (i.a.code e)
  let bx := fun k => intOf k i.b.tag (i.b.code e)
  let amount := i.b.code e % w
  match op with
  | .add => x + y
  | .sub => x - y
  | .mul => x * y
  | .fma => x * y + c
  | .fms => x * y - c
  | .fnma => c - x * y
  | .abs => (x.natAbs : Int)
  | .neg => -x
  | .shl => x * 2 ^ amount
  | .shr => ax .n / 2 ^ amount
  | .sar => x / 2 ^ amount
  | .min k => if ax k ≤ bx k then ax k else bx k
  | .max k => if ax k ≤ bx k then bx k else ax k
  | .mulw k => ax k * bx k
  | .iota => e
  | _ => x

/-- The logic codes act on the bits of codes (R176); clear and copy move codes. -/
def LaneOp.bits (op : LaneOp) (i : LaneIn) (e : Nat) : Option Nat :=
  let w := tagBits i.tagR
  let a := i.a.code e
  let b := i.b.code e
  let ones := 2 ^ w - 1
  match op with
  | .and => some (a &&& b)
  | .or => some (a ||| b)
  | .xor => some (a ^^^ b)
  | .andn => some (a &&& (ones ^^^ b))
  | .sel => some ((a &&& i.d.code e) ||| (b &&& (ones ^^^ i.d.code e)))
  | .clr => some 0
  | .copy => some a
  | .bcast => if tagBk i.tagR then none else some b
  | _ => none

/-- The mode an operation rounds in: the VCVT family has its own field (R77). -/
def LaneOp.mode (op : LaneOp) (i : LaneIn) : RMode := match op with
  | .cvt _ rm _ => RMode.ofField i.mode rm
  | _ => i.mode

/-- Round an exact value into the result format; the estimates have rounded already. -/
def LaneOp.round (op : LaneOp) (i : LaneIn) (v : FVal) : Nat × FpFlags :=
  match op with
  | .rsqe | .rcpe | .exp2e => (Fmt.f32.code v, 0)
  | .abs | .neg | .min _ | .max _ => (((tagRound i.tagR .rne false v).1), 0)
  | _ => tagRound i.tagR (op.mode i) i.fz v

/-- The marks of the operands an element reads, in the order A, B, D (R15). -/
def LaneOp.sources (op : LaneOp) (i : LaneIn) : List (Nat → Option Nat) :=
  match op with
  | .iota | .bcast | .clr => []
  | .copy => [i.a.codeMark]
  | .abs | .neg | .rsqe | .rcpe | .exp2e | .cvt _ _ _ | .scl => [i.a.mark]
  | .fma | .fms | .fnma | .sel => [i.a.mark, i.b.mark, i.d.mark]
  | _ => [i.a.mark, i.b.mark]

/-- The cause of the first mark that elements es meet: the operands in order, and in each the lowest element (R15). -/
def firstMark (srcs : List (Nat → Option Nat)) (es : List Nat) : Option Nat := srcs.findSome? fun m => es.findSome? m

/-- The elements lo to hi - 1 that share the lane word of element e. -/
def wordMates (t : TagBits) (lo hi e : Nat) : List Nat :=
  if 32 ≤ tagBits t then [e]
  else ((List.range (perWord t)).map fun x => e / perWord t * perWord t + x).filter fun x => decide (lo ≤ x ∧ x < hi)

/-- One element of a result format without blocks. -/
def LaneOp.element (op : LaneOp) (i : LaneIn) (e : Nat) : Nat × FpFlags :=
  match op.bits i e with
  | some c => (c, 0)
  | none =>
    let w := tagBits i.tagR
    if tagI i.tagR then
      match op with
      | .cvt k rm _ =>
        if tagI i.a.tag then
          let r := satInt w (decide (k = .x)) (intOf k i.a.tag (i.a.code e))
          (wrapInt w r.1, r.2)
        else
          let (v, fl) := quiet (i.a.value i.fz e)
          let r := toInt w (decide (k = .x)) (RMode.ofField i.mode rm) v
          (wrapInt w r.1, fl ||| r.2)
      | _ => (wrapInt w (op.int i e), 0)
    else
      let (v, fl) := op.value i e
      let (c, fl') := op.round i v
      (c, fl ||| fl')

/-- The operations on float and block families that set no flag (R175). -/
def LaneOp.silent : LaneOp → Bool
  | .abs | .neg => true
  | _ => false

/-- One block of a block-scaled result (R53, R162): scale byte, codes and flags. VABS and VNEG re-encode their block and set no flag
(R175). -/
def LaneOp.block (op : LaneOp) (i : LaneIn) (e : Nat) : Nat × List Nat × FpFlags :=
  match op with
  | .copy => (i.a.scale e, (List.range 16).map fun j => i.a.code (e + j), 0)
  | .clr => (127, (List.range 16).map fun _ => 0, 0)
  | _ =>
    let vs := (List.range 16).map fun j => op.value i (e + j)
    let (s, cs, fl) := blockEncode i.tagR (op.mode i) i.fz (vs.map Prod.fst)
    (s, cs, if op.silent then 0 else vs.foldl (fun acc v => acc ||| v.2) fl)

/-- Elements lo to hi - 1: codes with marks, scale bytes with marks, and flags. The 16 elements of a block all produce each of its
lane words. -/
def LaneOp.run (op : LaneOp) (i : LaneIn) (lo hi : Nat) : List (Nat × Option Nat) × List (Nat × Option Nat) × FpFlags :=
  if tagBk i.tagR then
    (List.range ((hi - lo + 15) / 16)).foldr (fun k acc =>
      let e := lo + 16 * k
      let (s, cs, fl) := op.block i e
      match op with
      | .copy =>
        ((cs.zipIdx e).map (fun (c, j) => (c, i.a.codeMark j)) ++ acc.1, (s, i.a.scaleMark e) :: acc.2.1, acc.2.2 ||| fl)
      | _ =>
        let m := firstMark (op.sources i) ((List.range 16).map fun j => e + j)
        (cs.map (fun c => (c, m)) ++ acc.1, (s, m) :: acc.2.1, acc.2.2 ||| fl)) ([], [], 0)
  else
    (List.range (hi - lo)).foldr (fun k acc =>
      let e := lo + k
      let (c, fl) := op.element i e
      ((c, firstMark (op.sources i) (wordMates i.tagR lo hi e)) :: acc.1, [], acc.2.2 ||| fl)) ([], [], 0)

/-- Elements in one element group, by the widest format (R165). -/
def groupElems (t : TagBits) : Nat :=
  match t.toNat with
  | 7 => 320 | 15 => 512
  | _ => 2048 / tagBits t

/-! Reductions (R192, R204). -/

/-- The selectors of VRED and GRED (R77). -/
inductive RedOp where
  | sum | min (k : Sign) | max (k : Sign) | and | or | xor
  deriving DecidableEq, Repr

def RedOp.of (s : BitVec 7) : RedOp :=
  match s.toNat with
  | 0 => .sum | 1 => .min .f | 2 => .max .f | 3 => .min .x | 4 => .max .x | 5 => .min .n | 6 => .max .n
  | 7 => .and | 8 => .or | _ => .xor

/-- The selector and source tag are listed in R192. -/
def RedOp.accepts (r : RedOp) (t : TagBits) : Bool :=
  match r with
  | .sum => tagF t || tagI t
  | .min .f | .max .f => tagF t
  | _ => tagI t

/-- The tag of the result (R192). -/
def RedOp.tagR (r : RedOp) (t : TagBits) : TagBits :=
  match r with
  | .sum => if tagF t then 1 else t
  | _ => t

/-- The leaf of the tree: the decoded element, FZ applied to it as to every input (R60, R64). -/
def RedOp.leaf (t : TagBits) (fz : Bool) (code : Nat) : FVal × Nat × FpFlags :=
  if tagF t then (tagValue t fz code, code, 0) else (.zero false, code, 0)

/-- One step of a reduction on values (float) and codes (integer). -/
def RedOp.step (r : RedOp) (t : TagBits) (fz : Bool) (x y : FVal × Nat × FpFlags) : FVal × Nat × FpFlags :=
  let fl := x.2.2 ||| y.2.2
  if tagF t then
    match r with
    | .sum =>
      let (v, f1) := addVal .rne (flushIn .f32 fz x.1) (flushIn .f32 fz y.1)
      let (w, f2) := roundFmt .f32 .rne fz v
      (w, 0, fl ||| f1 ||| f2)
    | .max _ => let (v, f1) := minMaxVal true x.1 y.1; (v, 0, fl ||| f1)
    | _ => let (v, f1) := minMaxVal false x.1 y.1; (v, 0, fl ||| f1)
  else
    let w := tagBits t
    let a := x.2.1
    let b := y.2.1
    let pick := fun k (mx : Bool) => if intOf k t a ≤ intOf k t b then (if mx then b else a) else (if mx then a else b)
    (.zero false, (match r with
      | .sum => (a + b) % 2 ^ w
      | .min k => pick k false
      | .max k => pick k true
      | .and => a &&& b
      | .or => a ||| b
      | .xor => a ^^^ b), fl)

/-- The reduction of a list of codes: the result's code and flags. A single element has no step: it is the result, decoded to FP32
for a float .sum, and a NaN is canonical as after a step (R63, LOG 16). -/
def RedOp.reduce (r : RedOp) (t : TagBits) (fz : Bool) (codes : List Nat) : Nat × FpFlags :=
  let (v, c, fl) := treeRoot (.zero false, 0, 0) (r.step t fz) (codes.map (RedOp.leaf t fz))
  if tagF t then ((tagRound (r.tagR t) .rne false v).1, fl ||| (if codes.length = 1 then (quiet v).2 else 0)) else (c, fl)

/-- The relations of VCMP (R179). -/
inductive CmpOp where
  | eq | ne | lt | le | un
  deriving DecidableEq, Repr

/-- rel of one element, and its flags; a marked element is unordered (R180). -/
def CmpOp.test (r : CmpOp) (k : Sign) (fz : Bool) (a b : Vec) (e : Nat) : Bool × FpFlags :=
  if (a.mark e).isSome || (b.mark e).isSome then (decide (r = .ne ∨ r = .un), 0)
  else if tagI a.tag then
    let x := intOf k a.tag (a.code e)
    let y := intOf k b.tag (b.code e)
    (match r with
      | .eq => decide (x = y)
      | .ne => decide (x ≠ y)
      | .lt => decide (x < y)
      | .le => decide (x ≤ y)
      | .un => false, 0)
  else
    let (rel, fl) := cmpVal (a.value fz e) (b.value fz e)
    (match r with
      | .eq => decide (rel = .eq)
      | .ne => decide (rel ≠ .eq)
      | .lt => decide (rel = .lt)
      | .le => decide (rel = .lt ∨ rel = .eq)
      | .un => decide (rel = .un), fl)

end Sys2Proof.Machine
end

