-- ==== Sys2Proof/Machine/Flags.lean ====
section
/-! DEFINITION. Scalar floating point (R103 to R107): results with their FPSR flags, and the conditions of branches (R108). -/

namespace Sys2Proof.Machine

/-- The operand of a scalar code: its exact value, FZ applied (R60). -/
def scalarIn (f : Fmt) (fz : Bool) (v : Word) : FVal := flushIn f fz (f.value (v.toNat % 2 ^ f.width))

/-- The two-operand scalar codes of majors 0x06 and 0x07 (R104). -/
inductive ScalarFp where
  | add | sub | mul | div | min | max | cmp | fma
  deriving DecidableEq, Repr

/-- The mask of FCMP (R105). -/
def relMask : Rel → Nat
  | .lt => 1 | .eq => 2 | .gt => 4 | .un => 8

/-- The result and flags of a scalar code on a, b and the old D (R104). -/
def ScalarFp.eval (op : ScalarFp) (f : Fmt) (mode : RMode) (fz : Bool) (a b d : Word) : Word × FpFlags :=
  let x := scalarIn f fz a
  let y := scalarIn f fz b
  let c := scalarIn f fz d
  let fin := fun (r : FVal × FpFlags) =>
    let (code, fl) := roundCode f mode fz r.1
    (BitVec.ofNat 64 code, r.2 ||| fl)
  match op with
  | .add => fin (addVal mode x y)
  | .sub => fin (addVal mode x y.negate)
  | .mul => fin (mulVal x y)
  | .div => fin (divVal x y)
  | .min => let r := minMaxVal false x y; (BitVec.ofNat 64 (f.code r.1), r.2)
  | .max => let r := minMaxVal true x y; (BitVec.ofNat 64 (f.code r.1), r.2)
  | .cmp => let r := cmpVal x y; (BitVec.ofNat 64 (relMask r.1), r.2)
  | .fma => fin (fmaVal mode x y c)

/-- FSQRT, FRSQE and FRCPE (R106); the seeds have rounded already. -/
def sqrtScalar (f : Fmt) (mode : RMode) (fz : Bool) (a : Word) : Word × FpFlags :=
  let (v, fl) := sqrtVal (scalarIn f fz a)
  let (code, fl') := roundCode f mode fz v
  (BitVec.ofNat 64 code, fl ||| fl')
def rsqeScalar (f : Fmt) (fz : Bool) (a : Word) : Word × FpFlags :=
  let (v, fl) := rsqeVal f fz (f.value (a.toNat % 2 ^ f.width))
  (BitVec.ofNat 64 (f.code v), fl)
def rcpeScalar (f : Fmt) (fz : Bool) (a : Word) : Word × FpFlags :=
  let (v, fl) := rcpeVal f fz (f.value (a.toNat % 2 ^ f.width))
  (BitVec.ofNat 64 (f.code v), fl)

/-- FCLASS ignores FZ and sets no flag (R106, R107). -/
def classScalar (f : Fmt) (a : Word) : Word :=
  BitVec.ofNat 64 (classMask f (f.value (a.toNat % 2 ^ f.width)))

/-- FCVT by its selector (R106, R62). -/
def convertScalar (sel : Nat) (mode : RMode) (fz : Bool) (a : Word) : Word × FpFlags :=
  let toF := fun (f : Fmt) (v : FVal) (fl : FpFlags) =>
    let (code, fl') := roundCode f mode fz v
    (BitVec.ofNat 64 code, fl ||| fl')
  let fromF := fun (g f : Fmt) =>
    let x := scalarIn g fz a
    toF f x (flagIf x.isSig flagNV)
  let toI := fun (g : Fmt) (signed : Bool) =>
    let x := scalarIn g fz a
    let (v, fl) := toInt 64 signed mode x
    (BitVec.ofInt 64 v, fl)
  match sel with
  | 0 => fromF .f64 .f32
  | 1 => fromF .f32 .f64
  | 2 => toF .f32 (FVal.ofInt a.toInt) 0
  | 3 => toF .f32 (FVal.ofInt a.toNat) 0
  | 4 => toF .f64 (FVal.ofInt a.toInt) 0
  | 5 => toF .f64 (FVal.ofInt a.toNat) 0
  | 6 => toI .f32 true
  | 7 => toI .f32 false
  | 8 => toI .f64 true
  | _ => toI .f64 false

/-- The conditions of major 0x32 (R108). -/
inductive Cond where
  | eqz | nez | ltz | gez | gtz | lez
  deriving DecidableEq, Repr

def Cond.holds (c : Cond) (a : Word) : Bool :=
  match c with
  | .eqz => decide (a.toInt = 0)
  | .nez => decide (a.toInt ≠ 0)
  | .ltz => decide (a.toInt < 0)
  | .gez => decide (0 ≤ a.toInt)
  | .gtz => decide (0 < a.toInt)
  | .lez => decide (a.toInt ≤ 0)

end Sys2Proof.Machine
end

