-- ==== Sys2Proof/Machine/VecCore.lean ====
section
/-! DEFINITION. Issue checks of bank-class instructions (R44, R408) and the run of an elementwise instruction in one bank
(R58, R160 to R168). -/

namespace Sys2Proof.Machine

/-- The place of a failure in the order of R44: 0x0C of an address outside the 56-bit space comes before 0x08. -/
def failRank (f : Nat × Word) : Nat :=
  let k := if f.1 = 0x0C ∧ 2 ^ 56 ≤ f.2.toNat then 0x10C else f.1
  ([0x21, 0x01, 0x02, 0x05, 0x06, 0x04, 0x03, 0x12, 0x0F, 0x10C, 0x08, 0x09, 0x0C, 0x0A, 0x0B, 0x0E, 0x0D, 0x14].findIdx? (· = k)).getD 99

/-- The failure a bank reports: the first cause under R44, and the first failure of that cause (R408). -/
def worstFailure : List (Nat × Word) → Option (Nat × Word)
  | [] => none
  | f :: fs => match worstFailure fs with
    | none => some f
    | some g => if failRank g < failRank f then some g else some f

/-- Every bank is checked before any effect; the lowest failing bank decides (R408). -/
def checkBanks (check : Nat → List (Nat × Word)) : List Nat → Except Stop Unit
  | [] => .ok ()
  | j :: js => match worstFailure (check j) with
    | some (c, v) => .error (.trap c v (some j))
    | none => checkBanks check js

def failIf (b : Bool) (c : Nat) (v : Word) : List (Nat × Word) := if b then [(c, v)] else []

def nameWord (n : Nat) : Word := BitVec.ofNat 64 n

/-- The v name is OPEN (R132): the failures of a register that is not. -/
def Bank.rowState (b : Bank) (n : Nat) : List (Nat × Word) :=
  match (b.row n).st with
  | .opened => []
  | .closed => [(0x02, nameWord n)]
  | .revoked => [(0x0B, (b.row n).pin.setWidth 64)]

/-- The keep name is bound, or may be read unbound (R19). -/
def Bank.keepRead (b : Bank) (lt : Bool) (n : Nat) : List (Nat × Word) :=
  failIf (lt && (b.bound (n - 8)).isNone) 0x04 (nameWord n)

/-- The keep name is bound, or may be bound (R20). -/
def Context.keepWrite (c : Context) (b : Bank) (n : Nat) : List (Nat × Word) :=
  failIf ((b.bound (n - 8)).isNone && decide (c.keep ≤ n - 8)) 0x02 (nameWord n)

/-- The group overruns the configuration (R160): TVAL is its base name. -/
def Context.overrun (c : Context) (n : Nat) (t : TagBits) (count : Nat) : List (Nat × Word) :=
  failIf (!c.groupFits n t count) 0x02 (nameWord n)

/-- The failures of a source group of count elements whose base carries tag t (R19, R58, R132, R160). -/
def Context.sourceFails (c : Context) (b : Bank) (n : Nat) (t : TagBits) (count : Nat) : List (Nat × Word) :=
  c.overrun n t count ++
    (List.range (c.groupSize n t count)).flatMap fun i =>
      if n < 8 then (if n + i < c.nNames then b.rowState (n + i) else [])
      else if n + i < 16 then b.keepRead c.lt (n + i) else []

/-- The lowest name of a group whose tag differs from the base's (R58). -/
def Context.groupTags (c : Context) (b : Bank) (now n : Nat) (t : TagBits) (count : Nat) : List (Nat × Word) :=
  (List.range (c.groupSize n t count)).flatMap fun i => failIf (decide (b.tagOf now (n + i) ≠ t)) 0x03 (nameWord (n + i))

/-- The failures of a destination group, the lowest name first (R20, R132, R160, R408): an overrun and an overlap that R163 does not
allow name its base, a register that cannot be written its own. -/
def Context.destFails (c : Context) (b : Bank) (n : Nat) (t : TagBits) (count : Nat) (overlap : Bool := false) : List (Nat × Word) :=
  c.overrun n t count ++ failIf overlap 0x02 (nameWord n) ++
    (List.range (c.groupSize n t count)).flatMap fun i =>
      if n < 8 then (if n + i < c.nNames then b.rowState (n + i) else [])
      else if n + i < 16 then c.keepWrite b (n + i) else []

/-- A register name: v or k. -/
def isReg (n : NameF) : Bool := decide (n.toNat < 16)
def isScalar (n : NameF) : Bool := decide (32 ≤ n.toNat)

/-- Two groups share a name. -/
def groupsMeet (d md a ma : Nat) : Bool := decide (d < a + ma ∧ a < d + md)

/-- The failures of reading every bound keep name of a group that the instruction also writes (R19). -/
def Context.keepReads (c : Context) (b : Bank) (n : Nat) (t : TagBits) (count : Nat) : List (Nat × Word) :=
  if 8 ≤ n then (List.range (c.groupSize n t count)).flatMap fun i => if n + i < 16 then b.keepRead c.lt (n + i) else []
  else []

/-- The names of a source group whose tag the code does not accept, the base name among them always (R58, R160). -/
def Context.groupAccept (c : Context) (b : Bank) (now n : Nat) (t : TagBits) (count : Nat) (ok : TagBits → Bool) : List (Nat × Word) :=
  (List.range (max 1 (c.groupSize n t count))).flatMap fun i =>
    failIf (!ok (if i = 0 then t else b.tagOf now (n + i))) 0x03 (nameWord (n + i))

/-- The names of a group that are of its base name's class. -/
def ownClass (n m : Nat) : Nat := if n < 8 then min m (8 - n) else m

/-- An overlap of the destination group with a source group that R163 does not allow. -/
def Context.badOverlap (c : Context) (d : Nat) (td : TagBits) (nd : Nat) (a : Nat) (ta : TagBits) (na : Nat) : Bool :=
  groupsMeet d (ownClass d (c.groupSize d td nd)) a (ownClass a (c.groupSize a ta na)) && !(decide (d = a) && decide (tagBits td = tagBits ta))

/-- An elementwise instruction (R171). -/
structure LaneForm where
  op : LaneOp
  d : NameF
  a : NameF
  b : Option NameF
  lastA : Bool
  lastB : Bool
  deriving DecidableEq, Repr

/-- A is only a template: its tag is read (R186). -/
def LaneOp.template : LaneOp → Bool
  | .iota | .bcast | .clr => true
  | _ => false

/-- D is read as well as written (R173, R176). -/
def LaneOp.readsD : LaneOp → Bool
  | .fma | .fms | .fnma | .sel => true
  | _ => false

/-- The tags an operation accepts for its elements (R172 to R187). -/
def LaneOp.accepts (op : LaneOp) (t : TagBits) : Bool :=
  match op with
  | .min .f | .max .f | .scl => tagF t || tagBk t
  | .min _ | .max _ | .shl | .shr | .sar => tagI t
  | .and | .or | .xor | .andn | .sel => tagRaw t || tagF t || tagI t
  | .mulw .f => decide (1 ≤ t.toNat ∧ t.toNat ≤ 3)
  | .mulw _ => tagI t
  | .rsqe | .rcpe | .exp2e => decide (t.toNat = 1)
  | .clr | .copy => true
  | .cvt .f _ _ => tagF t || tagBk t
  | .cvt _ _ tt => if tagI tt then tagF t || tagBk t || tagI t else tagI t
  | _ => tagF t || tagBk t || tagI t

/-- The tags B accepts beside A (R178). -/
def LaneOp.acceptsB (op : LaneOp) (t : TagBits) : Bool :=
  match op with
  | .mulw .f => decide (2 ≤ t.toNat ∧ t.toNat ≤ 7)
  | .mulw _ => decide (8 ≤ t.toNat ∧ t.toNat ≤ 10)
  | _ => op.accepts t

/-- The result tag of VMULW, none for a pair R178 does not list; B none stands for a scalar. -/
def mulwTag (k : Sign) (ta : TagBits) (tb : Option TagBits) : Option TagBits :=
  match k, tb with
  | .f, none => some 1
  | .f, some t => if tagBits t ≤ tagBits ta then some 1 else none
  | _, none => if ta = 11 then some 11 else some (ta + 1)
  | _, some t => if ta = t then some (t + 1) else if ta = t + 1 then some ta else none

/-- The tag of a vector operand in one bank, z and scalars resolved (R161). -/
structure LaneTags where
  a : TagBits
  b : Option TagBits
  d : TagBits
  r : Option TagBits

/-- The current tag of the destination, RAW where there is none (R161). -/
def Bank.destTag (b : Bank) (now : Nat) (d : NameF) : TagBits :=
  if isReg d && (decide (d.toNat < 8) || (b.bound (d.toNat - 8)).isSome) then b.tagOf now d.toNat else 0

/-- The tags an elementwise instruction reads in a bank, and its result tag. A z in B of VMULW.x and VMULW.n supplies an element as a
scalar B does, of the width that goes with A's (R178 gives z none: DEDUCED, LOG 28). -/
def LaneForm.tags (f : LaneForm) (b : Bank) (now : Nat) : LaneTags :=
  let dt := if f.op.readsD && isReg f.d then b.tagOf now f.d.toNat else b.destTag now f.d
  let vb : Option TagBits := match f.b with
    | some n => if isReg n then some (b.tagOf now n.toNat) else none
    | none => none
  let ta := if isReg f.a then b.tagOf now f.a.toNat
    else match f.op, vb with
      | .mulw .f, some t => if t = 2 ∨ t = 3 then t else 1
      | _, some t => t
      | _, none => dt
  let tb : Option TagBits := match f.b with
    | some n => if isReg n then vb else none
    | none => none
  let tr := match f.op with
    | .mulw k => mulwTag k ta tb
    | .cvt _ _ tt => some tt
    | _ => some ta
  ⟨ta, tb, dt, tr⟩

/-- Elements the instruction produces: VL, or whole blocks (R162). -/
def LaneForm.count (t : LaneTags) (vl : Nat) : Nat :=
  if tagBk t.a || tagBk (t.r.getD 0) then roundBlocks vl else vl

/-- The tag that gives the destination its width: a product takes it from B, or from A beside a scalar (R178, LOG 28); none where
no accepted tag gives it one. -/
def LaneForm.width (f : LaneForm) (t : LaneTags) : Option TagBits :=
  match f.op with
  | .mulw .f => some 1
  | .mulw _ => match t.b with
    | some x => if f.op.acceptsB x then some (x + 1) else none
    | none => if tagI t.a then t.r else none
  | _ => t.r

/-- The failures of an elementwise instruction in one bank, in the field order D, A, B (R58, R160, R163, R408). R58 orders B and D
among the unequal tags; a name of A's own group whose tag is not A's comes after them, which R58 does not say (DEDUCED, LOG 28). A z
beside another vector source takes that source's tag and fails no check (R161). A template's own name inside D's group at another base is an overlap
(R163 does not say: DEDUCED, LOG 40). -/
def LaneForm.fails (f : LaneForm) (c : Context) (now : Nat) (b : Bank) : List (Nat × Word) :=
  let t := f.tags b now
  let n := LaneForm.count t c.vl
  let d := f.d.toNat
  let a := f.a.toNat
  let bn := (f.b.getD 24).toNat
  let na := if f.op.template then 1 else n
  let tb := t.b.getD 0
  let sized := (f.width t).isSome
  let tr := (f.width t).getD t.a
  let regB := match f.b with
    | some m => isReg m
    | none => false
  let regD := f.op.readsD && isReg f.d
  let dest :=
    if isReg f.d then
      c.destFails b d tr (if sized then n else 1)
          (sized && ((isReg f.a && c.badOverlap d tr n a t.a na) || (regB && c.badOverlap d tr n bn tb n))) ++
        if f.op.readsD then c.keepReads b d tr (if sized then n else 1) else []
    else []
  let srcA := if isReg f.a then c.sourceFails b a t.a na else []
  let srcB := if regB then c.sourceFails b bn tb n else []
  let accD := if regD then c.groupAccept b now d t.d n f.op.accepts else []
  let accA :=
    if isReg f.a then c.groupAccept b now a t.a na f.op.accepts
    else failIf (!(regB || regD) && !f.op.accepts t.a) 0x03 (nameWord a)
  let accB := if regB then c.groupAccept b now bn tb n f.op.acceptsB else []
  let eqB := match f.op with
    | .mulw _ => failIf (decide (t.r = none)) 0x03 (nameWord a)
    | _ => failIf (regB && decide (t.b ≠ some t.a)) 0x03 (nameWord bn)
  let grpB := if regB then c.groupTags b now bn tb n else []
  let eqD := failIf (regD && decide (t.d ≠ t.a)) 0x03 (nameWord d)
  let grpD := if regD then c.groupTags b now d t.a n else []
  let grpA := if isReg f.a && !f.op.template then c.groupTags b now a t.a n else []
  dest ++ srcA ++ srcB ++ accD ++ accA ++ accB ++ eqB ++ grpB ++ eqD ++ grpD ++ grpA

/-- An operand of an elementwise instruction as its values (R161). -/
def Context.operand (c : Context) (b : Bank) (now : Nat) (n : NameF) (t : TagBits) (count : Nat) (sval : Word) (fz : Bool) : Vec :=
  if isReg n then c.regVec b now n.toNat t count
  else if isScalar n then scalarVec fz t sval
  else if tagBk t then .splatVal t (.zero false)
  else .splat t 0

/-- The format a scalar B is read in (R161, R178). -/
def LaneOp.scalarTag (op : LaneOp) (ta : TagBits) : TagBits :=
  match op with
  | .mulw .f => if ta = 1 then 2 else ta
  | .mulw _ => if ta = 11 then 10 else ta
  | _ => ta

/-- VSCL's n (R183). -/
def scaleAmount (v : Word) : Int := max (-1024) (min 1023 v.toInt)

/-- The inputs of an elementwise instruction in one bank. -/
def LaneForm.inputs (f : LaneForm) (c : Context) (now : Nat) (b : Bank) (ta tb td tr : TagBits) (n : Nat) (rm : BitVec 2)
    (fz : Bool) (sval : Word) : LaneIn :=
  let bn := f.b.getD 24
  let a := if f.op.template then .splat ta 0 else c.operand b now f.a ta n sval fz
  let bt := if isReg bn then tb else f.op.scalarTag ta
  { a := a
    b := c.operand b now bn bt n sval fz
    d := if f.op.readsD then c.operand b now f.d (if isReg f.d then td else ta) n sval fz else .splat td 0
    tagR := tr
    mode := RMode.ofBits rm.toNat
    fz := fz
    shift := scaleAmount (if isScalar bn then sval else 0) }

/-- Release the keep row a last-use field names (R19, R72). -/
def Bank.lastUse (b : Bank) (last : Bool) (n : NameF) : Bank :=
  if last && decide (nameClass n = .k) then b.release (n.toNat - 8) else b

/-- Bind the unbound keep names of a destination group (R18). -/
def Context.bindGroup (c : Context) (b : Bank) (now n : Nat) (t : TagBits) (count : Nat) : Bank :=
  if 8 ≤ n then (List.range (c.groupSize n t count)).foldl (fun b i => b.bind (n - 8 + i) now) b else b

/-- Run a per-bank function over banks, ORing flags. -/
def Context.overBanks (c : Context) (run : Nat → Bank → Bank × FpFlags) : List Nat → Context
  | [] => c
  | j :: js =>
    let (b, fl) := run j (c.bank j)
    ((c.setBank j b).orFlags fl).overBanks run js

end Sys2Proof.Machine
end

