-- ==== Sys2Proof/Machine/Moves.lean ====
section
/-! DEFINITION. The vector instructions that take a slot (R164): their issue-time inputs (R168), and what each writes for a range of
its elements in one bank (R171 to R192, R200 to R204). -/

namespace Sys2Proof.Machine

/-- The codes that copy a member's vector (R201 to R203). -/
inductive GangMove where
  | shuf | shufx | gbcast
  deriving DecidableEq, Repr

/-- The position that position i of n receives from, for B's value; none gives zero codes (R201 to R203). -/
def GangMove.source (k : GangMove) (x : Word) (n i : Nat) : Option Nat :=
  match k with
  | .shuf => some ((i + x.toNat % n) % n)
  | .shufx => let q := x.toNat / 2 ^ (4 * i) % 16; if q < n then some q else none
  | .gbcast => some (x.toNat % n)

/-- A vector instruction that takes a slot (R164). VEXT has left its slot at its issue: it waits for its sources and writes one
scalar (R189). -/
inductive SlotForm where
  | lane (f : LaneForm)
  | cmp (r : CmpOp) (k : Sign) (f : LaneForm) (p : NameF)
  | merge (la : Bool) (d a p : NameF)
  | ins (d a b : NameF)
  | slide (up la : Bool) (d a b : NameF)
  | perm (la lb : Bool) (d a b : NameF)
  | red (r : RedOp) (la : Bool) (d a : NameF)
  | move (k : GangMove) (la : Bool) (d a b : NameF)
  | gred (r : RedOp) (la : Bool) (d a : NameF)
  deriving DecidableEq, Repr

/-- The elementwise instruction a word of the vector codes is (R171), none for every other instruction. -/
def laneForm : Instr → Option LaneForm
  | .vadd la lb d a b => some ⟨.add, d, a, some b, la, lb⟩
  | .vsub la lb d a b => some ⟨.sub, d, a, some b, la, lb⟩
  | .vmul la lb d a b => some ⟨.mul, d, a, some b, la, lb⟩
  | .vfma la lb d a b => some ⟨.fma, d, a, some b, la, lb⟩
  | .vfms la lb d a b => some ⟨.fms, d, a, some b, la, lb⟩
  | .vfnma la lb d a b => some ⟨.fnma, d, a, some b, la, lb⟩
  | .vabs la d a => some ⟨.abs, d, a, none, la, false⟩
  | .vneg la d a => some ⟨.neg, d, a, none, la, false⟩
  | .vand la lb d a b => some ⟨.and, d, a, some b, la, lb⟩
  | .vor la lb d a b => some ⟨.or, d, a, some b, la, lb⟩
  | .vxor la lb d a b => some ⟨.xor, d, a, some b, la, lb⟩
  | .vandn la lb d a b => some ⟨.andn, d, a, some b, la, lb⟩
  | .vshl la lb d a b => some ⟨.shl, d, a, some b, la, lb⟩
  | .vshr la lb d a b => some ⟨.shr, d, a, some b, la, lb⟩
  | .vsar la lb d a b => some ⟨.sar, d, a, some b, la, lb⟩
  | .vsel la lb d a b => some ⟨.sel, d, a, some b, la, lb⟩
  | .vmin la lb d a b => some ⟨.min .f, d, a, some b, la, lb⟩
  | .vminX la lb d a b => some ⟨.min .x, d, a, some b, la, lb⟩
  | .vminN la lb d a b => some ⟨.min .n, d, a, some b, la, lb⟩
  | .vmax la lb d a b => some ⟨.max .f, d, a, some b, la, lb⟩
  | .vmaxX la lb d a b => some ⟨.max .x, d, a, some b, la, lb⟩
  | .vmaxN la lb d a b => some ⟨.max .n, d, a, some b, la, lb⟩
  | .vmulw la lb d a b => some ⟨.mulw .f, d, a, some b, la, lb⟩
  | .vmulwX la lb d a b => some ⟨.mulw .x, d, a, some b, la, lb⟩
  | .vmulwN la lb d a b => some ⟨.mulw .n, d, a, some b, la, lb⟩
  | .vrsqe la d a => some ⟨.rsqe, d, a, none, la, false⟩
  | .vrcpe la d a => some ⟨.rcpe, d, a, none, la, false⟩
  | .vexp2e la d a => some ⟨.exp2e, d, a, none, la, false⟩
  | .viota la d a => some ⟨.iota, d, a, none, la, false⟩
  | .vclr la d a => some ⟨.clr, d, a, none, la, false⟩
  | .vcopy la d a => some ⟨.copy, d, a, none, la, false⟩
  | .vbcast la d a b => some ⟨.bcast, d, a, some b, la, false⟩
  | .vscl la d a b => some ⟨.scl, d, a, some b, la, false⟩
  | .vcvt la d a r t => some ⟨.cvt .f r t, d, a, none, la, false⟩
  | .vcvtX la d a r t => some ⟨.cvt .x r t, d, a, none, la, false⟩
  | .vcvtN la d a r t => some ⟨.cvt .n r t, d, a, none, la, false⟩
  | _ => none

/-- The checks of a compare are those of an elementwise instruction with the same tags (R179). -/
def cmpForm (r : CmpOp) (k : Sign) (la lb : Bool) (a b : NameF) : LaneForm :=
  let op : LaneOp := match r, k with
    | .eq, _ => .sub
    | .ne, _ => .sub
    | _, .f => .min .f
    | _, _ => .min .x
  ⟨op, 24, a, some b, la, lb⟩

/-- What a word of the codes that take a slot does (R164); none for every other instruction. -/
def slotForm (i : Instr) : Option SlotForm :=
  let cmp := fun (r : CmpOp) (k : Sign) (la lb : Bool) (d a b : NameF) => some (SlotForm.cmp r k (cmpForm r k la lb a b) d)
  match laneForm i with
  | some f => some (.lane f)
  | none => match i with
    | .vcmpEq la lb d a b => cmp .eq .f la lb d a b
    | .vcmpNe la lb d a b => cmp .ne .f la lb d a b
    | .vcmpLt la lb d a b => cmp .lt .f la lb d a b
    | .vcmpLe la lb d a b => cmp .le .f la lb d a b
    | .vcmpUn la lb d a b => cmp .un .f la lb d a b
    | .vcmpLtX la lb d a b => cmp .lt .x la lb d a b
    | .vcmpLeX la lb d a b => cmp .le .x la lb d a b
    | .vcmpLtN la lb d a b => cmp .lt .n la lb d a b
    | .vcmpLeN la lb d a b => cmp .le .n la lb d a b
    | .vmerge la d a p => some (.merge la d a p)
    | .vins d a b => some (.ins d a b)
    | .vslideUp la d a b => some (.slide true la d a b)
    | .vslideDn la d a b => some (.slide false la d a b)
    | .vperm la lb d a b => some (.perm la lb d a b)
    | .vred la d a x => if x.toNat ≤ 9 then some (.red (RedOp.of x) la d a) else none
    | .shuf la d a b => some (.move .shuf la d a b)
    | .shufx la d a b => some (.move .shufx la d a b)
    | .gbcast la d a b => some (.move .gbcast la d a b)
    | .gred la d a x => if x.toNat ≤ 9 then some (.gred (RedOp.of x) la d a) else none
    | _ => none

/-! Operands. -/

/-- D; z for a code whose D is no vector. -/
def SlotForm.dest : SlotForm → NameF
  | .lane f => f.d
  | .cmp _ _ _ _ => 24
  | .merge _ d _ _ | .ins d _ _ | .slide _ _ d _ _ | .perm _ _ d _ _ | .red _ _ d _ | .move _ _ d _ _ | .gred _ _ d _ => d

/-- The vector operands A and B; z where there is none. -/
def SlotForm.vectors : SlotForm → NameF × NameF
  | .lane f | .cmp _ _ f _ => (f.a, f.b.getD 24)
  | .merge _ _ a _ | .slide _ _ _ a _ | .red _ _ _ a | .move _ _ _ a _ | .gred _ _ _ a => (a, 24)
  | .perm _ _ _ a b => (a, b)
  | .ins _ _ _ => (24, 24)

/-- The scalar operands. -/
def SlotForm.scalars : SlotForm → NameF × NameF
  | .lane f | .cmp _ _ f _ => (f.b.getD 24, 24)
  | .ins _ a b => (a, b)
  | .slide _ _ _ _ b | .move _ _ _ _ b => (b, 24)
  | _ => (24, 24)

/-- The last-use bits with their names (R19). -/
def SlotForm.lasts : SlotForm → List (Bool × NameF)
  | .lane f | .cmp _ _ f _ => [(f.lastA, f.a), (f.lastB, f.b.getD 24)]
  | .merge la _ a _ | .slide _ la _ a _ | .red _ la _ a | .move _ la _ a _ | .gred _ la _ a => [(la, a)]
  | .perm la lb _ a b => [(la, a), (lb, b)]
  | .ins _ _ _ => []

/-- SHUF, SHUFX, GBCAST and GRED run in every bank of the gang together (R198). -/
def SlotForm.cross : SlotForm → Bool
  | .move _ _ _ _ _ | .gred _ _ _ _ => true
  | _ => false

/-- A whole-source instruction: it reads every source element before it writes, and a stop lets it run to completion once it has
begun writing (R163, R166, R168). -/
def SlotForm.whole : SlotForm → Bool
  | .slide _ _ _ _ _ | .perm _ _ _ _ _ | .red _ _ _ _ => true
  | _ => false

/-- The instruction issues only when what was issued before it is complete in its banks: its check or its single write reads what
earlier ones leave (R181, R188). -/
def SlotForm.waits : SlotForm → Bool
  | .merge _ _ _ _ | .ins _ _ _ => true
  | _ => false

/-- The gang of a bank: the running sub-gang, or its sibling (R209). -/
def Context.gangOf (c : Context) (j : Nat) : BitVec 16 :=
  if c.gmBanks.getLsbD j then c.gmBanks else match c.sib with
    | some b => b.banks
    | none => c.gmBanks

/-- The tag of a source that may be z: the destination's, or RAW (R161). -/
def Bank.tagOrDest (b : Bank) (now : Nat) (a d : NameF) : TagBits :=
  if isReg a then b.tagOf now a.toNat else b.destTag now d

/-- The tag of a source that may be z beside another vector source: that source's (R161). -/
def Bank.tagBeside (b : Bank) (now : Nat) (a x : NameF) : TagBits := b.tagOf now (if isReg a then a else x).toNat

/-- The tags of A, B and the result in a bank; a cross-bank code takes A's from the first member, low (R161, R200). -/
def SlotForm.tags (f : SlotForm) (now : Nat) (low b : Bank) : TagBits × TagBits × TagBits :=
  let one := fun (t : TagBits) => (t, (0 : TagBits), t)
  match f with
  | .lane g => let t := g.tags b now; (t.a, t.b.getD 0, t.r.getD t.a)
  | .cmp _ _ g _ => let t := g.tags b now; (t.a, t.b.getD 0, t.a)
  | .merge _ d a _ | .slide _ _ d a _ => one (b.tagOrDest now a d)
  | .ins d _ _ => one (b.tagOf now d.toNat)
  | .perm _ _ _ a x => let t := b.tagBeside now a x; (t, b.tagOf now x.toNat, t)
  | .red r _ _ a => let t := b.tagOf now a.toNat; (t, 0, r.tagR t)
  | .move _ _ d a _ => one (if isReg a then low.tagOf now a.toNat else b.destTag now d)
  | .gred r _ _ a => let t := low.tagOf now a.toNat; (t, 0, r.tagR t)

/-- The instruction as it issues in bank j (R164, R168). -/
def SlotForm.issue (f : SlotForm) (i : Instr) (c : Context) (now j : Nat) : InFlight :=
  let t := f.tags now (c.bank (lowBank (c.gangOf j))) (c.bank j)
  { instr := i, pc := c.pc, gang := c.gangOf j, next := 0, nrow := c.nrow, ncol := c.ncol, rm := c.rm, fz := c.fz
    sval := c.read f.scalars.1, sval2 := c.read f.scalars.2, tagA := t.1, tagB := t.2.1, tagD := t.2.2 }

/-- The context with an instruction's issue-time shape and rounding in place. -/
def Context.under (c : Context) (q : InFlight) : Context := { c with nrow := q.nrow, ncol := q.ncol, rm := q.rm, fz := q.fz }

/-- VL of an instruction in flight (R159). -/
def InFlight.vl (q : InFlight) : Nat := q.nrow * q.ncol

/-- Elements that move: VL, or whole blocks (R162). -/
def gangCount (t : TagBits) (vl : Nat) : Nat := if tagBk t then roundBlocks vl else vl

/-- Elements the operand groups hold (R160, R162). -/
def InFlight.count (q : InFlight) : Nat := if tagBk q.tagA || tagBk q.tagD then roundBlocks q.vl else q.vl

/-- Elements an instruction produces, counted from 0 (R159, R162). -/
def SlotForm.total (f : SlotForm) (q : InFlight) : Nat :=
  match f with
  | .lane _ | .move _ _ _ _ _ => q.count
  | .red _ _ _ _ => q.nrow
  | .ins _ _ _ => if q.sval2.toNat < q.vl then q.sval2.toNat + 1 else 0
  | _ => q.vl

/-- Elements the lanes go through: VRED goes through its source (R165, R192). -/
def SlotForm.span (f : SlotForm) (q : InFlight) : Nat :=
  match f with
  | .red _ _ _ _ => q.vl
  | _ => f.total q

/-- Results that are complete once the lanes have gone through the elements below hi: VRED has one for each tile row. -/
def SlotForm.upTo (f : SlotForm) (q : InFlight) (hi : Nat) : Nat :=
  match f with
  | .red _ _ _ _ => if q.vl ≤ hi then q.nrow else hi / q.ncol
  | _ => hi

/-- The names of a register operand; none for z, s and p. -/
def Context.groupNames (c : Context) (n : Nat) (t : TagBits) (count : Nat) : List Nat :=
  (List.range (c.groupSize n t count)).map fun i => n + i
def Context.operandNames (c : Context) (n : NameF) (t : TagBits) (count : Nat) : List Nat :=
  if isReg n then c.groupNames n.toNat t count else []

/-- A last-use bit gives the row back, which is a write of the name. -/
def lastName (last : Bool) (n : NameF) : List Nat := if last && isReg n then [n.toNat] else []

/-- The names of the destination group. -/
def SlotForm.destNames (f : SlotForm) (c : Context) (q : InFlight) : List Nat := c.operandNames f.dest q.tagD (f.total q)

/-- The names an instruction reads and writes, predicates among them. A template is not read (R186). -/
def SlotForm.touches (f : SlotForm) (c : Context) (q : InFlight) : List Nat × List Nat :=
  let x := f.vectors
  let template := match f with
    | .lane g => g.op.template
    | _ => false
  let own := match f with
    | .lane g => if g.op.readsD then c.operandNames g.d q.tagD q.count else []
    | .ins _ _ _ | .merge _ _ _ _ => f.destNames c q
    | _ => []
  let preds := match f with
    | .cmp _ _ _ p => ([], [p.toNat])
    | .merge _ _ _ p => ([p.toNat], [])
    | _ => ([], [])
  ((if template then [] else c.operandNames x.1 q.tagA q.count) ++ c.operandNames x.2 q.tagB q.count ++ own ++ preds.1,
    f.destNames c q ++ f.lasts.flatMap (fun l => lastName l.1 l.2) ++ preds.2)

/-- One element group: one beat of the widest operand or destination (R165). VINS writes its element at once. -/
def SlotForm.unit (f : SlotForm) (q : InFlight) : Nat :=
  let beats := [q.tagA, q.tagD] ++ if isReg f.vectors.2 then [q.tagB] else []
  match f with
  | .ins _ _ _ => max 1 (f.total q)
  | _ => (beats.map groupElems).foldl min 512

/-- An in-place conversion between formats of one width whose names hold different numbers of elements (R46): its writes would reach
source elements it has still to read, and each result is of the old values (R163). -/
def SlotForm.shifts (f : SlotForm) (q : InFlight) : Bool :=
  match f with
  | .lane g => isReg g.a && decide (g.a = g.d) && decide (tagPerSeg q.tagA ≠ tagPerSeg q.tagD)
  | _ => false

/-- The instruction has its sources read before it writes the first group. -/
def SlotForm.holds (f : SlotForm) (q : InFlight) : Bool := f.whole || f.shifts q

/-! What the codes write. An element is a code with its mark. -/

/-- Write results from element 0 on into a destination, bound if it was not; nothing for z (R161). -/
def Context.putGroup (c : Context) (b : Bank) (now : Nat) (d : NameF) (t : TagBits) (rs ss : List (Nat × Option Nat)) : Bank :=
  if isReg d then
    (c.bindGroup b now d.toNat t rs.length).writeGroup d.toNat t (c.capacity d.toNat t) 0 rs.length rs ss
  else b

/-- An element moved from position e of a vector. -/
def Vec.moved (v : Vec) (e : Nat) : Nat × Option Nat := (v.code e, v.codeMark e)

/-- The element at a tile column moves from a column of the same row, or is a zero code (R190, R191). -/
def moveRow (v : Vec) (ncol r : Nat) (from_ : Option Nat) : Nat × Option Nat :=
  match from_ with
  | some x => v.moved (r * ncol + x)
  | none => (0, none)

/-- The source column of a column under VSLIDE by n (R190). -/
def slideFrom (up : Bool) (n ncol x : Nat) : Option Nat :=
  if up then (if n ≤ x then some (x - n) else none) else if x + n < ncol then some (x + n) else none

/-- Elements lo to hi - 1 of VSLIDE (R190). -/
def slideVals (up : Bool) (v : Vec) (ncol : Nat) (b : Word) (lo hi : Nat) : List (Nat × Option Nat) :=
  (List.range (hi - lo)).map fun k =>
    moveRow v ncol ((lo + k) / ncol) (slideFrom up (min b.toNat ncol) ncol ((lo + k) % ncol))

/-- The element of A that element e of VPERM gathers (R191). -/
def permFrom (w : Vec) (ncol e : Nat) : Option Nat := if w.code e < ncol then some (e / ncol * ncol + w.code e) else none

/-- Elements lo to hi - 1 of VPERM (R191): a lane word is marked by the words its elements came from, the lowest name first (R15), then
by its index words. -/
def permVals (v w : Vec) (t : TagBits) (ncol lo hi : Nat) : List (Nat × Option Nat) :=
  (List.range (hi - lo)).map fun k =>
    let es := wordMates t lo hi (lo + k)
    (((permFrom w ncol (lo + k)).map v.code).getD 0, (v.lowestMark (es.filterMap (permFrom w ncol))).or (es.findSome? w.codeMark))

/-- Rows lo to hi - 1 of VRED (R192), each with its flags. -/
def redVals (r : RedOp) (v : Vec) (t : TagBits) (fz : Bool) (ncol lo hi : Nat) : List ((Nat × Option Nat) × FpFlags) :=
  (List.range (hi - lo)).map fun y =>
    let es := (List.range ncol).map fun z => (lo + y) * ncol + z
    let q := r.reduce t fz (es.map v.code)
    ((q.1, es.findSome? v.codeMark), q.2)

/-- Elements lo to hi - 1 of a member's vector, or zero codes for none (R202), with the scale bytes of their blocks. -/
def movedVec (v : Option Vec) (t : TagBits) (lo hi : Nat) : List (Nat × Option Nat) × List (Nat × Option Nat) :=
  let blocks := if tagBk t then (hi - lo) / 16 else 0
  match v with
  | some v => ((List.range (hi - lo)).map fun k => v.moved (lo + k),
      (List.range blocks).map fun i => (v.scale (lo + 16 * i), v.scaleMark (lo + 16 * i)))
  | none => ((List.range (hi - lo)).map fun _ => (0, none), (List.range blocks).map fun _ => (127, none))

/-- Elements lo to hi - 1 of GRED over the members' vectors (R204), each with its flags. -/
def gredVals (r : RedOp) (vs : List Vec) (t : TagBits) (fz : Bool) (lo hi : Nat) : List ((Nat × Option Nat) × FpFlags) :=
  (List.range (hi - lo)).map fun k =>
    let q := r.reduce t fz (vs.map fun v => v.code (lo + k))
    ((q.1, vs.findSome? fun v => v.codeMark (lo + k)), q.2)

def orAll (fs : List FpFlags) : FpFlags := fs.foldl (· ||| ·) 0

/-- Bits lo to hi - 1 of a compare's predicate, from bit 0 up, and the flags (R179, R180). -/
def cmpBits (r : CmpOp) (k : Sign) (fz : Bool) (a b : Vec) (lo hi : Nat) : Nat × FpFlags :=
  (List.range (hi - lo)).foldr (fun i acc =>
    let x := r.test k fz a b (lo + i)
    (2 * acc.1 + boolNat x.1, acc.2 ||| x.2)) (0, 0)

/-- A lane word of D also holds an element below VL that VMERGE does not select (R181). -/
def mergeKeeps (t : TagBits) (p first vl w : Nat) : Bool :=
  let q := wordElems t w
  (List.range q.2).any fun x => decide (first + q.1 + x < vl) && !p.testBit (first + q.1 + x)

/-- VMERGE's elements lo to hi - 1, name by name (R181). -/
def mergeInto (c : Context) (v : Vec) (t : TagBits) (d p lo hi : Nat) (dst : Bank) : Bank :=
  let cap := c.capacity d t
  (List.range (c.groupSize d t c.vl)).foldl (fun k i =>
    let es := (List.range (min cap (hi - i * cap))).filter fun e => decide (lo ≤ i * cap + e) && p.testBit (i * cap + e)
    let cells := es.map fun e => (⟨elemBit t e, tagBits t, v.code (i * cap + e), none⟩ : Cell)
    let top := if t.toNat = 7 then es.flatMap fun e => fillCells t e 1 else []
    ((k.writePlain (d + i) top).write (d + i) (mergeKeeps t p (i * cap) c.vl) cells).setTag (d + i) t) dst

/-- VINS's element (R188): the lane word keeps its mark where it holds other elements. -/
def insInto (c : Context) (t : TagBits) (d i : Nat) (v : Word) (dst : Bank) : Bank :=
  let cap := c.capacity d t
  let e := i % cap
  let k := dst.writePlain (d + i / cap) (if t.toNat = 7 then fillCells t e 1 else [])
  (k.write (d + i / cap) (partWritten t e (e + 1)) [⟨elemBit t e, tagBits t, v.toNat % 2 ^ tagBits t, none⟩]).setTag (d + i / cap) t

/-- Write results for elements from lo on of total into D, whose names are bound; nothing for z. -/
def Context.putFrom (c : Context) (dst : Bank) (d : NameF) (t : TagBits) (lo total : Nat) (rs ss : List (Nat × Option Nat)) : Bank :=
  if isReg d then dst.writeGroup d.toNat t (c.capacity d.toNat t) lo total rs ss else dst

/-- The vector that a member bank supplies under tag t (R200). -/
def Context.member (c : Context) (now : Nat) (a : NameF) (t : TagBits) (j : Nat) : Vec :=
  c.operand (c.bank j) now a t (gangCount t c.vl) 0 c.fz

/-- Elements from next to hi - 1 of an instruction in bank j: operands are read from src, and those of a cross-bank one from the
banks of c that it was issued in; results go into dst. c has the instruction's inputs in place. -/
def SlotForm.write (f : SlotForm) (c : Context) (now j : Nat) (q : InFlight) (hi : Nat) (src dst : Bank) : Bank × FpFlags :=
  let n := f.total q
  let lo := q.next
  let vec := fun (a : NameF) (t : TagBits) => c.operand src now a t c.vl 0 c.fz
  let vecA := fun (a : NameF) => (q.held.map Prod.fst).getD (vec a q.tagA)
  match f with
  | .lane g =>
    let x := g.inputs c now src q.tagA q.tagB q.tagD q.tagD n q.rm q.fz q.sval
    let r := g.op.run { x with a := (q.held.map Prod.fst).getD x.a } lo hi
    (c.putFrom dst g.d q.tagD lo n r.1 r.2.1, r.2.2)
  | .cmp r k g p =>
    let x := g.inputs c now src q.tagA q.tagB q.tagD q.tagA q.count q.rm q.fz q.sval
    let r := cmpBits r k q.fz x.a x.b lo hi
    let old := (dst.pred (p.toNat - 16)).toNat
    let new := old % 2 ^ lo + r.1 * 2 ^ lo + if n ≤ hi then 0 else old / 2 ^ hi * 2 ^ hi
    (dst.setPred (p.toNat - 16) (BitVec.ofNat 16384 new), r.2)
  | .merge _ d a p => (mergeInto c (vec a q.tagA) q.tagD d.toNat (src.pred (p.toNat - 16)).toNat lo hi dst, 0)
  | .ins d _ _ => (if n = 0 then dst else insInto c q.tagD d.toNat q.sval2.toNat q.sval dst, 0)
  | .slide up _ d a _ => (c.putFrom dst d q.tagD lo n (slideVals up (vecA a) c.ncol q.sval lo hi) [], 0)
  | .perm _ _ d a b => (c.putFrom dst d q.tagD lo n (permVals (vecA a) ((q.held.map Prod.snd).getD (vec b q.tagB)) q.tagD c.ncol lo hi) [], 0)
  | .red r _ d a =>
    let rs := redVals r (vecA a) q.tagA c.fz c.ncol lo hi
    (c.putFrom dst d q.tagD lo n (rs.map Prod.fst) [], orAll (rs.map Prod.snd))
  | .move k _ d a _ =>
    let js := bankList q.gang
    let m := movedVec ((k.source q.sval js.length (js.findIdx fun x => decide (x = j))).map fun x =>
      c.member now a q.tagA (js.getD x 0)) q.tagA lo hi
    (c.putFrom dst d q.tagD lo n m.1 m.2, 0)
  | .gred r _ d a =>
    let rs := gredVals r ((bankList q.gang).map (c.member now a q.tagA)) q.tagA c.fz lo hi
    (c.putFrom dst d q.tagD lo n (rs.map Prod.fst) [], orAll (rs.map Prod.snd))

/-- Elements from next to hi - 1, one element group after the other (R165): FMC follows the marks as the groups set and clear them
(R15). The operands are those of src throughout. -/
def SlotForm.writeTo (f : SlotForm) (c : Context) (now j : Nat) (q : InFlight) (hi : Nat) (src dst : Bank) : Bank × FpFlags :=
  let u := f.unit q
  (List.range ((hi - q.next + u - 1) / u)).foldl (fun acc k =>
    let lo := q.next + k * u
    let r := f.write c now j { q with next := lo } (min hi (lo + u)) src acc.1
    (r.1, acc.2 ||| r.2)) (dst, 0)

/-- A and B of an instruction as it reads them from a bank. c has the instruction's inputs in place. -/
def SlotForm.sources (f : SlotForm) (c : Context) (now : Nat) (q : InFlight) (src : Bank) : Vec × Vec :=
  (c.operand src now f.vectors.1 q.tagA q.count 0 c.fz, c.operand src now f.vectors.2 q.tagB q.count 0 c.fz)

/-- The rows that last-use bits name go back (R19). -/
def SlotForm.release (f : SlotForm) (b : Bank) : Bank := f.lasts.foldl (fun b l => b.lastUse l.1 l.2) b

/-- The names of D are bound (R18). -/
def SlotForm.bind (f : SlotForm) (c : Context) (now : Nat) (q : InFlight) (b : Bank) : Bank :=
  if isReg f.dest then c.bindGroup b now f.dest.toNat q.tagD (f.total q) else b

/-- The whole instruction in one bank: operands read first, then last uses released, then D bound and written (R19). -/
def SlotForm.atOnce (f : SlotForm) (i : Instr) (c : Context) (now j : Nat) (b : Bank) : Bank × FpFlags :=
  let q := f.issue i c now j
  f.writeTo c now j q (f.total q) b (f.bind c now q (f.release b))

end Sys2Proof.Machine
end

