-- ==== Sys2Proof/Machine/Slots.lean ====
section
/-! DEFINITION. Vector instructions in flight (R164 to R169, R198): the slots of a bank, their element groups, the resume points of a
stop, and what a stream waits for when a later instruction needs the earlier ones complete. -/

namespace Sys2Proof.Machine

/-- An instruction in flight of another bank is the cross-bank one that q is a part of. -/
def InFlight.isOne (q y : InFlight) : Bool := decide (y.pc = q.pc ∧ y.instr = q.instr ∧ y.gang = q.gang)

/-- The banks in which a cross-bank instruction in flight is still incomplete. -/
def Context.crossBanks (c : Context) (q : InFlight) : List Nat := (bankList q.gang).filter fun x => (c.bank x).slots.any q.isOne

/-- The oldest instruction of a bank can go on: a cross-bank one stands first in every bank that it has not completed in (R197,
R198). -/
def Context.front (c : Context) (q : InFlight) (f : SlotForm) : Bool :=
  !f.cross || (c.crossBanks q).all fun x => (c.bank x).slots.head?.any q.isOne

/-- An instruction in flight with its sources read, when it reads them all before it writes (R163). -/
def SlotForm.begin (f : SlotForm) (c : Context) (now : Nat) (q : InFlight) (src : Bank) : InFlight :=
  if f.holds q && q.held.isNone then { q with held := some (f.sources (c.under q) now q src) } else q

/-- The lanes of bank j go through the elements of q from its next up to hi, with operands from src: the bank, and the flags. -/
def SlotForm.goThrough (f : SlotForm) (c : Context) (now j : Nat) (q : InFlight) (hi : Nat) (src dst : Bank) : Bank × FpFlags :=
  f.writeTo (c.under q) now j { q with next := f.upTo q q.next } (f.upTo q (min hi (f.span q))) src dst

/-- The k-th instruction of bank x, which is f, goes on up to element hi of each bank's own, with operands as in c0: the bank, and
the flags. A code that is complete leaves its slot, and the rows of its last uses go back. -/
def SlotForm.advanceIn (f : SlotForm) (c0 c : Context) (now x k hi : Nat) : Context :=
  let b := c.bank x
  match b.slots[k]? with
  | none => c
  | some q0 =>
    let q := f.begin c0 now q0 (c0.bank x)
    let (b', fl) := f.goThrough c0 now x q hi (c0.bank x) b
    let put := fun (qs : List InFlight) => b.slots.take k ++ qs ++ b.slots.drop (k + 1)
    let b2 := if hi < f.span q then { b' with slots := put [{ q with next := max q.next hi }] } else { f.release b' with slots := put [] }
    (c.setBank x b2).orFlags fl

/-- The k-th instruction of bank j goes on by a number of elements: a cross-bank one in every bank of its gang at once, when it stands
first there (R198). A word that is no vector instruction leaves its slot. -/
def Context.goOn (c : Context) (now j k step : Nat) : Context :=
  let b := c.bank j
  match b.slots[k]? with
  | none => c
  | some q => match slotForm q.instr with
    | none => c.setBank j { b with slots := b.slots.eraseIdx k }
    | some f =>
      if !c.front q f then c
      else if f.cross then (c.crossBanks q).foldl (fun a x => f.advanceIn c a now x 0 (q.next + step)) c
      else f.advanceIn c c now j k (q.next + step)

/-- A later instruction in flight has to follow an earlier one: they share a name that one of them writes (R166). -/
def Context.conflicts (c : Context) (p q : InFlight) : Bool :=
  match slotForm p.instr, slotForm q.instr with
  | some f, some g =>
    let x := f.touches (c.under p) p
    let y := g.touches (c.under q) q
    (x.2.any fun n => y.1.contains n || y.2.contains n) || x.1.any fun n => y.2.contains n
  | _, _ => true

/-- An instruction in flight has its next group ready behind those before it in its bank (R165, R166): a cross-bank one is first in all
of its banks (R197), any other one follows none of them. -/
def Context.mayGo (c : Context) (before : List InFlight) (q : InFlight) : Bool :=
  match slotForm q.instr with
  | none => true
  | some f => if f.cross then before.isEmpty && c.front q f else before.all fun p => !c.conflicts p q

/-- The oldest instruction of a bank whose next group is ready (R165), by its place in the slots. -/
def Context.nextReady (c : Context) (before : List InFlight) : List InFlight → Option (Nat × InFlight)
  | [] => none
  | q :: qs => if c.mayGo before q then some (before.length, q) else c.nextReady (before ++ [q]) qs

/-- The lanes process one element group of the oldest instruction in flight whose next group is ready (R165). -/
def Context.laneStep (c : Context) (now j : Nat) : Context :=
  match c.nextReady [] (c.bank j).slots with
  | none => c
  | some (k, q) => c.goOn now j k (match slotForm q.instr with
    | some f => f.unit q
    | none => 1)

/-- One instruction of bank j's slots, alone, runs to completion there. -/
def Context.finishOne (c : Context) (now j : Nat) (q : InFlight) : Context :=
  match slotForm q.instr with
  | none => c
  | some f =>
    let b := c.bank j
    let (b', fl) := f.goThrough c now j q (f.span q) b b
    (c.setBank j (f.release b')).orFlags fl

/-- Bank x has to go on before the banks of a goal can: it is one of them, or holds a cross-bank instruction that one of them holds
too (R197). -/
def Context.ahead (c : Context) (goal : Nat → Bool) (x : Nat) : Bool :=
  goal x || (c.bank x).slots.any fun q => (slotForm q.instr).any SlotForm.cross && (c.crossBanks q).any goal

/-- The banks of a goal run the instructions in their slots, oldest first, for a number of rounds. -/
def Context.runBanks (c : Context) (now : Nat) (goal : Context → Nat → Bool) : Nat → Context
  | 0 => c
  | n + 1 => ((bankList c.allBanks).foldl (fun c x => if c.ahead (goal c) x then c.goOn now x 0 16384 else c) c).runBanks now goal n

/-- Instructions in flight in the stream's banks: as many rounds complete any of them. -/
def Context.inSlots (c : Context) : Nat := (bankList c.allBanks).foldl (fun n j => n + (c.bank j).slots.length) 0

/-- Everything in flight in some banks runs to completion: in each bank in order, and a cross-bank instruction where it has come
first in all of its banks. What entries of IRP that a handler has changed leave without an order is finished bank by bank. -/
def Context.drain (c : Context) (now : Nat) (js : List Nat) : Context :=
  if js.all fun j => decide ((c.bank j).slots = []) then c
  else
    let c1 := c.runBanks now (fun c j => js.contains j && decide ((c.bank j).slots ≠ [])) c.inSlots
    js.foldl (fun c j => (c.bank j).slots.foldl (fun c q => c.finishOne now j q) (c.setBank j { c.bank j with slots := [] })) c1

/-- A cross-bank instruction, and with it all before it in its banks, runs to completion. -/
def Context.through (c : Context) (now : Nat) (q : InFlight) : Context :=
  c.runBanks now (fun c j => (c.bank j).slots.any q.isOne) c.inSlots

/-- Element groups an instruction in flight still has to process. -/
def InFlight.left (q : InFlight) : Nat :=
  match slotForm q.instr with
  | some f => (f.span q - q.next + f.unit q - 1) / f.unit q
  | none => 0

/-- Beats of vector work a bank still has to do. -/
def Bank.work (b : Bank) : Nat := b.slots.foldl (fun n q => n + q.left) 0

/-- The next group would put the bank more than SLIP beats ahead of the slowest bank of its gang (R32). The slowest bank itself is not
held: it goes on. -/
def Context.slipBound (c : Context) (j : Nat) : Bool :=
  let most := (bankList (c.gangOf j)).foldl (fun m i => max m (c.bank i).work) 0
  decide (max 1 c.slip.toNat + (c.bank j).work < most + 1)

/-- The banks that take their next group in the same cycle as bank j: under SLIP 0 all that stand level with it (R32). -/
def Context.lockstep (c : Context) (j : Nat) : List Nat :=
  j :: if c.slip = 0 then (bankList (c.gangOf j)).filter fun i => decide (i ≠ j ∧ (c.bank i).work = (c.bank j).work) else []

/-! Issue into slots. -/

/-- The names of D take the result tag when the instruction issues, so that the instructions behind it are checked against it. -/
def Bank.tagNames (b : Bank) (ns : List Nat) (t : TagBits) : Bank := ns.foldl (fun b n => b.setTag n t) b

/-- The instruction takes the next slot of bank j (R164): D is bound (R18) and tagged; a template's last use is over (R186). -/
def SlotForm.enter (f : SlotForm) (i : Instr) (c : Context) (now j : Nat) (b : Bank) : Bank :=
  let q := f.issue i c now j
  let b1 := match f with
    | .lane g => if g.op.template then f.release b else b
    | _ => b
  let b2 := (f.bind c now q b1).tagNames (f.destNames c q) q.tagD
  { b2 with slots := b2.slots ++ [q] }

/-- The keep names whose rows an instruction gives back. -/
def SlotForm.freed (f : SlotForm) : List Nat :=
  f.lasts.flatMap fun l => if l.1 && decide (nameClass l.2 = .k) then [l.2.toNat] else []

/-- The instruction may stay in a slot of bank j: D is no row that it gives back, whose old and new rows would both be live. -/
def SlotForm.stays (f : SlotForm) (i : Instr) (c : Context) (now j : Nat) : Bool :=
  let ns := f.destNames c (f.issue i c now j)
  f.freed.all fun n => !ns.contains n

/-- Some instruction in flight gives a keep row back, which a later one must see unbound. -/
def Context.freeing (c : Context) (js : List Nat) : Bool :=
  js.any fun j => (c.bank j).slots.any fun q => match slotForm q.instr with
    | some f => !f.freed.isEmpty
    | none => false

/-- A later instruction that reads these predicates has to wait: one in flight in the banks writes one of them (R109, R166). -/
def Context.predsPending (c : Context) (ps : List NameF) (js : List Nat) : Bool :=
  js.any fun j => (c.bank j).slots.any fun q => match slotForm q.instr with
    | some (.cmp _ _ _ p) => ps.contains p
    | _ => false

/-- Every earlier bank-class instruction of the running sub-gang has completed in its banks. -/
def State.settled (s : State) : State := s.withCtx (s.ctx.drain s.now (bankList s.ctx.gmBanks))

/-- The state an instruction acts on that reads predicates outside the banks' slots: their earlier writers are done (R109, R207). -/
def State.predsReady (s : State) (ps : List NameF) : State :=
  if s.ctx.predsPending ps (bankList s.ctx.gmBanks) then s.settled else s

/-! Stops. -/

/-- Every name of a register operand carries a tag. -/
def Context.allTagged (c : Context) (now j : Nat) (n : NameF) (t : TagBits) (count : Nat) : Bool :=
  (c.operandNames n t count).all fun m => decide ((c.bank j).tagOf now m = t)

/-- The issue-time inputs of an instruction in flight are the current ones (R168): the values of its scalars, FPCR.RM and FZ, SHAPE,
and the tags of every name it reads. A z that took its format from D (R161) still has it while D keeps the tag that the instruction
has given it. -/
def Context.sameInputs (c : Context) (now j : Nat) (q : InFlight) : Bool :=
  match slotForm q.instr with
  | none => false
  | some f =>
    let r := f.issue q.instr c now j
    let x := f.vectors
    let lent := if !isReg x.1 && !isReg x.2 && isReg f.dest then 1 else 0
    let ownD := match f with
      | .lane g => if g.op.readsD then q.count else lent
      | .ins _ _ _ | .merge _ _ _ _ => f.total q
      | _ => lent
    let countA := match f with
      | .lane g => if g.op.template then 1 else q.count
      | _ => q.count
    decide (r.nrow = q.nrow ∧ r.ncol = q.ncol ∧ r.rm = q.rm ∧ r.fz = q.fz ∧ r.sval = q.sval ∧ r.sval2 = q.sval2) &&
      c.allTagged now j x.1 q.tagA countA && c.allTagged now j x.2 q.tagB q.count && c.allTagged now j f.dest q.tagD ownD

/-- A whole-source instruction has begun writing (R168). -/
def InFlight.writing (q : InFlight) : Bool := match slotForm q.instr with
  | some f => f.whole && decide (0 < f.upTo q q.next)
  | none => false

/-- The instructions of a bank in slot order, each with whether a stop lets it run to completion: its inputs have changed, it is a
whole-source one that has begun writing, or one that must has to follow it (R166, R168, LOG 74). -/
def Context.atStop (c : Context) (now j : Nat) : List InFlight → List (InFlight × Bool)
  | [] => []
  | q :: qs =>
    let rest := c.atStop now j qs
    (q, !c.sameInputs now j q || q.writing || rest.any fun e => e.2 && c.conflicts q e.1) :: rest

/-- What a stop records of an instruction: a whole-source one, which has written nothing, reads its sources again (R168). -/
def InFlight.asRecorded (q : InFlight) : InFlight :=
  if (slotForm q.instr).any SlotForm.whole then { q with next := 0, held := none } else q

/-- The resume point of an instruction in flight (R40), counted back from p. An unfinished VINS, which produces one element alone, is
recorded at (0, 0): the spec gives it no other point (DESIGN CHOICE, LOG 86). -/
def InFlight.resumePoint (q : InFlight) (p : Word) : Word :=
  let dist := (p - q.pc).toNat / 4 % 2 ^ 32
  BitVec.ofNat 64 (dist * 2 ^ 32 + 2 ^ 31 + q.next / q.ncol * 2 ^ 16 + q.next % q.ncol)

/-- The cross-bank instructions that a stop has to finish in some bank are finished in all of theirs (R198), with what stands before
them. -/
def Context.finishCross (c : Context) (now : Nat) : Nat → Context
  | 0 => c
  | n + 1 =>
    match (bankList c.allBanks).findSome? fun j => (c.atStop now j (c.bank j).slots).find? fun e =>
        e.2 && (slotForm e.1.instr).any SlotForm.cross with
    | none => c
    | some e => (c.through now e.1).finishCross now n

/-- One bank stops (R168): IRP records the instructions left in its slots, counted back from p. -/
def Context.stopBank (c : Context) (now : Nat) (p : Word) (j : Nat) : Context :=
  let es := c.atStop now j (c.bank j).slots
  let c1 := (es.filter Prod.snd).foldl (fun c e => c.finishOne now j e.1) (c.setBank j { c.bank j with slots := [] })
  let left := ((es.filter fun e => !e.2).map fun e => e.1.asRecorded).zipIdx
  c1.setBank j { c1.bank j with
    irp := left.foldl (fun t (q, i) => tabSet 0 t i (q.resumePoint p)) []
    stopped := left.map fun (q, i) => (i, q) }

/-- The stream stops: its own banks count back from its pc, a sibling's from the sibling's (R168, R212). -/
def Context.stopLanes (c : Context) (now : Nat) : Context :=
  let c1 := c.finishCross now c.inSlots
  let c2 := (bankList c.gmBanks).foldl (fun c j => c.stopBank now c.pc j) c1
  match c.sib with
  | none => c2
  | some b => (bankList b.banks).foldl (fun c j => c.stopBank now b.pc j) c2

/-- Some IRP entry is valid (TSTAT.MID, R43). -/
def Context.anyResume (c : Context) : Bool :=
  c.banks.any fun e => e.2.irp.any fun q => q.2.getLsbD 31

end Sys2Proof.Machine
end

