-- ==== Sys2Proof/Machine/Registers.lean ====
section
/-! DEFINITION. The control registers (R24 to R40, R209): their access rules, values and writes. -/

namespace Sys2Proof.Machine

/-- Pack a Bool at a bit. -/
def bitAtPos (b : Bool) (i : Nat) : Nat := if b then 2 ^ i else 0

/-- SHAPE (R30). -/
def Context.shapeWord (c : Context) : Nat := c.nrow % 2 ^ 15 + c.ncol % 2 ^ 15 * 2 ^ 16

/-- GM (R33). -/
def Context.gmWord (c : Context) : Nat :=
  c.gmBanks.toNat + c.gmBase.toNat * 2 ^ 16 + c.gmWlog.toNat * 2 ^ 20 + bitAtPos c.gmSub 23

/-- GALT (R209). -/
def Context.galtWord (c : Context) : Nat := match c.sib with
  | none => 0
  | some b => 1 + bitAtPos b.parked 1 + b.pc.toNat / 4 % 2 ^ 54 * 4

/-- The names a bank has bound, as a mask (R354). -/
def Bank.kmap (b : Bank) : Nat := b.kname.foldl (fun m e => if e.2 = 0 then m else m ||| 2 ^ e.1) 0

/-- KMAP (R24). -/
def Context.kmapWord (c : Context) : Nat := (bankList c.gmBanks).foldl (fun m j => m ||| (c.bank j).kmap) 0

/-- RDEBT of a core (R34). -/
def CoreRec.debtWord (r : CoreRec) : Nat := (List.range 16).foldl (fun w j => w + tabGet 0 r.debt j % 16 * 2 ^ (4 * j)) 0

/-- STATUS (R37). -/
def Context.statusWord (c : Context) : Nat := bitAtPos c.sup 0 + bitAtPos c.ad 1

/-- CSn of a slot (R39). -/
def CopySlot.csWord (q : CopySlot) : Nat := q.state.toNat + q.cause.toNat * 2 ^ 8 + q.start % 2 ^ 48 * 2 ^ 16

/-- The value of a control register that the context itself holds; CYCLE, RDEBT and the views read 0 here (R355). -/
def Context.held (c : Context) (i : Nat) : Nat :=
  match i with
  | 0x00 => c.rm.toNat + bitAtPos c.fz 2 + bitAtPos c.lt 3
  | 0x01 => c.fpsr.toNat
  | 0x02 => c.win.toNat
  | 0x03 => c.vcode.toNat
  | 0x04 => c.shapeWord
  | 0x05 => c.srem.toNat
  | 0x06 => c.smax.toNat
  | 0x07 => c.sord.toNat
  | 0x08 => c.sbeg.toNat
  | 0x09 => c.send.toNat
  | 0x0A => c.lc.toNat + bitAtPos c.lcPend 63
  | 0x0B => c.lbeg.toNat
  | 0x0C => c.lend.toNat
  | 0x0D => c.slip.toNat
  | 0x0E => c.gmWord
  | 0x10 => c.rfth.toNat
  | 0x11 => c.fref.toNat
  | 0x12 => c.mrep.toNat
  | 0x13 => c.mprog.toNat
  | 0x14 => c.wid.toNat
  | 0x15 => c.statusWord
  | 0x16 => c.tvec.toNat
  | 0x17 => c.tpc.toNat
  | 0x18 => c.tcause.toNat
  | 0x19 => c.tval.toNat
  | 0x1A => c.tstat.toNat
  | 0x1B => c.tscr.toNat
  | 0x1C => c.kmapWord
  | 0x1E => c.lcn.toNat
  | 0x1F => c.galtWord
  | _ => if 0x40 ≤ i ∧ i < 0x80 then (tabGet 0 (c.bank ((i - 0x40) / 4)).irp (i % 4)).toNat else 0

/-- The value an MFC returns (R24, R39). CYCLE is read by the MFC itself. -/
def State.ctl (s : State) (c : Context) (i : Nat) : Nat :=
  if i = 0x0F then (s.core c.core).debtWord
  else if i = 0x1D then s.cycle.toNat
  else if 0x20 ≤ i ∧ i < 0x30 then
    let q := s.slot c.core (i - 0x20)
    if q.owner = some c.id then q.wm % 2 ^ 56 else 0
  else if 0x30 ≤ i ∧ i < 0x40 then
    let q := s.slot c.core (i - 0x30)
    if q.owner = some c.id then q.csWord else 0
  else c.held i

/-- The index is in the table of R24 and R209. Every index of 0x00 to 0x7F is. -/
def ctlExists (i : Nat) : Bool := decide (i < 0x80)

/-- User mode has no access at all (R25). -/
def ctlSupOnly (i : Nat) : Bool :=
  decide (i = 0x13 ∨ (0x16 ≤ i ∧ i ≤ 0x1B) ∨ (0x40 ≤ i ∧ i < 0x80))

/-- The mode may write the register (R24, R209). -/
def ctlWritable (sup : Bool) (i : Nat) : Bool :=
  decide (i = 0x00 ∨ i = 0x01 ∨ i = 0x02 ∨ i = 0x05 ∨ i = 0x0A ∨ i = 0x0D ∨ i = 0x10) ||
    (sup && (ctlSupOnly i || decide (i = 0x15 ∨ i = 0x1F)))

/-- SLIPR: writes above 32 store 32 (R32). -/
def slipOf (v : Nat) : BitVec 6 := BitVec.ofNat 6 (min 32 (v % 64))

/-- RFTH: a write of 0 stores 1 (R34). -/
def rfthOf (v : Nat) : BitVec 3 := BitVec.ofNat 3 (if v % 8 = 0 then 1 else v % 8)

/-- The counted loop is active (R114). -/
def Context.counting (c : Context) : Bool := decide (c.lc ≠ 0) || c.lcPend
/-- The strip loop is active (R114). -/
def Context.stripping (c : Context) : Bool := decide (c.send ≠ 0)

/-- Write a control register (R24 to R40, R116, R209). Fields marked reserved ignore the write. -/
def Context.setCtl (c : Context) (i : Nat) (v : Word) : Context :=
  match i with
  | 0x00 => { c with rm := v.extractLsb' 0 2, fz := v.getLsbD 2, lt := v.getLsbD 3 }
  | 0x01 => { c with fpsr := v.extractLsb' 0 6 }
  | 0x02 => { c with win := BitVec.ofNat 8 (v.toNat / 16 % 16 * 16) }
  | 0x05 => { c with srem := v.extractLsb' 0 32 }
  | 0x0A =>
    if c.counting then { c with lcn := v.extractLsb' 0 32, lcPend := true } else { c with lc := v.extractLsb' 0 32 }
  | 0x0D => { c with slip := slipOf v.toNat }
  | 0x10 => { c with rfth := rfthOf v.toNat }
  | 0x13 => { c with mprog := v &&& 0x1FFFFFFFFFFFF }
  | 0x15 => { c with sup := v.getLsbD 0, ad := v.getLsbD 1 }
  | 0x16 => { c with tvec := v.extractLsb' 0 56 &&& 0xFFFFFFFFFFFFFC }
  | 0x17 => { c with tpc := v.extractLsb' 0 56 }
  | 0x18 => { c with tcause := v.extractLsb' 0 13 }
  | 0x19 => { c with tval := v }
  | 0x1A => { c with tstat := v.extractLsb' 0 3 }
  | 0x1B => { c with tscr := v }
  | 0x1F =>
    match c.sib with
    | none => c
    | some b =>
      let pc := BitVec.ofNat 64 (v.toNat / 4 % 2 ^ 54 * 4)
      { c with sib := some { b with pc := pc, parked := b.parked && decide (pc = b.pc) } }
  | _ =>
    if 0x40 ≤ i ∧ i < 0x80 then
      let j := (i - 0x40) / 4
      let b := c.bank j
      c.setBank j { b with irp := tabSet 0 b.irp (i % 4) (v &&& 0xFFFFFFFFFFFF7FFF) }
    else c

end Sys2Proof.Machine
end

