-- ==== Sys2Proof/Machine/Save.lean ====
section
/-! DEFINITION. Row descriptors (R140), and the save and the restore of a context (R353 to R357). -/

namespace Sys2Proof.Machine

/-- The placed address of a row (R277). -/
def placedRow (core bank seg row : Nat) : Nat := core * 2 ^ 29 + bank * 2 ^ 25 + seg * 2 ^ 22 + row * 2 ^ 13

def RowState.code : RowState → Nat
  | .closed => 0 | .opened => 1 | .revoked => 2

/-- The descriptor of a register (R140); a CLOSED one has STATE 0, MAGIC and nothing else (R141). -/
def RowReg.descriptor (r : RowReg) (vcode : Nat) : Nat :=
  match r.st with
  | .closed => 0xB7 * 2 ^ 56
  | _ =>
    r.st.code + r.tag.toNat * 2 ^ 2 + vcode * 2 ^ 6 + r.fmc.toNat * 2 ^ 8 + 0xB7 * 2 ^ 56 + r.row.toNat * 2 ^ 64 +
      r.pin.toNat * 2 ^ 128 + r.dirty.toNat * 2 ^ 512 + r.fm.toNat * 2 ^ 4096

/-- Bits [pos + w - 1 : pos] of a number. -/
def fieldOf (d pos w : Nat) : Nat := d / 2 ^ pos % 2 ^ w

/-- The register of a number of segments that a descriptor describes, with its latch; the entries of other segments are 0 (R140). -/
def RowReg.ofDescriptor (segs d : Nat) (st : RowState) (latch : Nat) : RowReg :=
  { st := st, row := BitVec.ofNat 26 (fieldOf d 64 26), pin := BitVec.ofNat 56 (fieldOf d 128 56),
    tag := BitVec.ofNat 4 (fieldOf d 2 4), fmc := BitVec.ofNat 8 (fieldOf d 8 8), fm := BitVec.ofNat 16384 (fieldOf d 4096 (2048 * segs)),
    dirty := BitVec.ofNat 256 (fieldOf d 512 (32 * segs)), latch := BitVec.ofNat 524288 latch, pinned := [] }

/-- The virtual row address of segment i in bank j (R129). -/
def Context.rowVa (c : Context) (a : Word) (j i : Nat) : Word :=
  a + BitVec.ofInt 64 (((j : Int) - c.gmBase.toNat) * 0x2000000 + i * 0x400000)

/-- What the 32 beats at a row of cells add to a fault mask: the beats with a marked sector (R134), the cause of the lowest. -/
def State.rowMarks (s : State) (loc : Nat) : List (Nat × Nat) :=
  if s.marks = [] then []
  else (List.range 32).filterMap fun b => (s.markCause (loc + 256 * b) 256).map fun c => (b, c)

/-- FM bits of marked beats of segment i: 64 lane words each. -/
def beatMask (i : Nat) (bs : List (Nat × Nat)) : Nat :=
  bs.foldl (fun m b => m ||| (2 ^ 64 - 1) * 2 ^ (2048 * i + 64 * b.1)) 0

/-- Put the row's latch segments into save rows: seg i of the register goes to the row at base + i segments (R141). -/
def State.writeLatch (s : State) (r : RowReg) (segs base : Nat) : State :=
  (List.range segs).foldl (fun s i => s.writeBytes (base + i * 2 ^ 22) 8192 (bitsOf r.latch (65536 * i) 65536)) s

/-- The latch read from rows one segment apart, and the marks found (R134, R143). -/
def State.readLatch (s : State) (segs base : Nat) : Nat × List (Nat × Nat × Nat) :=
  (List.range segs).foldr (fun i acc =>
    (s.readLoc (base + i * 2 ^ 22) 8192 * 2 ^ (65536 * i) + acc.1,
     (s.rowMarks (base + i * 2 ^ 22)).map (fun m => (i, m.1, m.2)) ++ acc.2)) (0, [])

/-- OR the marks of beats into a register; FMC takes the lowest beat's cause when FM was zero (R15, R134). -/
def RowReg.markBeats (r : RowReg) (ms : List (Nat × Nat × Nat)) : RowReg :=
  if ms = [] then r
  else
    let add := ms.foldl (fun m q => m ||| (2 ^ 64 - 1) * 2 ^ (2048 * q.1 + 64 * q.2.1)) 0
    { r with
      fm := r.fm ||| BitVec.ofNat 16384 add
      fmc := if r.fm = 0 then BitVec.ofNat 8 ((ms.head?.map fun q => q.2.2).getD 0) else r.fmc }

/-- The steps done and the sums of the chunk that a member computes: one it has received, or its own (R272, R273). -/
def MmfFlight.partialRow (m : MmfFlight) : Nat × BitVec 65536 := match m.relay with
  | some (_, k, p) => (k, p)
  | none => (m.kdone, m.part)

/-- The partial row takes other contents. -/
def MmfFlight.setPartial (m : MmfFlight) (p : BitVec 65536) : MmfFlight := match m.relay with
  | some (o, k, _) => { m with relay := some (o, k, p) }
  | none => { m with part := p }

/-- The matrix bank of the partial row: that of the MMF in flight, which a sub-gang may have issued in a bank of its own (R257, R272). -/
def Context.partBank (c : Context) : Nat := match c.mmf with
  | some m => m.bank
  | none => lowBank c.allBanks

/-- The meta area of one bank (R354), in the bytes it gives content; metaSpans lists those a save writes. -/
def Context.metaArea (c : Context) (j : Nat) : Nat :=
  let b := c.bank j
  let descs := (List.range c.nNames).foldl (fun m i => m + (b.row i).descriptor c.vcode.toNat * 2 ^ (8 * 2560 * i)) 0
  let preds := (List.range 8).foldl (fun m p => m + (b.pred p).toNat * 2 ^ (8 * (20480 + 2048 * p))) 0
  let keeps := (List.range 8).foldl (fun m k => match b.bound k with
    | none => m
    | some r =>
      let q := b.poolRow r
      m + q.fm.toNat * 2 ^ (8 * (36864 + 256 * k)) +
        (1 + q.tag.toNat * 2 + q.fmc.toNat * 2 ^ 8) * 2 ^ (8 * (38912 + 8 * k))) 0
  let irps := (List.range 4).foldl (fun m q => m + (tabGet 0 b.irp q).toNat * 2 ^ (8 * (38976 + 8 * q))) 0
  let ident := (b.kmap + j * 2 ^ 16 + 0xB9 * 2 ^ 56) * 2 ^ (8 * 39008)
  let part := match c.mmf with
    | some m => if m.bank = j then m.partialRow.2.toNat * 2 ^ (8 * 40960) else 0
    | none => 0
  descs + preds + keeps + irps + ident + part

/-- The byte ranges of the meta area that a save of bank j writes, as offset and length (R354). -/
def Context.metaSpans (c : Context) (j : Nat) : List (Nat × Nat) :=
  [(0, 2560 * c.nNames), (20480, 18536)] ++ (if j = c.partBank then [(40960, 8192)] else []) ++ [(49152, 16384)]

/-- The sub-gang with the lowest bank becomes the running one (R355). turned keeps what GALT showed of it: a handler that ran in the
other one, or its park at GJOIN, is found again at the resumption (R209). -/
def Context.lowFirst (c : Context) : Context := match c.sib with
  | none => c
  | some b =>
    if lowBank b.banks < lowBank c.gmBanks ∨ c.gmBanks = 0 then
      { c.swap with turned := if c.sibHeld || b.parked then some b.parked else none }
    else c

/-- The running sub-gang is the one that ran before the save (R209, R357). -/
def Context.turnBack (c : Context) : Context := match c.turned with
  | some parked => { c.swapTo parked with turned := none }
  | none => c

/-- A context keeps a save set (R352 step 4, R357 step 5). -/
def Context.saved (c : Context) : Bool := match c.place with
  | .away | .halted _ => true
  | _ => false

/-- A set of banks moved up by d, modulo 16. -/
def shiftBanks (g : BitVec 16) (d : Nat) : BitVec 16 :=
  (bankList g).foldl (fun (m : BitVec 16) j => m ||| BitVec.ofNat 16 (2 ^ ((j + d) % 16))) 0

/-- The context at the core, the base and the save set that word 0 of its block names: its banks move with the base (R360). -/
def Context.movedTo (c : Context) (w : Nat) : Context :=
  let base := w / 2 ^ 16 % 16
  if w / 2 ^ 32 % 2 ^ 10 = c.core ∧ base = c.gmBase.toNat ∧ w % 2 ^ 8 = c.saveset then c
  else
    let d := base + 16 - c.gmBase.toNat
    { c with
      core := w / 2 ^ 32 % 2 ^ 10, gmBase := BitVec.ofNat 4 base, saveset := w % 2 ^ 8, gmBanks := shiftBanks c.gmBanks d
      sib := c.sib.map fun b => { b with banks := shiftBanks b.banks d }
      banks := c.banks.foldl (fun t e => tabSet Bank.reset t ((e.1 + d) % 16) e.2) []
      mmf := c.mmf.map fun m => { m with bank := (m.bank + d) % 16 }
      owed := c.owed.map fun e => ((e.1 + d) % 16, e.2) }

/-- Where a context stands: one that is saved, where its block says (R360). -/
def State.whereIs (s : State) (c : Context) : Context :=
  if c.saved && decide (c.block ≠ 0) then c.movedTo (s.readCells (c.block - 1) 8) else c

/-- The words of the context block (R355): byte offset and value. -/
def Context.blockWords (c : Context) (owned : List Nat) (k : Nat) : List (Nat × Nat) :=
  [(0, k % 2 ^ 8 + c.gmBase.toNat * 2 ^ 16 + c.gmWlog.toNat * 2 ^ 20 + c.core % 2 ^ 10 * 2 ^ 32 + 0xC7 * 2 ^ 56),
   (8, c.owner.toNat), (16, c.l), (24, c.seq), (32, c.pc.toNat % 2 ^ 56), (40, c.statusWord),
   (48, boolNat c.pend10 + 2 * boolNat c.pend30.isSome +
      4 * boolNat (match c.sib with | some b => b.pend10 | none => false) + c.pend11.toNat * 2 ^ 16),
   (56, owned.foldl (fun m n => m + 2 ^ n) 0)] ++
  ((List.range 32).map fun i => (64 + 8 * i, c.held i)) ++
  [(320, c.mg.toNat), (328, c.mseq.toNat)] ++
  ((List.range 22).map fun i => (336 + 8 * i, (stagedField c.staged i).toNat)) ++
  ((List.range 256).map fun i => (1024 + 8 * i, (tabGet 0 c.scalars i).toNat))

/-- The contents of the context block. -/
def Context.blockImage (c : Context) (owned : List Nat) (k : Nat) : Nat :=
  (c.blockWords owned k).foldl (fun m w => m + w.2 % 2 ^ 64 * 2 ^ (8 * w.1)) 0

/-- The lowest save set free in every bank of a gang. R353 does not say which of several a save takes (DESIGN CHOICE, LOG 100). -/
def State.freeSaveSet (s : State) (core : Nat) (banks : BitVec 16) : Option Nat :=
  (List.range s.savesets).find? fun k =>
    s.allCtxs.all fun c =>
      let x := s.whereIs c
      !(c.saved && decide (x.core = core) && decide (x.allBanks &&& banks ≠ 0) && decide (x.saveset = k))

/-- The lowest free block of the stack's context pool (R355), as its address + 1; 0 when the pool has none. R355 does not say which
free block a save takes (DESIGN CHOICE, LOG 17). -/
def State.freeBlock (s : State) (core : Nat) : Nat :=
  let r := s.stack (stackOf core)
  let base := r.cpool.toNat * 2 ^ 12
  match (List.range (min r.ccount.toNat (s.others.length + 2))).find? fun i =>
      s.allCtxs.all fun c => decide (c.block ≠ base + 4096 * i + 1) with
  | some i => base + 4096 * i + 1
  | none => 0

/-- The MMF in flight stops: MPROG records it (R273). The member has computed its chunk, or one that it has received, so far; in the
chain it has sent, or written, so many tile rows (LOG 18). -/
def MmfFlight.progress (m : MmfFlight) : Word :=
  let kc := m.mg.toNat / 2 ^ 16 % 2 ^ 16
  let k := m.partialRow.1
  BitVec.ofNat 64 (k + (if k = kc then m.rows * 2 ^ 32 + m.mg.toNat / 2 ^ 8 % 2 ^ 6 * 2 ^ 40 else 0) + 2 ^ 48)

def Context.stopFold (c : Context) (trap : Bool) : Context := match c.mmf with
  | none => c
  | some m =>
    if m.released ∨ m.stopped then c else { c.mend [0x13] with mprog := m.progress, mmf := some { m with stopped := true, byTrap := trap, noted := m.progress } }

/-- The slip counters move on by what the stream has spent since the last look at them (R379, LOG 25). -/
def Context.charge (c : Context) (now : Nat) : Context :=
  (bankList c.allBanks).foldl (fun c j =>
    let b := c.bank j
    c.setBank j { b with slip := (List.range 7).foldl (fun t k =>
      tabSet 0 t k (tabGet 0 t k + Config.freeWord now 17 ((c.id * 16 + j) * 7 + k))) b.slip }) c

/-- A context stops where it is, to be saved (R352 steps 1 and 2, R377). The IRP words of a trap frame are put aside (LOG 23). -/
def Context.halts (c : Context) (now : Nat) : Context :=
  (((bankList c.allBanks).foldl (fun c j => c.setBank j { c.bank j with frame := (c.bank j).irp, frameStopped := (c.bank j).stopped }) (c.charge now)).stopLanes now).stopFold false

/-- The bytes [o, o + n) of a bank's meta area are written from v, the area's contents (R354). -/
def State.writeMeta (s : State) (core j k v o n : Nat) : State :=
  (List.range 8).foldl (fun s i =>
    let lo := max o (8192 * i)
    let hi := min (o + n) (8192 * (i + 1))
    if lo < hi then
      s.writeBytes (placedRow core j i (509 - 3 * k) + (lo - 8192 * i)) (hi - lo) (fieldOf v (8 * lo) (8 * (hi - lo)))
    else s) s

/-- Write one bank's part of a save (R354). -/
def State.saveBank (s : State) (c : Context) (k j : Nat) : State :=
  let b := c.bank j
  let s1 := (List.range c.nNames).foldl (fun s i =>
    let r := b.row i
    match r.st with
    | .closed => s
    | _ => s.writeLatch r c.segs (placedRow c.core j (i * c.segs) (511 - 3 * k))) s
  let s2 := (List.range 8).foldl (fun s n => match b.bound n with
    | none => s
    | some r => s.writeBytes (placedRow c.core j n (510 - 3 * k)) 8192 (b.poolRow r).data.toNat) s1
  (c.metaSpans j).foldl (fun s w => s.writeMeta c.core j k (c.metaArea j) w.1 w.2) s2

/-- Every field of a bank's registers becomes CLOSED and its keep rows go back (R352 step 4); what they held is remembered
(R18), and so are the inputs of stopped instructions (R169). -/
def Bank.vacate (b : Bank) : Bank :=
  let b' := (List.range 8).foldl (fun b k => b.release k) b
  { Bank.reset with
    history := b'.history, slip := b.slip, stopped := b.stopped, frame := b.frame, frameStopped := b.frameStopped }

/-- One refresh slot of bank j: it starts, and the pointer moves on (R151, R155). -/
def CoreRec.refresh (r : CoreRec) (j : Nat) : CoreRec :=
  { r with debt := tabSet 0 r.debt j (tabGet 0 r.debt j - 1), refPtr := tabSet 0 r.refPtr j ((tabGet 0 r.refPtr j + 1) % 512) }

/-- n slots of bank j. -/
def CoreRec.refreshes (r : CoreRec) (j : Nat) : Nat → CoreRec
  | 0 => r
  | n + 1 => (r.refresh j).refreshes j n

/-- The slots that these REFs of bank j have still to perform: DEBT bounds those of each when its first one starts (R155). -/
def CoreRec.performRefs (r : CoreRec) (j : Nat) : List (Nat × Bool) → CoreRec
  | [] => r
  | e :: t => (r.refreshes j (min e.1 (tabGet 0 r.debt j))).performRefs j t

/-- The slots that REF has asked for in bank j start (R155). -/
def CoreRec.serveRef (r : CoreRec) (j : Nat) : CoreRec :=
  { r.performRefs j (tabGet [] r.refReq j) with refReq := tabErase r.refReq j }

/-- The resident stream that holds a bank. -/
def State.bankOwner (s : State) (core j : Nat) : Option Context :=
  (s.residents core).find? fun c => c.allBanks.getLsbD j

/-- FREF counts a forced slot, saturating (R158, R24). -/
def Context.countForced (c : Context) : Context :=
  { c with fref := if c.fref = BitVec.allOnes 32 then c.fref else c.fref + 1 }

/-- The forced slot of a bank at debt 8 (R158). -/
def State.forceSlot (s : State) (core j : Nat) : State :=
  if tabGet 0 (s.core core).debt j = 8 then
    let s1 := s.setCore core ((s.core core).refresh j)
    match s.bankOwner core j with
    | none => s1
    | some c => s1.updCtx c.id Context.countForced
  else s

/-- The slots that REF has asked for in some banks of a core start, behind the forced slot of a bank at debt 8 (R158). -/
def State.serveRefs (s : State) (core : Nat) (js : List Nat) : State :=
  let asked := js.filter fun j => decide (tabGet [] (s.core core).refReq j ≠ [])
  if asked = [] then s
  else
    let t := asked.foldl (fun t j => t.forceSlot core j) s
    t.setCore core (asked.foldl CoreRec.serveRef (t.core core))

/-- The stores or loads of a context block at a physical address wait at their homes (R243, R307). -/
def State.blockWaits (s : State) (pa : Nat) : Bool := (List.range 8).any fun i => s.blocked (pa + 512 * i) 512

/-- The save rows of set k of a bank that a save writes and a restore reads (R354): the latch rows of some names, the keep rows of some
keep names, and the meta rows. -/
def saveRows (core k j segs : Nat) (names keeps : List Nat) : List Nat :=
  (names.flatMap fun i => (List.range segs).map fun g => placedRow core j (i * segs + g) (511 - 3 * k)) ++
    (keeps.map fun n => placedRow core j n (510 - 3 * k)) ++ (List.range 8).map fun i => placedRow core j i (509 - 3 * k)

/-- A part of the save of a stopped context would have to wait: a row for a detent (R243, R354), the block for a detent or a tier in T3
(R307, R355). The context is away only once every part has performed (R356), so it stands until none does (DEDUCED, LOG 17). -/
def State.saveWaits (s : State) (c : Context) : Bool :=
  let k := (s.freeSaveSet c.core c.allBanks).getD 0
  let blk := s.freeBlock c.core
  (decide (blk ≠ 0) && s.blockWaits (blk - 1)) || (bankList c.allBanks).any fun j =>
    let b := c.bank j
    (saveRows c.core k j c.segs ((List.range c.nNames).filter fun i => decide ((b.row i).st ≠ .closed))
      ((List.range 8).filter fun n => (b.bound n).isSome)).any fun r => s.touches r 8192

/-- Save a stopped context (R352 steps 2 to 4): the state it is left in carries the given place. Its row operations start behind the
forced slots that are due and the slots that REF has asked for (R158, R150). -/
def State.saveContext (s : State) (c0 : Context) (place : Place) : State :=
  let due := (bankList c0.allBanks).filter fun j => decide (tabGet 0 (s.core c0.core).debt j = 8)
  let c := due.foldl (fun c _ => c.countForced) c0.lowFirst
  let k := (s.freeSaveSet c.core c.allBanks).getD 0
  let blk := s.freeBlock c.core
  let s0 := (s.setCore c.core (due.foldl CoreRec.refresh (s.core c.core))).serveRefs c.core (bankList c.allBanks)
  let s1 := (bankList c.allBanks).foldl (fun s j => s.saveBank c k j) s0
  let s2 := if blk = 0 then s1 else s1.writeBulk (blk - 1) 8 (c.blockImage (s.ownedSlots c.core c.id) k)
  let c' := (bankList c.allBanks).foldl (fun c j => c.setBank j (c.bank j).vacate) c
  s2.updCtx c.id fun _ => { c'.abandon with place := place, saveset := k, block := blk, pheld := false, claims := false, leaving := false }

/-- A store to a word of a block performs, in its order, or waits (R243, R307). -/
def State.poke (s : State) (p : BlockPoke) : State :=
  if s.blocked p.pa 8 || s.pokes.any fun q => decide (q.ctx = p.ctx) then { s with pokes := s.pokes ++ [p] }
  else s.writeCells p.pa 8 (s.readCells p.pa 8 &&& p.keep ||| p.set_)

/-- Those that wait are tried again. -/
def State.flushPokes (s : State) : State := if s.pokes = [] then s else s.pokes.foldl State.poke { s with pokes := [] }

/-- Change a word of the block of a context that is away, which its restore will read (R265, R274, R352): some bits stay, others are set. -/
def State.pokeBlock (s : State) (c : Context) (off keep set_ : Nat) : State :=
  if c.saved && decide (c.block ≠ 0) then s.poke { ctx := c.id, pa := c.block - 1 + off, keep := keep, set_ := set_ } else s

/-- A cause becomes pending in the block of a context that is away or halted (R352, R355, R367). -/
def State.pokePend (s : State) (id bits : Nat) : State := match s.findCtx id with
  | none => s
  | some c => s.pokeBlock c 48 (2 ^ 64 - 1) bits

/-- A translation's page as a register pins it. -/
def pinPage (va : Nat) (e : Page) : PinPage := { va := va / e.size * e.size, size := e.size, w := e.w }

/-- The translation of a segment's original row for a restored register (R144). -/
def State.rePinAt (s : State) (c : Context) (pin t : Nat) : Except Stop (Nat × Page) :=
  s.translateAs c.owner c.sup false (BitVec.ofNat 64 (pin + t * 0x400000)) .row 8192

/-- A translation has to wait (R283). -/
def isWait {α : Type} : Except Stop α → Bool
  | .error .wait => true
  | _ => false

/-- The pages of a restored register, when every segment of it still translates to its row (R144). -/
def State.rePin (s : State) (c : Context) (pin row : Nat) : List Nat → Option (List PinPage)
  | [] => some []
  | t :: ts =>
    match s.rePinAt c pin t with
    | .ok (pa, e) =>
      if pa / 2 ^ 13 % 2 ^ 26 = row + t * 0x200 then (s.rePin c pin row ts).map fun ps => pinPage (pin + t * 0x400000) e :: ps
      else none
    | .error _ => none

/-- A register described as OPEN has a translation to make that cannot go on now (R144, R283). -/
def State.rePinWaits (s : State) (c : Context) (d : Nat) : Bool :=
  decide (d % 4 = 1) && (List.range c.segs).any fun t => isWait (s.rePinAt c (fieldOf d 128 56) t)

/-- A register read back from its save rows, the first at base, and its descriptor d (R143, R144). -/
def State.loadReg (s : State) (c : Context) (base d : Nat) : RowReg :=
  let st := d % 4
  if st = 0 then RowReg.reset
  else
    let (latch, ms) := s.readLatch c.segs base
    match (if st = 1 then s.rePin c (fieldOf d 128 56) (fieldOf d 64 26) (List.range c.segs) else none) with
    | some pages => { (RowReg.ofDescriptor c.segs d .opened latch).markBeats ms with pinned := pages }
    | none => (RowReg.ofDescriptor c.segs d .revoked latch).markBeats ms

/-- A register of a bank read back at a restore (R357 step 2). -/
def State.restoreRow (s : State) (c : Context) (j i k d : Nat) : RowReg :=
  s.loadReg c (placedRow c.core j (i * c.segs) (511 - 3 * k)) d

/-- The meta area of a bank as it stands in its save rows. -/
def State.readMeta (s : State) (c : Context) (k j : Nat) : Nat :=
  (List.range 8).foldl (fun m i => m + s.readLoc (placedRow c.core j i (509 - 3 * k)) 8192 * 2 ^ (65536 * i)) 0

/-- One bank read back (R357 steps 2 and 3). -/
def State.restoreBank (s : State) (c : Context) (k j : Nat) : Bank :=
  let m := s.readMeta c k j
  let old := c.bank j
  let rows := (List.range c.nNames).foldl (fun t i => tabSet RowReg.reset t i (s.restoreRow c j i k (fieldOf m (8 * 2560 * i) 20480))) []
  let preds := (List.range 8).foldl (fun t p => tabSet 0 t p (BitVec.ofNat 16384 (fieldOf m (8 * (20480 + 2048 * p)) 16384))) []
  let irp := (List.range 4).foldl (fun t q => tabSet 0 t q (BitVec.ofNat 64 (fieldOf m (8 * (38976 + 8 * q)) 64) &&& 0xFFFFFFFFFFFF7FFF)) []
  let b0 : Bank := { old with rows := rows, preds := preds, irp := irp, slots := [], kname := [], pool := [] }
  (List.range 8).foldl (fun b n =>
    let w := fieldOf m (8 * (38912 + 8 * n)) 64
    if w % 2 = 0 then b
    else
      let b1 := b.bind n s.now
      match b1.bound n with
      | none => b1
      | some r => b1.setPool r
          { data := BitVec.ofNat 65536 (s.readLoc (placedRow c.core j n (510 - 3 * k)) 8192), tag := BitVec.ofNat 4 (w / 2), fm := BitVec.ofNat 2048 (fieldOf m (8 * (36864 + 256 * n)) 2048),
            fmc := BitVec.ofNat 8 (w / 2 ^ 8) }) b0

/-- Read a block word. -/
def blockWord (img off : Nat) : Nat := fieldOf img (8 * off) 64

/-- Bits kept of a staged field (R232). -/
def stagedBits (sel : Nat) (v : Word) : Word :=
  if sel ≤ 1 then v &&& 0xFFFFFFFFFFFFFF else if sel = 2 then v &&& 0x3FFF else if sel = 3 then v &&& 7
  else if sel ≤ 9 then v &&& 0x1FFFFFFFF else v

/-- The fields of a context that its block gives back (R357 step 4): reserved bits read 0 (R9), and every register is written, so
that no soft error is left (R369). -/
def Context.ofBlock (c0 : Context) (img : Nat) : Context :=
  let c := c0.movedTo (blockWord img 0)
  let r := fun i => blockWord img (64 + 8 * i)
  let w := fun i => BitVec.ofNat 64 (blockWord img (64 + 8 * i))
  let pend := blockWord img 48
  let galt := r 0x1F
  let shape := r 0x04
  { c with
    pc := BitVec.ofNat 64 (blockWord img 32 % 2 ^ 56)
    sup := (blockWord img 40).testBit 0
    ad := (blockWord img 40).testBit 1
    pend10 := pend.testBit 0
    pend11 := BitVec.ofNat 16 (pend / 2 ^ 16)
    pend30 := if pend.testBit 1 then some (c.pend30.getD 0) else none
    rm := BitVec.ofNat 2 (r 0), fz := (r 0).testBit 2, lt := (r 0).testBit 3
    fpsr := BitVec.ofNat 6 (r 1)
    win := BitVec.ofNat 8 (r 2 / 16 % 16 * 16)
    vcode := BitVec.ofNat 2 (r 3)
    nrow := shape % 2 ^ 15, ncol := shape / 2 ^ 16 % 2 ^ 15
    srem := BitVec.ofNat 32 (r 5), smax := BitVec.ofNat 15 (r 6), sord := BitVec.ofNat 32 (r 7)
    sbeg := BitVec.ofNat 56 (r 8), send := BitVec.ofNat 56 (r 9)
    lc := BitVec.ofNat 32 (r 0x0A), lcPend := (r 0x0A).testBit 63
    lbeg := BitVec.ofNat 56 (r 0x0B), lend := BitVec.ofNat 56 (r 0x0C)
    slip := slipOf (r 0x0D)
    gmBanks := shiftBanks (BitVec.ofNat 16 (r 0x0E)) (c.gmBase.toNat + 16 - r 0x0E / 2 ^ 16 % 16), gmSub := (r 0x0E).testBit 23
    rfth := rfthOf (r 0x10), fref := BitVec.ofNat 32 (r 0x11), mrep := w 0x12 &&& 0x7FFFFFF, mprog := w 0x13 &&& 0x1FFFFFFFFFFFF, wid := w 0x14
    tvec := BitVec.ofNat 56 (r 0x16 / 4 * 4), tpc := BitVec.ofNat 56 (r 0x17), tcause := BitVec.ofNat 13 (r 0x18)
    tval := w 0x19, tstat := BitVec.ofNat 3 (r 0x1A), tscr := w 0x1B, lcn := BitVec.ofNat 32 (r 0x1E)
    sib := if galt.testBit 0 then
        (c.sib.map fun b => { b with parked := galt.testBit 1, pc := BitVec.ofNat 64 (galt / 4 % 2 ^ 54 * 4), pend10 := pend.testBit 2 })
      else none
    mg := BitVec.ofNat 64 (blockWord img 320) &&& 0xFFFFFFFFFFFF3F7F, mseq := BitVec.ofNat 64 (blockWord img 328)
    staged := (List.range 22).foldl (fun t i =>
      tabSet (if i = 2 ∨ (4 ≤ i ∧ i ≤ 9) then 1 else 0) t i (stagedBits i (BitVec.ofNat 64 (blockWord img (336 + 8 * i))))) []
    scalars := (List.range 256).foldl (fun t i => tabSet 0 t i (BitVec.ofNat 64 (blockWord img (1024 + 8 * i)))) []
    bad := [] }

/-- The context as its block stands (R357): without a block, as it was saved (LOG 17). -/
def State.blockOf (s : State) (c : Context) : Context :=
  if c.block = 0 then c else c.ofBlock (s.readBulk (c.block - 1) 8)

/-- The partial row of a stopped MMF is read back (R272, R273, R357). -/
def State.restorePart (s : State) (c : Context) (k : Nat) : Option MmfFlight :=
  c.mmf.map fun m => if m.released ∨ m.noted ≠ m.progress then m else m.setPartial (BitVec.ofNat 65536 (fieldOf (s.readMeta c k m.bank) (8 * 40960) 65536))

/-- The keep rows whose last use ended while the stream was away go back (R261). -/
def Context.settleOwed (c : Context) : Context :=
  { c.owed.foldl (fun c e => c.setBank e.1 ((c.bank e.1).lastUse true e.2)) c with owed := [] }

/-- The rows of set k that the restore of bank j reads: what its meta area describes (R354, R357). -/
def State.restoredRows (s : State) (c : Context) (k j : Nat) : List Nat :=
  let m := s.readMeta c k j
  saveRows c.core k j c.segs ((List.range c.nNames).filter fun i => decide (fieldOf m (8 * 2560 * i) 20480 % 4 ≠ 0))
    ((List.range 8).filter fun n => decide (fieldOf m (8 * (38912 + 8 * n)) 64 % 2 = 1))

/-- The reads of a restore correct what they read (R368, R370): the block, and the rows. -/
def State.restoreReads (s : State) (c0 c : Context) : State :=
  let t := if c0.block = 0 then s else (List.range 8).foldl (fun t i => t.corrected (s.locOf (c0.block - 1 + 512 * i)) 512) s
  (bankList c.allBanks).foldl (fun t j => (s.restoredRows c c.saveset j).foldl (fun t r => t.corrected r 8192) t) t

/-- Restore a context (R357 steps 1 to 5): its banks are read back, and it is resident again. Issue resumes elsewhere. -/
def State.restoreContext (s : State) (c0 : Context) : State :=
  let c := s.blockOf c0
  let c' := (bankList c.allBanks).foldl (fun a j => a.setBank j (s.restoreBank c c.saveset j)) c
  (s.restoreReads c0 c).updCtx c0.id fun _ => { c'.settleOwed with mmf := s.restorePart c c.saveset, place := .resident, block := 0 }

end Sys2Proof.Machine
end

