-- ==== Sys2Proof/Machine/Ops.lean ====
section
/-! DEFINITION. The shared operations of instructions: ending a step (finish), trap entry (R43, R212, R363) and the return
from it (R227, R169), the iteration boundary (R115), branches (R117), trace records (R381) and halts (R377). -/

namespace Sys2Proof.Machine

/-- CYCLE moves on between two readings (LOG 13). -/
def State.tick (s : State) : State := { s with cycle := s.cycle + 1 + BitVec.ofNat 64 (Config.cycles s.now) }

/-- The stores of a trace record, as address, bytes and value, each at device scope (R381): a fault of one of them leaves none, and so
does a wait for a tier in T3 (R307). They wait behind no detent. -/
def State.traceStores (s : State) (owner : Word) : List (Nat × Nat × Nat) → Except Stop State
  | [] => .ok s
  | (va, n, v) :: t =>
    match s.translateAs owner true false (BitVec.ofNat 64 va) .write 1 with
    | .ok (pa, _) => if s.asleep pa then .error .wait else (s.writeCells pa n v).traceStores owner t
    | .error e => .error e

/-- A store of n bytes within its pieces of 512: a record at an aligned WPTR is one store of a whole sector (R381, R213). -/
def pieceStores (va n v : Nat) : List (Nat × Nat × Nat) :=
  (pieces va n).map fun p => (p.1, p.2, v / 2 ^ (8 * (p.1 - va)) % 2 ^ (8 * p.2))

/-- The 32 bytes of a record (R382). -/
def TraceRec.bytes (r : TraceRec) : Nat :=
  r.head % 2 ^ 64 + r.w8 % 2 ^ 64 * 2 ^ 64 + r.w16 % 2 ^ 64 * 2 ^ 128 + r.cycle % 2 ^ 64 * 2 ^ 192

/-- A trace record is written with its WPTR (R381). A WPTR below 64, or one not a multiple of 32, is taken as it is read: the spec does not say
who sets the first one, nor what becomes of such a value (DESIGN CHOICE, LOG 101). -/
def State.writeTrace (s : State) (r : TraceRec) : Except Stop State :=
  match s.translateAs r.owner true false (BitVec.ofNat 64 r.buf) .write 8 with
  | .error e => .error e
  | .ok (pa, _) =>
    if s.asleep pa then .error .wait else
    let wptr := s.readCells pa 8
    let wraps := s.readCells (pa + 8) 8
    let full := decide (r.len < wptr + 32)
    let at_ := if full then 64 else wptr
    s.traceStores r.owner (pieceStores (r.buf + at_) 32 r.bytes ++ (if full then [(r.buf + 8, 8, (wraps + 1) % 2 ^ 64)] else []) ++
      [(r.buf, 8, at_ + 32)])

/-- Try a trace record: one behind another of its context, or behind a walk that waits, stays in order; a fault discards it (R381). -/
def State.sendTrace (s : State) (r : TraceRec) : State :=
  if s.traces.any fun q => decide (q.ctx = r.ctx) then { s with traces := s.traces ++ [r] }
  else match s.writeTrace r with
    | .ok t => t
    | .error .wait => { s with traces := s.traces ++ [r] }
    | .error (.trap _ _ _) => s

/-- The trace records that wait are tried again, in order. -/
def State.flushTraces (s : State) : State :=
  if s.traces = [] then s else s.traces.foldl State.sendTrace { s with traces := [] }

/-- Emit a trace record of the running context when its tracing is on (R381, R382). -/
def State.emitTrace (s : State) (typ cause : Nat) (w8 w16 : Nat) : State :=
  let c := s.ctx
  if c.trc then
    let s1 := s.tick
    let sord := if c.stripping then c.sord.toNat else 0
    s1.sendTrace { ctx := c.id, owner := c.owner, buf := c.trcBuf, len := c.trcLen
                   head := typ + cause % 2 ^ 8 * 2 ^ 8 + sord * 2 ^ 32, w8 := w8, w16 := w16, cycle := s1.cycle.toNat }
  else s

/-- The save of the running context would have to wait (R356). -/
def State.haltWaits (s : State) : Bool := s.saveWaits (s.ctx.halts s.now)

/-- Halt the running context (R377): its lanes and its MMF stop, it is saved, and the halt is traced. -/
def State.haltNow (s : State) (reason : Nat) : State :=
  let s1 := s.emitTrace 4 reason (s.ctx.pc.toNat % 2 ^ 56) s.ctx.shapeWord
  s1.saveContext (s1.ctx.halts s.now) (.halted reason)

/-- Causes held and taken asynchronously (R37, R38). -/
def isAsync (cause : Nat) : Bool := decide (cause = 0x10 ∨ cause = 0x11 ∨ cause = 0x30)

/-- The control registers a trap entry writes whole (R43): STATUS, TPC, TCAUSE, TVAL, TSTAT and IRP. -/
def entryCtl : List Nat := [0x15, 0x17, 0x18, 0x19, 0x1A] ++ (List.range 64).map (0x40 + ·)

/-- The registers a trap entry writes (R43). -/
def Context.enter (c0 : Context) (cause : Nat) (val : Word) (bank : Nat) : Context :=
  let c := c0.mend entryCtl
  { c with
    tpc := c.pc.setWidth 56
    tcause := BitVec.ofNat 13 (cause + 2 ^ 8 * bank + 2 ^ 12 * boolNat (isAsync cause))
    tval := val
    tstat := BitVec.ofNat 3 (boolNat c.sup + 2 * boolNat c.ad + 4 * boolNat c.anyResume)
    sup := true
    ad := true
    pc := c.tvec.setWidth 64
    sibHeld := c.sib.isSome
    gbar := false
    parked := none
    asking := []
    detentWait := none
    inv := false
    stall := false
    yielding := false
    sib := c.sib.map Sibling.abandon }

/-- The instruction waits: nothing of it has happened, and it issues again (R98, R246). -/
def State.hold (s : State) : State := s.withCtx { s.ctx with stall := true }

/-- Take a trap (R43). A synchronous one at TVEC is a double fault, which halts the context (R363) once it can be saved (R356). -/
def State.takeTrap (s : State) (cause : Nat) (val : Word) (bank : Option Nat) : State :=
  let c := s.ctx
  if isAsync cause = false ∧ c.pc = c.tvec.setWidth 64 then (if s.haltWaits then s.hold else s.haltNow 5)
  else
    let c1 := (c.stopLanes s.now).stopFold true
    (s.withCtx (c1.enter cause val (bank.getD (lowBank c.gmBanks)))).emitTrace 3 cause (c.pc.toNat % 2 ^ 56) val.toNat

/-- The loop registers that the iteration boundary of the word at pc uses (R115). -/
def Context.loopCtl (c : Context) : List Nat :=
  (if c.counting && decide (c.pc = c.lend.setWidth 64) then [0x0A, 0x0B, 0x0C] ++ (if c.lcPend then [0x1E] else []) else []) ++
    if c.stripping && decide (c.pc = c.send.setWidth 64) then [0x05, 0x06, 0x07, 0x08, 0x09] else []

/-- A double-bit error of a loop register, met at the iteration boundary (R369). -/
def Context.loopError (c : Context) : Option Word :=
  if c.bad = [] then none
  else (c.loopCtl.find? fun i => tabGet false c.bad (256 + i)).map fun i => 0xA000000000000000 + BitVec.ofNat 64 i

/-- The end of an instruction: its effect, its trap, or a wait. A word at a loop's end whose loop registers are in error traps. -/
def State.finish (s : State) (r : Except Stop State) : Host.Outcome State Fault Refusal :=
  match r with
  | .ok t =>
    if t.ctx.stall then .next t
    else match s.ctx.loopError with
      | none => .next t
      | some v => .next (s.takeTrap 0x0D v none)
  | .error (.trap c v b) => .next (s.takeTrap c v b)
  | .error .wait => .next s.hold

/-! Loops and branches. -/

/-- grant (R120). -/
def Context.grant (c : Context) : Context :=
  let g := min c.srem.toNat c.smax.toNat
  { c.mend [0x04, 0x05] with nrow := 1, ncol := g, srem := c.srem - BitVec.ofNat 32 g }

/-- The counted loop's part of the boundary (R115, R116). -/
def Context.countDown (c : Context) : Context :=
  { c.mend [0x0A] with lc := if c.lcPend then c.lcn else c.lc - 1, lcPend := false }

/-- The iteration boundary at the word just issued (R115): the context after it, and whether a strip has started. -/
def Context.boundary (c : Context) : Context × Bool :=
  let w := c.pc
  let hitC := c.counting && decide (w = c.lend.setWidth 64)
  let hitS := c.stripping && decide (w = c.send.setWidth 64)
  let cont := fun (c : Context) => ({ c with pc := w + 4 }, false)
  let doC := fun (c : Context) (k : Context → Context × Bool) =>
    let d := c.countDown
    if d.lc ≠ 0 then ({ d with pc := d.lbeg.setWidth 64 }, false) else k d
  let doS := fun (c : Context) (k : Context → Context × Bool) =>
    if c.srem ≠ 0 then
      let d := c.grant
      ({ d.mend [0x07] with sord := d.sord + 1, pc := d.sbeg.setWidth 64 + 4 }, true)
    else k { c.mend [0x09] with send := 0 }
  match hitC, hitS with
  | false, false => cont c
  | true, false => doC c cont
  | false, true => doS c cont
  | true, true =>
    if c.sbeg.toNat + 4 ≤ c.lbeg.toNat then doC c (fun d => doS d cont) else doS c (fun d => doC d cont)

/-- A strip has started (R120, R121): the ordering interval closes, a HALT at a strip start strikes, a record is emitted. -/
def State.stripStarted (s : State) : State :=
  let c := s.ctx
  let s1 := { s with
    ctx := { c with haltReq := if c.haltReq = some 2 then some 4 else c.haltReq }
    posted := s.posted.map fun (p : Posted) => if p.ctx = c.id then { p with before := true } else p }
  s1.emitTrace 1 0 c.sbeg.toNat c.shapeWord

/-- The instruction at pc has issued: continue at the next word, through the iteration boundary (R115). -/
def State.advance (s : State) : State :=
  let (c, strip) := s.ctx.boundary
  let s1 := s.withCtx { c with stall := false, parked := none, asking := [], detentWait := none, inv := false }
  if strip then s1.stripStarted else s1

/-- The word at pc is the end word of an active loop (R114). -/
def Context.atLoopEnd (c : Context) : Bool :=
  (c.counting && decide (c.pc = c.lend.setWidth 64)) || (c.stripping && decide (c.pc = c.send.setWidth 64))

/-- An address lies in the body of the counted loop; of the strip loop (R113, R119). -/
def Context.inCounted (c : Context) (a : Word) : Bool := decide (c.lbeg.toNat ≤ a.toNat ∧ a.toNat ≤ c.lend.toNat)
def Context.inStrip (c : Context) (a : Word) : Bool := decide (c.sbeg.toNat + 4 ≤ a.toNat ∧ a.toNat ≤ c.send.toNat)

/-- Continue at an address; fetch sees what an earlier FENCE covered when the transfer is a branch or JR (R75). -/
def Context.goto (c : Context) (target : Word) : Context := { c with pc := target, stall := false }
def Context.resync (c : Context) : Context := { c with syncAt := max c.syncAt c.fencedAt }

/-- A taken B or BR (R117). -/
def Context.branchTo (c : Context) (target : Word) : Context :=
  let outC := c.counting && c.inCounted c.pc && !c.inCounted target
  let outS := c.stripping && c.inStrip c.pc && !c.inStrip target
  let c1 := if outC then { c.mend [0x0A] with lc := 0, lcPend := false } else c
  let c2 := if outS then { c1.mend [0x05, 0x09] with send := 0, srem := 0 } else c1
  (c2.goto target).resync

/-- The target of a word offset (R81, R108). -/
def branchTarget (pc : Word) (w off : Nat) : Word := pc + BitVec.ofInt 64 (4 * toSigned w off)

/-! Shapes of scalar instructions. -/

/-- An instruction of scalars and control registers alone: name checks, soft errors, its effect, the next word. -/
def scalarOp (s : State) (names : List (List NameClass × NameF)) (reads : List NameF) (ctl : List Nat)
    (f : Context → Context) : Host.Outcome State Fault Refusal :=
  s.finish do
    s.ctx.checkNames names
    s.ctx.sound reads ctl (names.map Prod.snd)
    return (s.withCtx (f s.ctx)).advance

/-- d := f a b. -/
def binaryOp (d a b : NameF) (s : State) (f : Word → Word → Word) : Host.Outcome State Fault Refusal :=
  scalarOp s [(clsS, d), (clsS, a), (clsS, b)] [a, b] [] fun c => c.write d (f (c.read a) (c.read b))

/-- d := f a. -/
def unaryOp (d a : NameF) (s : State) (f : Word → Word) : Host.Outcome State Fault Refusal :=
  scalarOp s [(clsS, d), (clsS, a)] [a] [] fun c => c.write d (f (c.read a))

/-- d := f d a b. -/
def ternaryOp (d a b : NameF) (s : State) (f : Word → Word → Word → Word) : Host.Outcome State Fault Refusal :=
  scalarOp s [(clsS, d), (clsS, a), (clsS, b)] [d, a, b] [] fun c => c.write d (f (c.read d) (c.read a) (c.read b))

/-- The control registers scalar floating point uses (R103). -/
def fpCtl : List Nat := [0x00, 0x01]

/-- d := the result of f, its flags ORed into FPSR (R103). -/
def floatOp (d a : NameF) (s : State) (names : List (List NameClass × NameF)) (reads : List NameF)
    (f : Context → Word × FpFlags) : Host.Outcome State Fault Refusal :=
  scalarOp s ((clsS, d) :: (clsS, a) :: names) reads fpCtl fun c => ((c.write d (f c).1).orFlags (f c).2)

/-! Return from a trap. -/

/-- The word at a virtual address as a fetch sees it (R75): the value in memory, or one that a write replaced since the
stream's last synchronisation. -/
def State.fetchWord (s : State) (va : Word) : Except Stop Nat := do
  require (decide (va.toNat % 4 = 0)) 0x0F va
  let (pa, _) ← s.translate false va .exec 4
  waitUnless (!s.blocked pa 4)
  match s.markCause (s.locOf pa) 4 with
  | some c => trapS c va
  | none =>
    let loc := s.locOf pa
    let cur := s.readLoc loc 4
    return s.choose 6 0 cur (pastValues (fun e => decide (s.ctx.syncAt < e.at_)) loc 4 s.writes cur)

/-- The instruction in flight that the valid IRP entry e of slot q names (R169): re-decoded from its word, with the inputs the stop
has recorded for that slot; with the current ones where it has recorded another instruction or none. An entry whose word is no
vector instruction of a slot, or whose fetch traps, starts nothing (LOG 19). -/
def State.resumeEntry (s : State) (c : Context) (p : Word) (j q : Nat) (e : Word) : Option InFlight :=
  let pc := p - BitVec.ofNat 64 (4 * (e.toNat / 2 ^ 32))
  match s.fetchWord pc with
  | .error _ => none
  | .ok w => (decode (BitVec.ofNat 32 w)).bind fun i => (slotForm i).map fun f =>
      let x := match tabFind (c.bank j).stopped q with
        | some r => if r.instr = i then r else f.issue i c s.now j
        | none => f.issue i c s.now j
      { x with pc := pc, next := e.toNat / 2 ^ 16 % 2 ^ 15 * x.ncol + e.toNat % 2 ^ 15 }

/-- The fetch of the word that a valid IRP entry names, counted back from p, has to wait (R243, R283). -/
def State.entryWaits (s : State) (p e : Word) : Bool :=
  e.getLsbD 31 && isWait (s.fetchWord (p - BitVec.ofNat 64 (4 * (e.toNat / 2 ^ 32))))

/-- The pc from which the IRP entries of a bank count back (R169). -/
def Context.pcOf (c : Context) (j : Nat) : Word :=
  if c.gmBanks.getLsbD j then c.pc else match c.sib with
    | some b => b.pc
    | none => c.pc

/-- Some instruction that IRP names cannot be fetched yet: its re-issue waits (R169). -/
def State.resumeWaits (s : State) (c : Context) : Bool :=
  (bankList c.allBanks).any fun j => (List.range 4).any fun q => s.entryWaits (c.pcOf j) (tabGet 0 (c.bank j).irp q)

/-- A context away can be read back now: the stores to its block have performed and it can be read, and its save rows can (R243, R307,
R357), no translation of a register to be restored waits (R144, R283), and no fetch of an instruction that IRP names (R169). -/
def State.restorable (s : State) (c0 : Context) : Bool :=
  let c := s.blockOf c0
  let t := s.withCtx c
  (s.pokes.all fun p => decide (p.ctx ≠ c0.id)) && !(decide (c0.block ≠ 0) && s.blockWaits (c0.block - 1)) && (bankList c.allBanks).all fun j =>
    let m := s.readMeta c c.saveset j
    !((s.restoredRows c c.saveset j).any fun r => s.touches r 8192) &&
      ((List.range c.nNames).all fun i => !s.rePinWaits c (fieldOf m (8 * 2560 * i) 20480)) &&
      (List.range 4).all fun q => !t.entryWaits (c.pcOf j) (BitVec.ofNat 64 (fieldOf m (8 * (38976 + 8 * q)) 64))

/-- The valid entries of IRP have been re-issued: they read 0 (R169, R387). -/
def Bank.clearValid (b : Bank) : Bank :=
  { b with irp := b.irp.filter fun e => !e.2.getLsbD 31, stopped := [] }

/-- The valid entries of one bank hold its slots again, in slot order (R169). -/
def State.resumeBank (s : State) (p : Word) (c : Context) (j : Nat) : Context :=
  let b := c.bank j
  let es := (List.range 4).filterMap fun q =>
    let e := tabGet 0 b.irp q
    if e.getLsbD 31 then s.resumeEntry c p j q e else none
  c.setBank j { b.clearValid with slots := b.slots ++ es }

/-- The valid entries of a bank do not find their slots free: a handler's work is still in some (R164). -/
def Bank.crowded (b : Bank) : Bool := decide (4 < b.slots.length + (b.irp.filter fun e => e.2.getLsbD 31).length)

/-- The IRP entries of every bank re-issue, each sub-gang's counted back from its own pc (R169, R212), once a handler's work has left
them their slots (R164). Eager lanes finish them at once (LOG 12). -/
def State.resumeBanks (s : State) (c : Context) : Context :=
  let js := bankList c.allBanks
  let c1 := if js.any fun j => (c.bank j).crowded then c.drain s.now js else c
  let c2 := js.foldl (fun a j => s.resumeBank (c.pcOf j) a j) c1
  if s.eager then c2.drain s.now js else c2

/-- A stopped MMF goes on; an MPROG the handler has changed from what the stop noted leaves C open (R273). What a throttle or a lost relay
has discarded in the meantime changes no MPROG, and is computed again (R264). -/
def Context.resumeFold (c : Context) : Context :=
  match c.mmf with
  | none => { c with mprog := c.mprog &&& 0xFFFFFFFFFFFF }
  | some m =>
    { c with
      mprog := c.mprog &&& 0xFFFFFFFFFFFF
      mmf := if m.stopped then
          some { m with stopped := false, byTrap := false, spoiled := m.spoiled || decide (c.mprog ≠ m.noted) }
        else some m }

/-- Issue resumes at ERET (R227): IRP entries, the MMF and the sibling. -/
def State.resumeWork (s : State) (c : Context) : Context := { (s.resumeBanks c).resumeFold with sibHeld := false }

/-- Issue resumes after a save (R357 step 6): what the stop recorded goes on, and a trap frame is as it was (R358, LOG 23). -/
def State.resumeSaved (s : State) (c : Context) : Context :=
  let c1 := s.resumeBanks c
  let c2 := (bankList c.allBanks).foldl (fun c j => c.setBank j { c.bank j with
    irp := (c.bank j).frame, stopped := (c.bank j).frameStopped, frame := [], frameStopped := [] }) c1
  if c2.mmf.any MmfFlight.byTrap then c2 else c2.resumeFold

/-- The interrupted code is the next to issue, in its mode (R227). -/
def State.afterTrap (s : State) : State :=
  let c := s.ctx
  s.withCtx { c.mend [0x15] with sup := c.tstat.getLsbD 0, ad := c.tstat.getLsbD 1, pc := c.tpc.setWidth 64, stall := false }

/-- The effect of ERET after its checks (R227). -/
def State.returnFromTrap (s : State) : State := s.afterTrap.withCtx (s.afterTrap.resumeWork s.afterTrap.ctx)

/-- The control registers ERET uses (R227, R369): MPROG, TPC, TSTAT, GALT and IRP. -/
def Context.eretCtl (c : Context) : List Nat :=
  [0x13, 0x17, 0x1A, 0x1F] ++ (bankList c.allBanks).flatMap fun j => (List.range 4).map fun q => 0x40 + 4 * j + q

end Sys2Proof.Machine
end

