-- ==== Sys2Proof/Machine/CopyUnit.lean ====
section
/-! DEFINITION. The copy units (R239 to R251, R312 to R323): the read-ahead window, source reads, fill records, what a landing meets,
and the ends of a copy. -/

namespace Sys2Proof.Machine

/-- The physical address a copy writes va through (R237): none on a page that an invalidation has covered (R251, R289). -/
def CopySlot.paOf (c : CopySlot) (va : Int) : Option Nat :=
  (c.pages.find? fun p => p.live && decide ((p.va : Int) ≤ va ∧ va < p.va + p.size)).map fun p => p.pa + (va - p.va).toNat

/-- The destination page a copy writes va through. -/
def CopySlot.pageAt (q : CopySlot) (va : Nat) : Option DestPage := q.pages.find? fun p => decide (p.va ≤ va ∧ va < p.va + p.size)

/-! The ends of a copy. -/

/-- The bytes in flight above the watermark take the old or the landed value (R248, R250, R314). -/
def State.settleAhead (s : State) (c : CopySlot) : State :=
  if c.ahead = [] then s
  else
    (c.ahead.zipIdx 0).foldl (fun s (d, i) =>
      (List.range (c.flying i)).foldl (fun s (j : Nat) =>
        match c.paOf (c.dst (c.next + i) + j) with
        | some pa =>
          let loc := s.locOf pa
          let new := d / 2 ^ (8 * j) % 256
          if s.choose 7 loc (memByte s.mem loc).toNat [new] = (memByte s.mem loc).toNat then s
          else s.writeLoc loc 1 new
        | none => s) s) s

/-- Bytes stored through the alias are remembered only while a copy in flight may still land on them (R244). -/
def State.dropMurk (s : State) : State :=
  if s.murk = [] then s else { s with murk := s.murk.filter fun e => decide (s.inFlight e.1 ≠ []) }

/-- What a slot has read and not landed is gone. -/
def CopySlot.emptied (c : CopySlot) : CopySlot :=
  { c with window := [], ahead := [], moved := 0, fetched := 0, records := [], srcPages := [], runEnd := 0, doom := none }

/-- The decompressors forget the records of slots. -/
def State.leaveQueues (s : State) (gone : Nat × Nat → Bool) : State :=
  (s.stackTab.filter fun e => e.2.decomp.any gone).foldl (fun s e =>
    s.setStack e.1 { e.2 with decomp := e.2.decomp.filter fun q => !gone q }) s
def State.leaveQueue (s : State) (core n : Nat) : State := s.leaveQueues fun e => decide (e = (core, n))

/-- The sectors that hold a byte of G at or above the watermark (R250), from the elements that have not landed. -/
def State.sectorsAbove (s : State) (c : CopySlot) : List Nat :=
  (List.range (c.total - c.next)).flatMap fun i =>
    let e := c.next + i
    let lo := max (c.dst e) c.wm
    let hi := c.dst e + c.esize
    let first := lo / 32
    (List.range ((hi + 31) / 32 - first).toNat).filterMap fun (k : Nat) =>
      (c.paOf (max lo ((first + k) * 32))).map fun pa => s.locOf pa / 32

/-- The effect of CCANCEL on a running or faulted slot (R250). -/
def State.cancelSlot (s : State) (core n : Nat) : State :=
  let c := s.slot core n
  if c.state = 1 ∨ c.state = 2 then
    let s1 := s.settleAhead c
    let s2 := { s1 with marks := (s.sectorsAbove c).foldl (fun m q => tabPut m q .cancelled) s1.marks }
    ((s2.setSlot core n { c.emptied with
      state := 4, start := c.next, wm := c.dhi.toNat, installed := false, cores := [], pages := [] }).leaveQueue core n).dropMurk
  else s

/-- A fault of a copy at its next element (R248): the slot freezes and 0x11 becomes pending for its owner, in its block too while it
is away (R352). -/
def State.faultCopy (s : State) (core n cause va : Nat) (source : Bool) : State :=
  let c := s.slot core n
  let s1 := s.settleAhead c
  let s2 := ((s1.setSlot core n { c.emptied with
    state := 2, cause := BitVec.ofNat 8 cause, start := c.next, faultVa := va % 2 ^ 56, faultSrc := source }).leaveQueue core n).dropMurk
  match c.owner with
  | none => s2
  | some id => (s2.updCtx id fun x => { x with pend11 := x.pend11 ||| BitVec.ofNat 16 (2 ^ n) }).pokePend id (2 ^ (16 + n))

/-! The read-ahead window. -/

/-- A slot whose copy may go on: it runs, its tier is not in T3 (R347), and its stream's earlier stores have performed (R237). -/
def State.copyGoes (s : State) (core : Nat) (q : CopySlot) : Bool :=
  decide (q.state = 1) && decide ((s.tier (tierOf core)).thermal ≠ 3) &&
    s.posted.all fun p => !(decide (q.owner = some p.ctx) && decide (p.at_ < q.born))

/-- An address range of another copy's detent, of an older copy only (R243, R247). -/
def State.olderHolds (s : State) (ticket pa n : Nat) : Bool :=
  s.allSlots.any fun q => decide (q.2.2.ticket < ticket) && s.guards q.2.2 pa n

/-- Bytes of a record of a class (R319). -/
def recordSize (dc : Nat) : Nat := 2048 * dc

/-- Bytes of an element in the read-ahead buffer. -/
def CopySlot.readSize (q : CopySlot) : Nat := if q.dc = 0 then q.esize else recordSize q.dc

/-- Bytes the slot has still to read, the ones in its window included. -/
def CopySlot.left (q : CopySlot) : Nat := (q.total - q.next) * q.readSize

/-- The read-ahead buffer of a copy unit, and what each running slot may hold of it (R315). -/
def copyBuffer : Nat := 65536
def slotBuffer : Nat := 4096

/-- The bytes of the buffer that a running slot may hold (R315): 4 KiB, and what older slots leave of the remainder. -/
def CoreRec.share (r : CoreRec) (q : CopySlot) : Nat :=
  let running := (r.slots.map Prod.snd).filter fun x => decide (x.state = 1)
  let rest := copyBuffer - slotBuffer * running.length
  let older := (running.filter fun x => decide (x.ticket < q.ticket)).foldl (fun n x => n + (x.left - slotBuffer)) 0
  slotBuffer + (rest - older)

/-- A window that ends at an element. -/
def capWindow (bound : Nat) : List (Nat × Nat) → List (Nat × Nat)
  | [] => []
  | e :: t => if bound ≤ e.2 then [(e.1, bound)] else e :: capWindow bound t

/-- The elements read that may be in flight: they have left the buffer (R314). -/
def CopySlot.flown (q : CopySlot) : Nat := min q.ahead.length ((copyFlight + q.esize - 1) / max 1 q.esize)

/-- A slot holds no more than k elements from the next one on, but for those in flight: what it has read beyond them is dropped, and read
when it comes into the window again (R315). -/
def CopySlot.narrow (q : CopySlot) (k : Nat) : CopySlot :=
  let m := max k q.flown
  let w := q.window.filter fun e => decide (q.next < e.2)
  if w.all fun e => decide (e.2 ≤ q.next + m) then { q with window := w }
  else
    { q with
      window := capWindow (q.next + m) w
      ahead := q.ahead.take m
      records := q.records.take (m - q.ahead.length)
      fetched := if q.next + q.ahead.length + q.records.length < q.next + m then q.fetched else 0 }

/-- The window reaches up to an element from now on. -/
def CopySlot.widen (q : CopySlot) (now bound : Nat) : CopySlot :=
  if decide (q.next < bound) && q.window.all fun e => decide (e.2 < bound) then { q with window := q.window ++ [(now, bound)] } else q

/-- The last of a slot's entries leaves a queue. -/
def dropEntry (e : Nat × Nat) (l : List (Nat × Nat)) : List (Nat × Nat) := (l.reverse.erase e).reverse

/-- The window of a running slot is its share of the buffer, one element at least (R315): it shrinks as other slots start, and the records it
drops leave the decompressors' queues. -/
def State.admitSlot (s : State) (core n : Nat) : State :=
  let q := s.slot core n
  if q.state = 1 then
    let k := max 1 ((s.core core).share q / max 1 q.readSize)
    let q1 := q.narrow k
    let gone := (q.records.drop q1.records.length).filter fun x => !x.taken
    let s1 := gone.foldl (fun s x => s.setStack x.stack { s.stack x.stack with decomp := dropEntry (core, n) (s.stack x.stack).decomp }) s
    s1.setSlot core n (q1.widen s.now (min q.total (q.next + k)))
  else s

/-- The windows of a core's slots follow their shares of the buffer, in ticket order (R315). -/
def State.admitReads (s : State) (core : Nat) : State :=
  (((s.core core).slots.foldr (insertBy fun e => e.2.ticket) []).map Prod.fst).foldl (fun s n => s.admitSlot core n) s

/-- The step at which an element entered the window; none while it is not in it. -/
def CopySlot.entered (q : CopySlot) (e : Nat) : Option Nat := (q.window.find? fun w => decide (e < w.2)).map Prod.fst

/-! Source reads. -/

/-- A source page rule (R252, R322): the compression class a page must have, and whether device memory is allowed. -/
structure SourceRule where
  cc : Nat
  device : Bool

/-- Why a copy's element does not go on. -/
inductive CopyStop where
  | wait
  | fault (cause va : Nat)

/-- The 64 KiB pages of n bytes at va, as the first byte in each. -/
def pageStarts (va n : Nat) : List Nat := (List.range ((va % 2 ^ 16 + n + 2 ^ 16 - 1) / 2 ^ 16)).map fun i => max va (va / 2 ^ 16 * 2 ^ 16 + 2 ^ 16 * i)

/-- The source page that holds va, among those translated. -/
def sourceAt (ps : List SourcePage) (va : Nat) : Option SourcePage := ps.find? fun p => decide (p.va ≤ va ∧ va < p.va + p.size)

/-- The pages of these source addresses, translated (R251). -/
def State.sourcePages (s : State) (q : CopySlot) (ps : List SourcePage) : List Nat → Except Stop (List SourcePage)
  | [] => .ok ps
  | va :: t =>
    if (sourceAt ps va).isSome then s.sourcePages q ps t
    else match s.translateAs q.token q.sup false (BitVec.ofNat 64 va) .read 1 with
      | .error e => .error e
      | .ok (_, e) => s.sourcePages q ({ va := va / e.size * e.size, pa := e.frame, size := e.size, cc := e.cc } :: ps) t

/-- The source pages of these elements of a run, and the fault of the first that does not translate, with its lowest element (R251). -/
def State.runPages (s : State) (q : CopySlot) : List Nat → List SourcePage → Except Stop (List SourcePage × Option (Nat × Nat × Nat))
  | [], ps => .ok (ps, none)
  | e :: t, ps =>
    if q.src e < 0 then .ok (ps, some (e, 0x0C, wrapInt 64 (q.src e)))
    else match s.sourcePages q ps (pageStarts (q.src e).toNat q.readSize) with
      | .error (.trap k v _) => .ok (ps, some (e, k, v.toNat))
      | .error .wait => .error .wait
      | .ok ps' => s.runPages q t ps'

/-- The elements of e's run from e on. -/
def CopySlot.runFrom (q : CopySlot) (e : Nat) : List Nat :=
  (List.range (min q.total ((e / q.count 0 + 1) * q.count 0) - e)).map (e + ·)

/-- With ATTR.PF a page request may be posted for an absent page of the next run (R253, R288). -/
def State.prefetchRun (s : State) (q : CopySlot) (e : Nat) : State :=
  let n := (e / q.count 0 + 1) * q.count 0
  match s.binding q.token with
  | some (asid, _) =>
    if q.field 3 / 4 % 2 = 1 ∧ n < q.total then
      (q.runFrom n).foldl (fun s e => (pageStarts (q.src e).toNat q.readSize).foldl (fun s va =>
        match s.pageOf q.token va with
        | .error (.trap 0x08 _ _) => if 0 ≤ q.src e ∧ va < 2 ^ 56 ∧ Config.freeBit s.now 25 va then s.postRequest asid (va / 2 ^ 16) else s
        | _ => s) s) s
    else s
  | none => s

/-- Before the first element of a run is read, every source page of the run is translated (R251). None while a walk waits. -/
def State.openRun (s : State) (core n e : Nat) : Option State :=
  let q := s.slot core n
  if e < q.runEnd then some s
  else match s.runPages q (q.runFrom e) [] with
    | .error _ => none
    | .ok (ps, d) =>
      let s1 := s.setSlot core n { q with srcPages := ps, doom := d, runEnd := min q.total ((e / q.count 0 + 1) * q.count 0) }
      some (s1.prefetchRun q e)

/-- A write a copy's read cannot precede: the landing of an older copy, whose byte it waited for (R241, R243), or a store its stream
posted before the CGO (R237). -/
def CopySlot.follows (q : CopySlot) (w : Overwritten) : Bool := match w.by_ with
  | .copy t => decide (t < q.ticket)
  | .store c a => decide (q.owner = some c) && decide (a < q.born)
  | .other => false

/-- The values the byte at loc has had since a step, for a copy's read (R240). -/
def State.readable (s : State) (q : CopySlot) (since loc cur : Nat) : List Nat :=
  pastValues (fun w => decide (since ≤ w.at_)) loc 1
    (s.writes.takeWhile fun w => !(decide (w.loc ≤ loc ∧ loc < w.loc + w.n) && q.follows w)) cur

/-- Where a source address lies, and the compression class of its page: as translated for the run, or anew (R251). -/
def State.sourcePa (s : State) (q : CopySlot) (va : Nat) : Except CopyStop (Nat × Nat) :=
  if 2 ^ 56 ≤ va then .error (.fault 0x0C va)
  else match sourceAt q.srcPages va with
    | some p => if s.backed false (p.pa + (va - p.va)) then .ok (p.pa + (va - p.va), p.cc) else .error (.fault 0x0C va)
    | none => match s.translateAs q.token q.sup false (BitVec.ofNat 64 va) .read 1 with
      | .error .wait => .error .wait
      | .error (.trap k _ _) => .error (.fault k va)
      | .ok (pa, e) => .ok (pa, e.cc)

/-- One source piece: past older detents, unmarked; each byte read at some moment since its element entered the window (R240,
R315). -/
def State.readPiece (s : State) (q : CopySlot) (since : Nat) (rule : Option SourceRule) (va n : Nat) : Except CopyStop Nat := do
  let (pa, cc) ← s.sourcePa q va
  if (rule.any fun r => decide (cc ≠ r.cc) || (!r.device && decide (spaceOf pa = .device))) then .error (.fault 0x09 va)
  else if s.olderHolds q.ticket pa n || s.asleep pa then .error .wait
  else
    let loc := s.locOf pa
    match (List.range n).findSome? fun i => (s.markCause (loc + i) 1).map fun k => (k, i) with
    | some (k, i) => .error (.fault k (va + i))
    | none =>
      .ok ((List.range n).foldr (fun i acc =>
        let cur := s.readLoc (loc + i) 1
        acc + s.choose 11 (va + i) cur (s.readable q since (loc + i) cur) * 2 ^ (8 * i)) 0)

/-- The bytes at a source address, piece by piece. -/
def State.readSource (s : State) (q : CopySlot) (since : Nat) (rule : Option SourceRule) (va : Nat) : List (Nat × Nat) → Except CopyStop Nat
  | [] => .ok 0
  | (a, n) :: ps => do
    let x ← s.readPiece q since rule a n
    let y ← s.readSource q since rule va ps
    return x * 2 ^ (8 * (a - va)) + y

/-- The element whose source is read next. -/
def CopySlot.readNext (q : CopySlot) : Nat := q.next + q.ahead.length + q.records.length

/-- A copy's source fault strikes once every earlier element has landed (R248). -/
def State.sourceStop (s : State) (core n : Nat) (r : CopyStop) : State :=
  let q := s.slot core n
  match r with
  | .wait => s
  | .fault k va => if q.ahead = [] ∧ q.records = [] then s.faultCopy core n k va true else s

/-- The stack whose decompressor expands element e: that of the destination core, as the element is read (R323). -/
def State.decompStack (s : State) (core : Nat) (q : CopySlot) (e : Nat) : Nat :=
  ((q.paOf (q.dst e)).map fun pa => stackOf (coreOfLoc (s.locOf pa))).getD (stackOf core)

/-- The element at e of a slot is read, or its fill record, which joins the queue of a decompressor (R240, R323). -/
def State.readElement (s : State) (core n e since : Nat) : State :=
  let q := s.slot core n
  match q.doom with
  | some (x, k, va) => if x = e then s.sourceStop core n (.fault k va) else read q
  | none => read q
where
  read (q : CopySlot) : State :=
    let va := (q.src e).toNat
    match s.readSource q since (if q.dc = 0 then none else some ⟨q.dc, false⟩) va (pieces va q.readSize) with
    | .error r => s.sourceStop core n r
    | .ok v =>
      let s := (pieces va q.readSize).foldl (fun s p => match s.sourcePa q p.1 with
        | .ok (pa, _) => s.corrected (s.locOf pa) p.2
        | .error _ => s) s
      if q.dc = 0 then
        s.setSlot core n { q with ahead := q.ahead ++ [v], fetched := 0, front := if q.ahead = [] then s.now else q.front }
      else
        let k := s.decompStack core q e
        let s1 := s.setSlot core n { q with records := q.records ++ [{ bits := v, at_ := s.now, taken := false, row := none, stack := k }], fetched := 0 }
        let r := s1.stack k
        s1.setStack k { r with decomp := r.decomp ++ [(core, n)] }

/-- A record as R321 judges it, and its row when it is not escaped (R319, R320). -/
def recordRow (dc rec : Nat) : Option (Option Nat) :=
  let size := recordSize dc
  let cls := rec % 4
  let esc := rec.testBit 2
  let nz := rec / 2 ^ 3 % 2 ^ 13
  let raw := rec / 2 ^ 16 % 2 ^ 48
  let bitmap := rec / 2 ^ 64 % 2 ^ 8192
  if cls ≠ dc then none
  else if esc then some none
  else if raw ≠ 0 ∨ size - 1032 < nz ∨ popCount 8192 bitmap ≠ nz ∨ rec / 2 ^ (8 * (1032 + nz)) % 2 ^ (8 * (size - 1032 - nz)) ≠ 0 then none
  else
    let stored := rec / 2 ^ (8 * 1032)
    let r := (List.range 8192).foldl (fun (acc : Nat × Nat) i =>
      if bitmap.testBit i then (acc.1 + acc.2 % 256 * 2 ^ (8 * i), acc.2 / 256) else acc) (0, stored)
    some (some r.1)

/-- The rows at the front of a slot's records are ready to land. -/
def CopySlot.collect (q : CopySlot) (now : Nat) : CopySlot :=
  { q with front := if q.ahead = [] then now else q.front
           ahead := q.ahead ++ (q.records.takeWhile fun r => r.row.isSome).filterMap FillRecord.row
           records := q.records.dropWhile fun r => r.row.isSome }

/-- The bytes of a turn of a copy unit (R313). -/
def copyPiece : Nat := 256

/-- The slot has an element to read that has come into its window. -/
def State.wantsRead (s : State) (core n : Nat) : Bool :=
  let q := s.slot core n
  (q.entered q.readNext).isSome && s.copyGoes core q && decide (q.readNext < q.total)

/-- The raw row that a slot has to read: that of its first record, when it is an escaped one that has been taken and has no row yet (R322). -/
def CopySlot.rawRow (q : CopySlot) : Option (FillRecord × Nat) := match q.records with
  | [] => none
  | x :: _ => if x.taken && x.row.isNone && decide (recordRow q.dc x.bits = some none) then some (x, x.bits / 2 ^ 16 % 2 ^ 48 * 2 ^ 8) else none

/-- The bytes of the raw row: each is read at some moment after the record has arrived and its element come into the window (R240, R322). -/
def State.rawBytes (s : State) (q : CopySlot) (x : FillRecord) (raw : Nat) : Except CopyStop Nat :=
  s.readSource q (max ((q.entered (q.next + q.ahead.length)).getD s.now) x.at_) (some ⟨0, true⟩) raw (pieces raw 8192)

/-- The raw row that a slot reads now: it waits for nothing, and a fault of it strikes once every earlier element has landed (R248). -/
def State.rawReady (s : State) (core n : Nat) : Option (FillRecord × Nat) :=
  let q := s.slot core n
  q.rawRow.filter fun x => s.copyGoes core q && match s.rawBytes q x.1 x.2 with
    | .ok _ => true
    | .error .wait => false
    | .error (.fault _ _) => decide (q.ahead = [])

/-- A turn of reading the raw row (R313, R322): a piece of it comes in, the last one with the row. -/
def State.readRaw (s : State) (core n : Nat) (x : FillRecord) (raw : Nat) : State :=
  let t := s.setCore core { s.core core with readTurn := n }
  let q := t.slot core n
  match t.rawBytes q x raw with
  | .error .wait => s
  | .error (.fault k va) => t.faultCopy core n k va true
  | .ok v =>
    if x.got + copyPiece < 8192 then t.setSlot core n { q with records := { x with got := x.got + copyPiece } :: q.records.drop 1 }
    else
      let u := (pieces raw 8192).foldl (fun s p => match s.sourcePa q p.1 with
        | .ok (pa, _) => s.corrected (s.locOf pa) p.2
        | .error _ => s) t
      u.setSlot core n (({ q with records := { x with row := some v } :: q.records.drop 1 }).collect s.now)

/-- The slot can read: a raw row, or the next element with its run open, for which it waits for nothing (R243, R283, R307). -/
def State.canRead (s : State) (core n : Nat) : Bool :=
  (s.rawReady core n).isSome || s.wantsRead core n && match s.openRun core n (s.slot core n).readNext with
    | none => false
    | some t =>
      let q := t.slot core n
      let va := (q.src q.readNext).toNat
      (q.doom.any fun d => decide (d.1 = q.readNext)) ||
        match t.readSource q ((q.entered q.readNext).getD 0) (if q.dc = 0 then none else some ⟨q.dc, false⟩) va (pieces va q.readSize) with
        | .error .wait => false
        | _ => true

/-- The slot of a core that reads next (R313): the first after the one that read last that can. -/
def State.readTurn (s : State) (core : Nat) : Option Nat :=
  (List.range Config.nSlots).findSome? fun i =>
    let n := ((s.core core).readTurn + 1 + i) % Config.nSlots
    if s.canRead core n then some n else none

/-- Where the next piece that a slot reads lies: of a raw row, or of an element once its run is translated. -/
def State.readAt (s : State) (core n : Nat) : Option Nat :=
  match s.rawReady core n with
  | some (x, raw) => match s.sourcePa (s.slot core n) (raw + x.got) with
    | .ok (pa, _) => some pa
    | .error _ => none
  | none => match s.openRun core n (s.slot core n).readNext with
  | none => none
  | some t =>
    let q := t.slot core n
    match t.sourcePa q ((q.src q.readNext).toNat + q.fetched) with
    | .ok (pa, _) => some pa
    | .error _ => none

/-- A piece of the next element comes in; the last piece brings the element, each byte of which has been read at some moment in its
window (R240, R251, R315). -/
def State.readNextPiece (s : State) (core n : Nat) : State :=
  let q := s.slot core n
  let e := q.readNext
  match q.entered e with
  | none => s
  | some since =>
    match s.openRun core n e with
    | none => s
    | some t =>
      let t1 := t.setCore core { t.core core with readTurn := n }
      let q1 := t1.slot core n
      if q1.fetched + copyPiece < q1.readSize ∧ !(q1.doom.any fun d => decide (d.1 = e)) then t1.setSlot core n { q1 with fetched := q1.fetched + copyPiece }
      else t1.readElement core n e since

/-- A turn of reading (R313). -/
def State.readPieceNow (s : State) (core n : Nat) : State :=
  match s.rawReady core n with
  | some (x, raw) => s.readRaw core n x raw
  | none => s.readNextPiece core n

/-! Fill records. -/

/-- A decompressor takes the first of the slot's records that stands at the head of its queue (R323). -/
def State.takeRecord (s : State) (core n : Nat) : State :=
  let q := s.slot core n
  let rs := q.records
  match rs.zipIdx.find? fun x => !x.1.taken && decide ((s.stack x.1.stack).decomp.head? = some (core, n)) with
  | none => s
  | some (x, i) =>
    let r := s.stack x.stack
    (s.setStack x.stack { r with decomp := r.decomp.drop 1 }).setSlot core n
      { q with records := rs.set i { x with taken := true, row := (recordRow q.dc x.bits).join } }

/-- The first record taken that has no row: a malformed one is a fault (R321), and the raw row of an escaped one is read in the turns of
the unit. The spec does not say which address and which side the 0x11 frame of a malformed record names: it is a source fault at the
record's first byte (DESIGN CHOICE, LOG 78). -/
def State.finishRecord (s : State) (core n : Nat) : State :=
  let q := s.slot core n
  match q.records with
  | [] => s
  | x :: _ =>
    if x.taken && decide (recordRow q.dc x.bits = none) && decide (q.ahead = []) then
      s.faultCopy core n 0x0D (q.src q.next).toNat true
    else s

/-- RECORD_DECOMPRESS (R321 to R323). -/
def State.expand (s : State) (core n : Nat) : State :=
  let q := s.slot core n
  if q.records ≠ [] && s.copyGoes core q then
    let s1 := s.takeRecord core n
    (s1.setSlot core n ((s1.slot core n).collect s.now)).finishRecord core n
  else s

/-! Landings. -/

/-- The first poisoned sector that a landing of [loc, loc + n) would cover in part (R306): the first byte of it the landing writes. -/
def State.poisonedPart (s : State) (loc n : Nat) : Option Nat :=
  ((List.range 2).find? fun i =>
    let sec := if i = 0 then loc / 32 else (loc + n - 1) / 32
    decide (tabGet SectorMark.clean s.marks sec = .poisoned) && !decide (loc ≤ 32 * sec ∧ 32 * (sec + 1) ≤ loc + n)).map fun i =>
    if i = 0 then 0 else (loc + n - 1) / 32 * 32 - loc

/-- The outcome of one destination piece (R247, R251, R306): a wait, a fault, or the physical address. -/
def State.landAt (s : State) (q : CopySlot) (va n : Nat) : Except CopyStop Nat :=
  match q.pageAt va with
  | none => .error (.fault 0x0B va)
  | some p =>
    let pa := p.pa + (va - p.va)
    if !p.live then .error (.fault 0x0B va)
    else if !s.backed false pa then .error (.fault 0x0C va)
    else if s.olderHolds q.ticket pa n || s.asleep pa then .error .wait
    else match s.poisonedPart (s.locOf pa) n with
      | some i => .error (.fault 0x0D (va + i))
      | none => .ok pa

/-- Every piece of an element may land. -/
def State.landCheck (s : State) (q : CopySlot) : List (Nat × Nat) → Except CopyStop Unit
  | [] => .ok ()
  | (va, n) :: ps => do
    let _ ← s.landAt q va n
    s.landCheck q ps

/-- The pieces of the element that lands next. -/
def CopySlot.landing (q : CopySlot) : List (Nat × Nat) := pieces (q.dst q.next).toNat q.esize

/-- Where the next piece of the element that lands goes. -/
def CopySlot.landAddr (q : CopySlot) : Option Nat := q.paOf (q.dst q.next + q.moved)

/-- A slot with a piece to move (R313): an element it has read may land, or faults. -/
def State.canMove (s : State) (core : Nat) (q : CopySlot) : Bool :=
  decide (q.ahead ≠ []) && s.copyGoes core q && match s.landCheck q q.landing with
    | .error .wait => false
    | _ => true

/-- The slot of a core whose turn it is (R313): the first after the one served last that has a piece to move. -/
def State.copyTurn (s : State) (core : Nat) : Option Nat :=
  let r := s.core core
  (List.range Config.nSlots).findSome? fun i =>
    let n := (r.copyTurn + 1 + i) % Config.nSlots
    if s.canMove core (r.slot n) then some n else none

end Sys2Proof.Machine
end

