-- ==== Sys2Proof/Machine/Endpoint.lean ====
section
/-! DEFINITION. What waits at the endpoints of the cores, whose turn it is there (R304, R305, R328) and on the hasp die (R308), and
which posted stores may perform (R214, R215, R243). -/

namespace Sys2Proof.Machine

/-! The hasp die. -/

/-- A copy unit of a stack has a piece to move that leaves the stack. -/
def State.hubCopies (s : State) (stack : Nat) : Bool :=
  s.cores.any fun e => decide (stackOf e.1 = stack) &&
    (((s.copyTurn e.1).any fun n => (s.slot e.1 n).landAddr.any (s.crosses e.1)) ||
      (s.readTurn e.1).any fun n => (s.readAt e.1 n).any (s.crosses e.1))

/-- The hasp die lets what a core sends pass at once: nothing else waits to cross it. Otherwise the flits take their turns (R308). -/
def State.mayCross (s : State) (core pa : Nat) : Bool :=
  !s.crosses core pa || ((List.range haspSources).all fun k => !s.haspTraffic k) &&
    (List.range Config.nStacks).all fun k => decide (k = stackOf core) || !s.hubCopies k

/-! Requests that are ready. -/

/-- The posted stores before the k-th that its order holds it behind: any of its stream for a ST.rel (R214), those to a common byte
for a plain one (R215). -/
def State.behindEarlier (s : State) (k : Nat) (p : Posted) : Bool :=
  (s.posted.take k).any fun q =>
    decide (q.ctx = p.ctx) && (p.rel || decide (s.locOf q.pa < s.locOf p.pa + p.n ∧ s.locOf p.pa < s.locOf q.pa + q.n))

/-- The k-th posted store is ready at its home (R213, R214, R291, R307), which it has reached over the hasp die where it leaves its stack
(R308). A detent of a copy that started after it lets it pass (R296). -/
def State.homeReady (s : State) (k : Nat) (p : Posted) : Bool :=
  p.sent && !s.behindEarlier k p && !s.blockedSince p.at_ p.pa p.n && (p.crossed || !s.crosses p.core p.pa)

/-- Interleaved address 0 onward, as a device address: the launch window (R397). -/
def inLaunchWindow (pa : Nat) : Bool := decide (pa / 2 ^ 20 = 2 ^ 19)

/-- A piece of the k-th access from outside stands behind an earlier one of its party: to one destination they keep their order
(R305, R308), and a port's writes to the launch window take effect in their order (R398). -/
def State.behindExternal (s : State) (k : Nat) (r : External) (p : Nat × Nat) : Bool :=
  let dests := fun (e : Nat × Nat) => (pieces e.1 e.2).map fun x => s.destination x.1
  (s.externals.take k).any fun q => decide (q.src = r.src) && q.todo.any fun e =>
    (dests e).any (dests p).contains || (inLaunchWindow e.1 && inLaunchWindow p.1)

/-- A piece of an access from outside is ready: it has crossed the hasp die, and waits behind no detent and for no tier in T3 (R243,
R307). -/
def State.externalReady (s : State) (k : Nat) (r : External) (p : Nat × Nat) : Bool :=
  decide (r.flits = 0) && !s.behindExternal k r p && !(pieces p.1 p.2).any fun e => s.blocked e.1 e.2

/-! The queues of an endpoint. -/

/-- The row of a device address, and whether a core's cells hold it. -/
def State.rowOf (s : State) (pa : Nat) : Nat := s.locOf pa / 2 ^ 13
def State.atCore (s : State) (core pa : Nat) : Bool := decide (spaceOf pa = .device) && decide (coreOfLoc (s.locOf pa) = core)

/-- A request of an instruction that waits at an endpoint for its turn alone (R304). -/
def State.waitsTurn (s : State) (core : Nat) (r : Request) : Bool :=
  r.held && !r.turn && s.atCore core r.pa && !s.blocked r.pa r.n

/-- The requests of a context that wait at an endpoint for their turn, having crossed the hasp die where they leave their stack. -/
def State.turnWaits (s : State) (core : Nat) (c : Context) : List Request :=
  if c.resident then c.requests.filter fun r => s.waitsTurn core r && (r.crossed || !s.crosses c.core r.pa) else []

/-- Arrival and row of the scalar requests that are ready at a core: stores at their homes, and what instructions wait for. -/
def State.scalarQueue (s : State) (core : Nat) : List (Nat × Nat) :=
  ((s.posted.zipIdx.filter fun p => s.atCore core p.1.pa && s.homeReady p.2 p.1).map fun p => (p.1.at_, s.rowOf p.1.pa)) ++
    (s.allCtxs.flatMap (s.turnWaits core)).map fun r => (r.at_, s.rowOf r.pa)

/-- The landings that a core's endpoint has ready, as unit, slot, arrival and row: each unit presents the one whose turn it is (R313). -/
def State.landingsAt (s : State) (core : Nat) : List (Nat × Nat × Nat × Nat) :=
  (s.allSlots.filter fun q => decide (s.copyTurn q.1 = some q.2.1)).filterMap fun q =>
    match q.2.2.landAddr with
    | some pa => if s.atCore core pa && s.mayCross q.1 pa then some (q.1, q.2.1, q.2.2.front, s.rowOf pa) else none
    | none => none

/-- The arrival of the piece that a slot reads next: that of its record, or of its element in the window. -/
def State.readAge (s : State) (core n : Nat) : Nat := match s.rawReady core n with
  | some (x, _) => x.at_
  | none => ((s.slot core n).entered (s.slot core n).readNext).getD 0

/-- The source reads, likewise. -/
def State.readsAt (s : State) (core : Nat) : List (Nat × Nat × Nat × Nat) :=
  (s.allSlots.filter fun q => decide (s.readTurn q.1 = some q.2.1)).filterMap fun q =>
    match s.readAt q.1 q.2.1 with
    | some pa => if s.atCore core pa && s.mayCross q.1 pa then some (q.1, q.2.1, s.readAge q.1 q.2.1, s.rowOf pa) else none
    | none => none

/-- The pieces of the k-th access from outside that are ready at a core. -/
def State.piecesAt (s : State) (core k : Nat) (r : External) : List (Nat × Nat) :=
  r.todo.filter fun p => s.atCore core p.1 && s.externalReady k r p

/-- Arrival and row of a core's ready requests of a class: 0 scalar, 1 copy, 2 external, which arrive in the order of their list. -/
def State.arrivals (s : State) (core cls : Nat) : List (Nat × Nat) :=
  match cls with
  | 0 => s.scalarQueue core
  | 1 => (s.landingsAt core ++ s.readsAt core).map fun q => (q.2.2.1, q.2.2.2)
  | _ => s.externals.zipIdx.flatMap fun r => (s.piecesAt core r.2 r.1).map fun p => (r.2, s.rowOf p.1)

/-- The rows of them, oldest first. -/
def State.queued (s : State) (core cls : Nat) : List Nat := ((s.arrivals core cls).foldr (insertBy Prod.fst) []).map Prod.snd

/-! Turns. -/

/-- The classes in the order in which a core's endpoint comes to them (R304). -/
def CoreRec.classes (r : CoreRec) : List Nat := (List.range 3).map fun i => (r.lastClass + 1 + i) % 3

/-- An access of a class may be served now: no other class whose turn comes first has a request ready (R304). -/
def State.mayServe (s : State) (core cls : Nat) : Bool :=
  ((s.core core).classes.takeWhile fun c => decide (c ≠ cls)).all fun c => (s.queued core c).isEmpty

/-- It is the turn of a class at the endpoint of a physical address (R304). -/
def State.classTurn (s : State) (cls pa : Nat) : Bool := decide (spaceOf pa ≠ .device) || s.mayServe (coreOfLoc (s.locOf pa)) cls

/-- No request of the class that arrived before a step waits at the endpoint of a physical address for another row: the activation is for
the oldest, and takes along what is for its row (R304). -/
def State.oldestAt (s : State) (cls at_ pa : Nat) : Bool :=
  decide (spaceOf pa ≠ .device) || (s.arrivals (coreOfLoc (s.locOf pa)) cls).all fun q => decide (at_ ≤ q.1 ∨ q.2 = s.rowOf pa)

/-- An access of a core in a class may reach a physical address now: it crosses the hasp die in its turn (R308), and it is its class's
turn at the endpoint (R304). -/
def State.mayReach (s : State) (core cls pa : Nat) : Bool := s.mayCross core pa && s.classTurn cls pa

/-! Posted stores. -/

/-- The k-th posted store may perform (R213, R214, R304). -/
def State.canPerform (s : State) (k : Nat) (p : Posted) : Bool := s.homeReady k p && s.classTurn 0 p.pa && s.oldestAt 0 p.at_ p.pa

/-- The store performs at its home and frees its slot; one whose page is no longer backed is lost (R214, R327), but one that has been sent
through a window completes under the limit it met (R400). Neither the pieces of a
descriptor nor the launch unit's stores are counted as scalar accesses (R384), and the monitor takes no notice of the latter (LOG 22). -/
def State.performAt (s : State) (k : Nat) (p : Posted) : State :=
  let s1 := { s with posted := s.posted.eraseIdx k }
  if s.backed false p.pa ∨ spaceOf p.pa ≠ .device then
    if p.ctx = launchUnit then (s1.writeBytes (s1.locOf p.pa) p.n p.v).reached p.core 0 p.pa
    else
      let s2 := ((s1.writeCells p.pa p.n p.v).signed (.store p.ctx p.at_)).reached p.core 0 p.pa
      if p.n ≤ 8 then s2.counted p.pa else s2
  else s1

/-- STORE_AT_HOME of the k-th posted store. -/
def State.storeHome (s : State) (k : Nat) : State :=
  match s.posted[k]? with
  | none => s
  | some p => if s.canPerform k p then (s.performAt k p).sendWaiting else s

/-- Every posted store that may perform does, the oldest first; those that waited for a slot get one (R292). -/
def State.storesHome (s : State) : Nat → State
  | 0 => s
  | n + 1 =>
    match (List.range s.posted.length).find? fun k => (s.posted[k]?).any (s.canPerform k) with
    | none => s
    | some k => (s.storeHome k).storesHome n

/-- A store of the launch unit at a device address: it waits at its home behind a detent, and behind its own earlier stores to a common
byte (R243, R335). The core that stands with it is that of its home. -/
def State.unitStore (s : State) (pa v : Nat) : State :=
  if s.backed false pa then
    if s.blocked pa 8 || s.postedOver launchUnit pa 8 then
      { s with posted := s.posted ++ [{ ctx := launchUnit, core := coreOfLoc (s.locOf pa), token := 0, sent := true, va := pa, pa := pa, n := 8, v := v, rel := false, before := false, at_ := s.now }] }
    else s.writeBytes (s.locOf pa) 8 v
  else s

end Sys2Proof.Machine
end

