-- ==== Sys2Proof/Machine/Landing.lean ====
section
/-! DEFINITION. The turns of a copy unit (R239, R240, R313), its landings, and its detents (R317, R318). -/

namespace Sys2Proof.Machine

/-- Land n bytes at a physical address: a byte stored past the detent stays, or is overwritten (R244); one on which another copy may land
through the other view is itself such a byte. -/
def State.landBytes (s : State) (ticket pa n v : Nat) : State :=
  let loc := s.locOf pa
  let w := (List.range n).foldr (fun i acc =>
    let b : Byte := BitVec.ofNat 8 (v / 2 ^ (8 * i))
    let x := match tabFind s.murk (loc + i) with
      | some m => s.choose 12 (loc + i) b [m]
      | none => b
    acc + x.toNat * 2 ^ (8 * i)) 0
  let s1 := { s with murk := s.murk.filter fun e => !decide (loc ≤ e.1 ∧ e.1 < loc + n) }
  (((s1.writeLoc loc n w).signed (.copy ticket)).murky loc n w).notice pa n

/-- The next element has landed (R239): the watermark moves, and the last one completes the copy. -/
def State.landElement (s : State) (core n v : Nat) (rest : List Nat) : State :=
  let q := s.slot core n
  let done := decide (q.next + 1 = q.total)
  let q1 := { q with
    ahead := rest, next := q.next + 1, moved := 0, front := s.now
    wm := if done then q.dhi.toNat else (q.dst (q.next + 1)).toNat
    state := if done then 3 else 1
    start := if done then q.total else q.start }
  let va := (q.dst q.next).toNat
  let s1 := q.landing.foldl (fun s (p : Nat × Nat) =>
    match q.pageAt p.1 with
    | some g => s.landBytes q.ticket (g.pa + (p.1 - g.va)) p.2 (v / 2 ^ (8 * (p.1 - va)) % 2 ^ (8 * p.2))
    | none => s) (s.setSlot core n q1)
  s1.admitReads core

/-- A piece of the next element moves (R239, R313); the last piece lands the element. -/
def State.landNow (s : State) (core n : Nat) : State :=
  let q := s.slot core n
  let s1 := s.setCore core { s.core core with copyTurn := n }
  match q.ahead with
  | [] => s
  | v :: rest =>
    match s1.landCheck q q.landing with
    | .error .wait => s
    | .error (.fault k a) => s1.faultCopy core n k a false
    | .ok () =>
      let s2 := match q.landAddr with
        | some pa => s1.reached core 1 pa
        | none => s1
      if q.moved + copyPiece < q.esize then s2.setSlot core n { q with moved := q.moved + copyPiece, front := s.now }
      else s2.landElement core n v rest

/-- COPY_LANDING (R239, R304, R313): in the slot's turn, and the copy class's turn at the endpoint. -/
def State.land (s : State) (core n : Nat) : State :=
  let q := s.slot core n
  if s.copyTurn core = some n && (q.landAddr.all fun pa => s.mayReach core 1 pa && s.oldestAt 1 q.front pa) then s.landNow core n else s

/-- COPY_SOURCE_READ (R240, R304, R313), likewise. -/
def State.sourceRead (s : State) (core n : Nat) : State :=
  if s.readTurn core = some n && ((s.readAt core n).all fun pa => s.mayReach core 1 pa && s.oldestAt 1 (s.readAge core n) pa) then
    let t := s.readPieceNow core n
    match s.readAt core n with
    | some pa => t.reached core 1 pa
    | none => t
  else s

/-- The element in flight lands before an invalidation is acknowledged (R251). -/
def State.landInFlight (s : State) (core n : Nat) : State :=
  let q := s.slot core n
  match q.ahead with
  | [] => s
  | v :: rest =>
    if q.moved ≠ 0 && s.copyGoes core q then
      match s.landCheck q q.landing with
      | .ok () => s.landElement core n v rest
      | .error _ => s
    else s

/-- Turns of a copy unit, n of them at most. -/
def State.copyTurns (s : State) (core : Nat) : Nat → State
  | 0 => s
  | k + 1 => match s.copyTurn core with
    | some n => (s.land core n).copyTurns core k
    | none => s

/-- Turns of reading. -/
def State.readTurns (s : State) (core : Nat) : Nat → State
  | 0 => s
  | k + 1 => match s.readTurn core with
    | some n => (s.sourceRead core n).readTurns core k
    | none => s

/-! Detents. -/

/-- Accesses and instructions that wait issue again (R317, R318). -/
def State.restarted (s : State) : State := s.mapCtxs fun c => c.restart s.now

/-- DETENT_WM_UPDATE (R317): the copy of the watermark in one core's detent follows it, and what it held restarts. -/
def State.passWm (s : State) (core n k : Nat) : State :=
  let q := s.slot core n
  if q.installed && q.cores.contains k && decide (q.wmIn k < q.wm) then
    (s.setSlot core n { q with wmAt := tabSet q.wmFrom q.wmAt k q.wm }).restarted
  else s

/-- The detents of a copy install over its cores; those of cores that are new to it hold the watermark as it is (R237, R249). -/
def CopySlot.install (q : CopySlot) (rs : Tab Region) (ks : List Nat) : CopySlot :=
  { q with
    installed := true, map := rs, cores := ks
    wmAt := ks.foldl (fun t k => if q.cores.contains k then t else tabSet q.wmFrom t k q.wm) q.wmAt }

/-- DETENT_FREE (R318): those of a completed or cancelled copy; an install that waited may go on. -/
def State.freeDetents (s : State) (core n : Nat) : State :=
  let q := s.slot core n
  if (q.state = 3 ∨ q.state = 4) ∧ (q.installed ∨ q.pages ≠ []) then
    (s.setSlot core n { q with installed := false, cores := [], pages := [] }).restarted
  else s

end Sys2Proof.Machine
end

