-- ==== Sys2Proof/Machine/Life.lean ====
section
/-! DEFINITION. How streams, copies and tiers end: cancelled copies (R250), invalidations (R138, R228, R251), the end of a
stream (R123, R339), fold faults (R274) and the loss of a tier (R361, R371, R372). -/

namespace Sys2Proof.Machine

/-! Invalidations. -/

/-- An invalidation covers the page at base of a context's address space (R228). -/
def State.invCoversPage (s : State) (sel : InvSel) (token : Word) (base size : Nat) : Bool :=
  match sel with
  | .va asid va => decide ((s.binding token).map Prod.fst = some asid) && decide (base ≤ va ∧ va < base + size)
  | .tok t => decide (t = token)
  | .all => true

/-- A register whose pinned page is invalidated becomes REVOKED (R138). -/
def State.revokeRow (s : State) (sel : InvSel) (token : Word) (r : RowReg) : RowReg :=
  if r.st = .opened ∧ (r.pinned.any fun p => s.invCoversPage sel token p.va p.size) then { r with st := .revoked, pinned := [] } else r

/-- The registers of a resident stream of the core (any core for none). -/
def State.revokeCtx (s : State) (core : Option Nat) (sel : InvSel) (c : Context) : Context :=
  if c.resident && decide (core = none ∨ core = some c.core) then
    { c with banks := c.banks.map fun e =>
        (e.1, { e.2 with rows := e.2.rows.map fun r => (r.1, s.revokeRow sel c.owner r.2) }) }
  else c

/-- A copy drops the pages an invalidation covers (R251): a source page is translated again, a destination page is dead, and nothing
lands through it any more (R289). -/
def State.dropPages (s : State) (sel : InvSel) (c : CopySlot) : CopySlot :=
  { c with
    pages := c.pages.map fun p => if s.invCoversPage sel c.token p.va p.size then { p with live := false } else p
    srcPages := c.srcPages.filter fun p => !s.invCoversPage sel c.token p.va p.size }

/-- The elements in flight of the copies of a core, or of all, land before an invalidation is acknowledged (R251). -/
def State.landAll (s : State) (core : Option Nat) : State :=
  s.allSlots.foldl (fun s q => if core.all fun k => decide (k = q.1) then s.landInFlight q.1 q.2.1 else s) s

/-- The pages of a copy that an invalidation kills. -/
def State.killed (s : State) (sel : InvSel) (c : CopySlot) : List DestPage := c.pages.filter fun p => p.live && s.invCoversPage sel c.token p.va p.size

/-- What else the copies have in flight above their watermarks in pages that an invalidation kills is in the old frame, or not, when it
completes (R289, R314). -/
def State.settleKilled (s : State) (core : Option Nat) (sel : InvSel) : State :=
  s.allSlots.foldl (fun s q =>
    if core.all fun k => decide (k = q.1) then s.settleAhead { q.2.2 with pages := s.killed sel q.2.2 } else s) s

/-- An invalidation reaches one core (R138, R251). -/
def State.invalidateCore (s0 : State) (core : Nat) (sel : InvSel) : State :=
  let s := (s0.landAll (some core)).settleKilled (some core) sel
  let s1 := s.mapCtxs (s.revokeCtx (some core) sel)
  let r := s1.core core
  s1.setCore core { r with slots := r.slots.map fun e => (e.1, s.dropPages sel e.2) }

/-- An invalidation of the whole device completes (R228, R287, R290). -/
def State.invalidate (s0 : State) (sel : InvSel) : State :=
  let s := (s0.landAll none).settleKilled none sel
  let s1 := s.mapCtxs (s.revokeCtx none sel)
  let s2 := { s1 with
    cores := s1.cores.map fun (e : Nat × CoreRec) => (e.1, { e.2 with slots := e.2.slots.map fun (q : Nat × CopySlot) => (q.1, s.dropPages sel q.2) })
    ccache := [] }
  match sel with
  | .all => { s2 with invAll := s.now, invs := [], oldBinds := [] }
  | .tok t => { s2 with invs := (s.now, sel) :: s2.invs, oldBinds := s2.oldBinds.filter fun o => decide (o.token ≠ t) }
  | .va _ _ => { s2 with invs := (s.now, sel) :: s2.invs }

/-! Folds. -/

/-- The depth and the block of a grant (R254, R255). -/
def grantDepth (mg : Word) : Nat := 2 ^ (mg.toNat / 2 ^ 32 % 8)
def grantPos (mg : Word) : Nat := mg.toNat / 2 ^ 36 % 16

/-- The cores of a member's block: the same spindle position in each of its tiers, bottom first (R254). -/
def blockCores (core : Nat) (mg : Word) : List Nat :=
  let d := grantDepth mg
  let t0 := core / 8 / d * d
  (List.range d).map fun i => (t0 + i) * 8 + core % 8

/-- The MMFs of a member that are not complete (R267): the one it issued last, and one released before that. -/
def Context.flights (c : Context) : List MmfFlight := c.mmf.toList ++ c.past.toList

/-- An MMF of the stream is not complete in this member (R267). -/
def Context.folding (c : Context) : Bool := c.mmf.isSome || c.past.isSome

/-- An MMF of the stream goes on: one that a stop has recorded in MPROG is not in flight (R43, R273). -/
def Context.working (c : Context) : Bool := c.flights.any fun m => !m.stopped

/-- One of them goes on in a bank of the running sub-gang: an MMF has no work in another bank (R254). -/
def Context.workingHere (c : Context) : Bool := c.flights.any fun m => !m.stopped && c.gmBanks.getLsbD m.bank

/-- The MMF of a member with a sequence number, not complete. -/
def Context.flight (c : Context) (n : Nat) : Option MmfFlight := c.flights.find? fun m => decide (m.q = n)

/-- A change of the MMF with a sequence number. -/
def Context.onFlight (c : Context) (n : Nat) (f : MmfFlight → MmfFlight) : Context :=
  let g := fun m : MmfFlight => if m.q = n then f m else m
  { c with mmf := c.mmf.map g, past := c.past.map g }

/-- The operand locks of an MMF end, and its last-use rows go back (R261): of a member that is away, when it is restored. -/
def Context.endLocks (c : Context) (n : Nat) : Context :=
  match c.flight n with
  | none => c
  | some m =>
    if m.freed then c
    else
      let c1 := if c.resident then c.setBank m.bank (((c.bank m.bank).lastUse m.lastA m.a).lastUse m.lastB m.b)
        else { c with owed := c.owed ++ ([(m.lastA, m.a), (m.lastB, m.b)].filter Prod.fst).map fun e => (m.bank, e.2) }
      c1.onFlight n fun m => { m with freed := true }

/-- A fold fault is held by a member whose MMF was in flight (R274): its locks end, its partial work is discarded. -/
def Context.foldFails (c : Context) (v : Word) : Context :=
  if c.folding then
    { c.flights.foldl (fun c m => c.endLocks m.q) c with
      mmf := none, past := none, mprog := c.mprog &&& 0xFFFFFFFFFFFF, foldFault := some v }
  else c

/-- A member holds a fold fault (R274): MPROG.V becomes 0, in its block too. -/
def State.failFold (s : State) (id : Nat) (v : Word) : State :=
  match s.findCtx id with
  | none => s
  | some c =>
    if c.folding then
      (s.updCtx id fun c => c.foldFails v).pokeBlock c (64 + 8 * 0x13) (2 ^ 48 - 1) 0
    else s

/-- The members of a block that includes a core: contexts with a grant there and an MMF not yet complete. -/
def Context.inBlockOf (c : Context) (core : Nat) : Bool :=
  c.folding && (blockCores c.core c.mg).contains core

/-! The end of a stream. -/

/-- Give back the copy slots of a context (R123 step 3). -/
def State.freeSlots (s : State) (core id : Nat) : State :=
  let r := s.core core
  let gone := (s.ownedSlots core id).map fun n => (core, n)
  let s1 := s.setCore core { r with
    slots := r.slots.filter fun e => decide (e.2.owner ≠ some id)
    slice := if r.slice = some id then none else r.slice }
  (s1.leaveQueues fun e => gone.contains e).dropMurk

/-- A stream of a launch has ended (R339); lost says by the loss of its tier (R335). -/
def State.reportDone (s : State) (seq : Nat) (lost : Bool) : State :=
  match tabFind s.launches seq with
  | none => s
  | some l =>
    let l' := { l with ended := l.ended + 1, lost := if lost then min (l.lost + 1) (2 ^ 32 - 1) else l.lost }
    { s with launches := tabPut s.launches seq l' }

/-- A context ends: nothing of it is left but its number (R123, R361). -/
def State.endContext (s : State) (id : Nat) (lost : Bool) : State :=
  match s.findCtx id with
  | none => s
  | some c =>
    let s1 := s.freeSlots c.core id
    let s1 := { s1 with pokes := s1.pokes.filter fun p => decide (p.ctx ≠ id) }
    let s2 := s1.updCtx id fun c => ({ Context.reset with id := c.id, place := .ended } : Context)
    s2.reportDone c.seq lost

/-! The loss of a tier. -/

/-- 0x30 becomes pending for a survivor of the launch (R339, R372): the first tier lost, and how many. -/
def Context.noticeLoss (c : Context) (tier : Nat) : Context :=
  let v := match c.pend30 with
    | none => BitVec.ofNat 64 (tier + 2 ^ 8)
    | some w => BitVec.ofNat 64 (w.toNat % 2 ^ 8 + min 255 (w.toNat / 2 ^ 8 % 2 ^ 8 + 1) * 2 ^ 8)
  { c with pend30 := some v }

/-- The context belongs to a tier: it is resident there, or its save rows are (R361), where its block says (R360). -/
def State.onTier (s : State) (c : Context) (t : Nat) : Bool :=
  (c.resident || c.saved) && decide (tierOf (s.whereIs c).core = t)

/-- A tier is offlined (R361, R371, R372, R274). -/
def State.offlineTier (s : State) (t : Nat) : State :=
  if (s.tier t).online then
    let gone := s.allCtxs.filter fun c => s.onTier c t
    -- the fold faults of members elsewhere come first: they see the block as it was
    let mine := (List.range 8).map fun i => t * 8 + i
    let hit := fun (c : Context) => !s.onTier c t && mine.any fun k => c.inBlockOf k
    let s1 := (s.allCtxs.filter hit).foldl (fun s c => s.failFold c.id (BitVec.ofNat 64 (2 ^ (t % 16)))) s
    let s2 := gone.foldl (fun s c => s.endContext c.id true) s1
    let seqs := gone.map Context.seq
    let n := fun (c : Context) => (seqs.filter fun q => q = c.seq).length
    let told := s2.allCtxs.filter fun c => (c.resident || c.saved) && decide (n c ≠ 0)
    let s3 := told.foldl (fun s c =>
      (s.updCtx c.id fun c => (List.range (n c)).foldl (fun c _ => c.noticeLoss t) c).pokePend c.id 2) s2
    let s4 := mine.foldl (fun s k =>
      s.setCore k { s.core k with mat := false, hup := false, hdn := false, online := false, slots := [], slice := none,
                                  debt := [], refReq := [] }) s3.dropMurk
    let s5 := (s4.leaveQueues fun e => mine.contains e.1).setTier t { s4.tier t with online := false }
    { s5 with ccache := [], posted := s5.posted.filter fun p =>
        !(decide (spaceOf p.pa = .device) && decide (tierOfLoc (s5.locOf p.pa) = t)) }
  else s

/-! A region-table change under traffic (R282). -/

/-- A physical address lies on the cells of a range. -/
def State.onRange (s : State) (r : Region) (pa : Nat) : Bool :=
  decide (spaceOf pa = .device) && r.holds (deinterleave defaultMask (s.locOf pa))

/-- The first bytes of the 512-byte pieces of n bytes at va: a range holds all of a piece or nothing of it (R282). -/
def pieceHeads (va n : Nat) : List Nat := (pieces va n).map Prod.fst

/-- Some of n bytes at an address of a token's space lie on the range. -/
def State.spaceOnRange (s : State) (r : Region) (token : Word) (sup : Bool) (kind : AccessKind) (va n : Nat) : Bool :=
  (pieceHeads va n).any fun va => match s.translateAs token sup false (BitVec.ofNat 64 va) kind 1 with
    | .ok (pa, _) => s.onRange r pa
    | .error _ => false

/-- A copy that runs, or is faulted and may be resumed, reads or lands on the range, or has an escaped record whose raw row does (R322). -/
def State.copyOnRange (s : State) (r : Region) (c : CopySlot) : Bool :=
  decide (c.state = 1 ∨ c.state = 2) && (((List.range (c.total - c.next)).any fun i =>
    let e := c.next + i
    ((pieceHeads (c.dst e).toNat c.esize).any fun va => (c.paOf va).any (s.onRange r)) ||
      s.spaceOnRange r c.token c.sup .read (c.src e).toNat c.readSize) ||
    c.records.any fun x => x.row.isNone && x.bits.testBit 2 &&
      s.spaceOnRange r c.token c.sup .read (x.bits / 2 ^ 16 % 2 ^ 48 * 2 ^ 8) 8192)

/-- A trace record that waits is to be written on the range: its buffer's first 16 bytes, or the 32 at WPTR or at 64 (R381). -/
def State.traceOnRange (s : State) (r : Region) (t : TraceRec) : Bool :=
  s.spaceOnRange r t.owner true .write t.buf 96 || match s.translateAs t.owner true false (BitVec.ofNat 64 t.buf) .read 8 with
    | .ok (pa, _) => s.spaceOnRange r t.owner true .write (t.buf + s.readCells pa 8) 32
    | .error _ => false

/-- Some part of a save that waits is to be written on the range: the block that it will take, or its save rows (R352, R355). -/
def State.saveOnRange (s : State) (r : Region) (c : Context) : Bool :=
  c.leaving && ((decide (s.freeBlock c.core ≠ 0) && (pieceHeads (s.freeBlock c.core - 1) 4096).any (s.onRange r)) ||
    (bankList c.allBanks).any fun j => (saveRows c.core ((s.freeSaveSet c.core c.allBanks).getD 0) j c.segs (List.range c.nNames) (List.range 8)).any
      fun l => r.holds (deinterleave defaultMask l))

/-- A copy, an open row or an access is in flight on the range. -/
def State.traffic (s : State) (r : Region) : Bool :=
  (s.posted.any fun p => s.onRange r p.pa) || (s.externals.any fun x => x.todo.any fun p => (pieceHeads p.1 p.2).any (s.onRange r)) ||
    (s.allCtxs.any fun c => c.requests.any fun q => s.onRange r q.pa) ||
    (s.allSlots.any fun q => s.copyOnRange r q.2.2) || s.traces.any (s.traceOnRange r) || (s.pokes.any fun p => s.onRange r p.pa) ||
    s.allCtxs.any (s.saveOnRange r) ||
    s.allCtxs.any fun c => c.resident && c.banks.any fun b => b.2.rows.any fun q =>
      decide (q.2.st ≠ .closed) && r.holds (deinterleave defaultMask (q.2.row.toNat * 2 ^ 13))

/-- Each byte of the range takes the value of some byte of it (LOG 1). -/
def State.spoil (s : State) (r : Region) : State :=
  let n := 2 ^ r.sz.toNat
  (List.range n).foldl (fun t i =>
    let from_ := s.locOf (2 ^ 39 + r.base.toNat + Config.freePick s.now 18 i % n)
    t.writeLoc (s.locOf (2 ^ 39 + r.base.toNat + i)) 1 (memByte s.mem from_).toNat) s

/-- A store to a word of the region table (R281, R282). A change of V under traffic leaves the range's bytes open. -/
def State.storeRegion (s : State) (i o : Nat) (v : Word) : State :=
  let t := s.writeRegion i o v
  let r := if (s.region i).v then s.region i else t.region i
  if (s.region i).v ≠ (t.region i).v ∧ s.traffic r then t.spoil r else t

/-- A ST.n64 to control space, OFFREQ among its words (R370, R371). -/
def State.storeControl (s : State) (off : Nat) (v : Word) : State :=
  if 0x40000 ≤ off ∧ off < 0x40800 ∧ off % 16 = 8 ∧ v.getLsbD 63 then s.offlineTier ((off - 0x40000) / 16)
  else if off < 0x800 then s.storeRegion (off / 128) (off % 128) v
  else s.writeControl off v

end Sys2Proof.Machine
end

