-- ==== Sys2Proof/Machine/Branch.lean ====
section
/-! DEFINITION. Branches, calls, jumps, hardware loops and the window (R108 to R119, R79, R208). -/

namespace Sys2Proof.Machine

/-- A conditional branch on a scalar (R108). -/
def condBranch (i : Instr) (cond : Cond) (a : NameF) (o : BitVec 16) (s : State) : Host.Outcome State Fault Refusal :=
  s.finish do
    require (!s.ctx.atLoopEnd) 0x01 (wordOf i)
    s.ctx.checkNames [(clsS, a)]
    s.ctx.sound [a] []
    return if cond.holds (s.ctx.read a) then s.withCtx (s.ctx.branchTo (branchTarget s.ctx.pc 16 o.toNat)) else s.advance

/-- B.eqz (R108). -/
def execBEqz (a : NameF) (o : BitVec 16) (s : State) : Host.Outcome State Fault Refusal := condBranch (.bEqz a o) .eqz a o s
/-- B.nez (R108). -/
def execBNez (a : NameF) (o : BitVec 16) (s : State) : Host.Outcome State Fault Refusal := condBranch (.bNez a o) .nez a o s
/-- B.ltz (R108). -/
def execBLtz (a : NameF) (o : BitVec 16) (s : State) : Host.Outcome State Fault Refusal := condBranch (.bLtz a o) .ltz a o s
/-- B.gez (R108). -/
def execBGez (a : NameF) (o : BitVec 16) (s : State) : Host.Outcome State Fault Refusal := condBranch (.bGez a o) .gez a o s
/-- B.gtz (R108). -/
def execBGtz (a : NameF) (o : BitVec 16) (s : State) : Host.Outcome State Fault Refusal := condBranch (.bGtz a o) .gtz a o s
/-- B.lez (R108). -/
def execBLez (a : NameF) (o : BitVec 16) (s : State) : Host.Outcome State Fault Refusal := condBranch (.bLez a o) .lez a o s

/-- The predicate of one bank below VL. -/
def Context.predBelow (c : Context) (p : NameF) (j : Nat) : Nat := ((c.bank j).pred (p.toNat - 16)).toNat % 2 ^ c.vl

/-- any and all of R109. -/
def Context.anyHolds (c : Context) (p : NameF) : Bool := (bankList c.gmBanks).any fun j => decide (c.predBelow p j ≠ 0)
def Context.allHold (c : Context) (p : NameF) : Bool := (bankList c.gmBanks).all fun j => decide (c.predBelow p j = 2 ^ c.vl - 1)

/-- A predicate read with a double-bit error traps in the lowest such bank (R369). -/
def Context.predsSound (c : Context) (ps : List NameF) : Except Stop Unit :=
  checkBanks (fun j => ps.flatMap fun p => match c.predSound (p.toNat - 16) j ((c.vl + 63) / 64) with
    | some v => [(0x0D, v)]
    | none => []) (bankList c.gmBanks)

/-- A branch on a predicate (R109). -/
def predBranch (i : Instr) (all : Bool) (a : NameF) (o : BitVec 16) (s : State) : Host.Outcome State Fault Refusal :=
  s.finish do
    require (!s.ctx.atLoopEnd) 0x01 (wordOf i)
    s.ctx.checkNames [(clsP, a)]
    s.ctx.sound [] [0x04, 0x0E]
    s.ctx.predsSound [a]
    let t := s.predsReady [a]
    return if (if all then t.ctx.allHold a else t.ctx.anyHolds a) then
      t.withCtx (t.ctx.branchTo (branchTarget t.ctx.pc 16 o.toNat)) else t.advance

/-- B.any (R109). -/
def execBAny (a : NameF) (o : BitVec 16) (s : State) : Host.Outcome State Fault Refusal := predBranch (.bAny a o) false a o s
/-- B.all (R109). -/
def execBAll (a : NameF) (o : BitVec 16) (s : State) : Host.Outcome State Fault Refusal := predBranch (.bAll a o) true a o s

/-- BR (R108). -/
def execBr (o : BitVec 16) (s : State) : Host.Outcome State Fault Refusal :=
  s.finish do
    require (!s.ctx.atLoopEnd) 0x01 (wordOf (.br o))
    return s.withCtx (s.ctx.branchTo (branchTarget s.ctx.pc 16 o.toNat))

/-- CALL (R110): it leaves a hardware loop running (R117). -/
def execCall (d : NameF) (i : BitVec 19) (s : State) : Host.Outcome State Fault Refusal :=
  s.finish do
    require (!s.ctx.atLoopEnd) 0x01 (wordOf (.call d i))
    s.ctx.checkNames [(clsS, d)]
    s.ctx.sound [] [] [d]
    let c := s.ctx
    return s.withCtx ((c.write d (c.pc + 4)).goto (branchTarget c.pc 19 i.toNat))

/-- JR (R110). -/
def execJr (a : NameF) (s : State) : Host.Outcome State Fault Refusal :=
  s.finish do
    require (!s.ctx.atLoopEnd) 0x01 (wordOf (.jr a))
    s.ctx.checkNames [(clsS, a)]
    let t := s.ctx.read a
    require (decide (t.toNat % 4 = 0)) 0x0F t
    s.ctx.sound [a] []
    return s.withCtx (s.ctx.goto t).resync

/-- Two bodies, first and last word addresses, partly overlap (R114). -/
def bodiesClash (a b x y : Nat) : Bool :=
  decide (a ≤ y ∧ x ≤ b) && !decide (a ≤ x ∧ y ≤ b) && !decide (x ≤ a ∧ b ≤ y)

/-- A count above 0xFFFF_FFFF is taken as 0xFFFF_FFFF (R113, R119). -/
def loopCount (v : Word) : BitVec 32 := BitVec.ofNat 32 (min v.toNat 0xFFFFFFFF)

/-- LOOP (R113, R114). -/
def execLoop (a : NameF) (l : BitVec 11) (s : State) : Host.Outcome State Fault Refusal :=
  s.finish do
    let c := s.ctx
    let lo := c.pc.toNat + 4
    let hi := c.pc.toNat + 4 * l.toNat
    require (!c.atLoopEnd && !c.counting && !c.gmSub &&
      !(c.stripping && bodiesClash lo hi (c.sbeg.toNat + 4) c.send.toNat)) 0x01 (wordOf (.loop a l))
    c.checkNames [(clsS, a)]
    c.sound [a] []
    let n := loopCount (c.read a)
    let c1 := { c.mend [0x0B, 0x0C] with lbeg := BitVec.ofNat 56 lo, lend := BitVec.ofNat 56 hi, stall := false }
    return s.withCtx (if n = 0 then { c1 with pc := BitVec.ofNat 64 (hi + 4) }
      else { c1.mend [0x0A] with lc := n, lcPend := false, pc := BitVec.ofNat 64 lo })

/-- SLOOP (R114, R119, R120). -/
def execSloop (d a : NameF) (l : BitVec 11) (s : State) : Host.Outcome State Fault Refusal :=
  s.finish do
    let c := s.ctx
    let lo := c.pc.toNat + 4
    let hi := c.pc.toNat + 4 * l.toNat
    require (!c.atLoopEnd && !c.stripping && !c.gmSub &&
      !(c.counting && bodiesClash lo hi c.lbeg.toNat c.lend.toNat)) 0x01 (wordOf (.sloop d a l))
    c.checkNames [(clsS, d), (clsS, a)]
    c.sound [d, a] []
    let total := loopCount (c.read a)
    let m := (c.read d).toNat
    let c1 := { c.mend [0x05, 0x06, 0x07, 0x08, 0x09] with
      smax := BitVec.ofNat 15 (if m = 0 ∨ m > 16384 then 16384 else m)
      sbeg := c.pc.setWidth 56
      send := BitVec.ofNat 56 hi
      srem := total
      sord := 0
      stall := false }
    return if total = 0 then s.withCtx { c1 with send := 0, pc := BitVec.ofNat 64 (hi + 4) }
      else (s.withCtx { c1.grant with pc := BitVec.ofNat 64 lo }).stripStarted

/-- SWIN (R79, R208). -/
def execSwin (n : BitVec 5) (s : State) : Host.Outcome State Fault Refusal :=
  s.finish do
    require (!s.ctx.gmSub) 0x01 (wordOf (.swin n))
    s.ctx.sound [] [0x02]
    return (s.withCtx { s.ctx.mend [0x02] with win := s.ctx.win + BitVec.ofInt 8 (16 * toSigned 5 n.toNat) }).advance

end Sys2Proof.Machine
end

