-- ==== Sys2Proof/Machine/System.lean ====
section
/-! DEFINITION. Control registers, traps by instruction, translation invalidation, trace, and the end of a stream (R123 to R125,
R225 to R229, R211). -/

namespace Sys2Proof.Machine

/-- A read of the register waits for the bank-class work before it (R26). -/
def ctlDrains (i : Nat) : Bool := decide (i = 0x01 ∨ i = 0x12 ∨ i = 0x0F ∨ i = 0x11 ∨ i = 0x1C)

/-- The running context with every bank-class instruction issued before completed in these banks: forced slots come first (R158), and the
slots of an earlier REF start (R155). -/
def State.drainedIn (s : State) (js : List Nat) : State :=
  let t := js.foldl (fun t j => t.forceSlot s.ctx.core j) s
  (t.withCtx (t.ctx.drain t.now js)).serveRefs t.ctx.core js

/-- The same in every bank of the stream. -/
def State.drained (s : State) : State := s.drainedIn (bankList s.ctx.allBanks)

/-- MFC (R25, R26, R225). -/
def execMfc (d : NameF) (x : BitVec 7) (s : State) : Host.Outcome State Fault Refusal :=
  s.finish do
    let i := x.toNat
    s.ctx.checkNames [(clsS, d)]
    require (ctlExists i) 0x02 (nameWord i)
    require (s.ctx.sup || !ctlSupOnly i) 0x05 (wordOf (.mfc d x))
    let s1 := if ctlDrains i then s.drained else s
    waitUnless (!ctlDrains i || !s1.ctx.working)
    s1.ctx.sound [] [i] [d]
    let s2 := if i = 0x1D then s1.tick else s1
    return (s2.withCtx (s2.ctx.write d (BitVec.ofNat 64 (s2.ctl s2.ctx i)))).advance

/-- MTC (R25, R26, R225). One to LC in an active loop writes LCN (R116), and with it LCN's soft error (R369). -/
def execMtc (a : NameF) (x : BitVec 7) (s : State) : Host.Outcome State Fault Refusal :=
  s.finish do
    let i := x.toNat
    s.ctx.checkNames [(clsS, a)]
    require (ctlExists i) 0x02 (nameWord i)
    require (ctlWritable s.ctx.sup i || s.ctx.sup || !ctlSupOnly i) 0x05 (wordOf (.mtc a x))
    require (ctlWritable s.ctx.sup i) 0x02 (nameWord i)
    s.ctx.sound [a] []
    let s1 := if i = 0x01 then s.drained else s
    waitUnless (decide (i ≠ 0x01) || !s1.ctx.working)
    let c := s1.ctx.setCtl i (s1.ctx.read a)
    let written := if i = 0x0A ∧ s1.ctx.counting then 0x1E else i
    return (s1.withCtx { c with bad := tabErase c.bad (256 + written) }).advance

/-- TRAP (R226). -/
def execTrap (c : BitVec 7) (s : State) : Host.Outcome State Fault Refusal :=
  s.finish (trapS 0x20 (c.setWidth 64))

/-- ERET (R114, R227). -/
def execEret (s : State) : Host.Outcome State Fault Refusal :=
  s.finish do
    require (!s.ctx.atLoopEnd) 0x01 (wordOf .eret)
    require s.ctx.sup 0x05 (wordOf .eret)
    require (decide (s.ctx.tpc.toNat % 4 = 0)) 0x0F (s.ctx.tpc.setWidth 64)
    s.ctx.sound [] s.ctx.eretCtl
    waitUnless (!s.afterTrap.resumeWaits s.afterTrap.ctx)
    return s.returnFromTrap

/-- A posted store used a translation that the invalidation selects (R228, R289). -/
def State.postedUses (s : State) (sel : InvSel) (p : Posted) : Bool :=
  match sel with
  | .va asid va => decide ((s.binding p.token).map Prod.fst = some asid) && decide (va / 2 ^ 30 = p.va / 2 ^ 30)
  | .tok t => decide (t = p.token)
  | .all => true

/-- TLBINV (R228): one that waits is not stopped before it is done (inv; R352). It is a release, then the invalidation; it waits for the
stores that used an old translation. -/
def invalidation (i : Instr) (names : List (List NameClass × NameF)) (reads : List NameF) (s : State)
    (sel : Option InvSel) : Host.Outcome State Fault Refusal :=
  (s.withCtx { s.ctx with inv := true }).finish do
    s.ctx.checkNames names
    require s.ctx.sup 0x05 (wordOf i)
    s.ctx.sound reads []
    waitUnless (!s.postedBy s.ctx.id)
    match sel with
    | none => return s.advance
    | some q =>
      waitUnless (!s.posted.any fun p => s.postedUses q p)
      return (s.invalidate q).advance

/-- TLBINV.va (R228): in the address space of the current owner token. -/
def execTlbinvVa (a : NameF) (s : State) : Host.Outcome State Fault Refusal :=
  invalidation (.tlbinvVa a) [(clsS1, a)] [a] s
    ((s.binding s.ctx.owner).map fun b => .va b.1 (s.ctx.read a).toNat)

/-- TLBINV.tok (R228). -/
def execTlbinvTok (a : NameF) (s : State) : Host.Outcome State Fault Refusal :=
  invalidation (.tlbinvTok a) [(clsS1, a)] [a] s (some (.tok (s.ctx.read a)))

/-- TLBINV.all (R228). -/
def execTlbinvAll (s : State) : Host.Outcome State Fault Refusal :=
  invalidation .tlbinvAll [] [] s (some .all)

/-- TRACE (R229, R382). -/
def execTrace (a : NameF) (s : State) : Host.Outcome State Fault Refusal :=
  s.finish do
    s.ctx.checkNames [(clsS1, a)]
    s.ctx.sound [a] []
    return (s.emitTrace 2 0 (s.ctx.pc.toNat % 2 ^ 56) (s.ctx.read a).toNat).advance

/-- Banks leave the stream: their registers close, their keep rows go back (R123 step 3). -/
def Context.dropBanks (c : Context) (js : List Nat) : Context :=
  js.foldl (fun c j => { c with banks := tabErase c.banks j }) c

/-- EXIT in a sub-gang (R211): its banks end, and the sibling is the stream. -/
def Context.exitHalf (c : Context) (b : Sibling) : Context :=
  let c1 := (c.dropBanks (bankList c.gmBanks)).mend [0x1F]
  { c1 with gmBanks := b.banks, pc := b.pc, sib := none, pend10 := b.pend10, gbar := b.gbar, gmSub := c.gmSub && !b.parked, stall := b.stall
            parked := b.onWord, asking := b.asking, detentWait := b.detentWait, inv := b.inv, since := b.since }

/-- The sibling that is left goes on; one that waits at GJOIN passes it (R210, R211, R115). The EXIT itself passes the boundary of a loop
that it stands at the end of, since the loop registers are shared (R115, R208). -/
def State.leaveHalf (s : State) (b : Sibling) : State :=
  let u := s.advance
  let t := u.withCtx (u.ctx.exitHalf b)
  if b.parked then t.advance else t

/-- A slot of the context runs (R123 step 1). -/
def State.anyRunning (s : State) : Bool :=
  (s.ownedSlots s.ctx.core s.ctx.id).any fun n => decide ((s.slot s.ctx.core n).state = 1)

/-- A store of the context waits behind a detent. -/
def State.storeGuarded (s : State) (id : Nat) : Bool := s.posted.any fun p => decide (p.ctx = id) && s.touches p.pa p.n

/-- EXIT (R123, R211). The last EXIT cancels the slots still faulted, then waits for the stores of the stream. A wait has no effect
(R98): the cancels stand once those stores can perform, or where one of them still waits behind a detent, whose copy may be waiting for
what is cancelled (DEDUCED, LOG 53). A stopped MMF of the stream is not waited for: only an ERET resumes it. -/
def execExit (s : State) : Host.Outcome State Fault Refusal :=
  s.finish do
    let s1 := s.drainedIn (bankList s.ctx.gmBanks)
    let c := s1.ctx
    match c.sib with
    | some b =>
      waitUnless (!c.workingHere)
      return s1.leaveHalf b
    | none =>
      waitUnless (!c.working)
      waitUnless (!s1.anyRunning)
      waitUnless (c.ad || decide (c.pend11 = 0))
      let s2 := (s1.ownedSlots c.core c.id).foldl (fun s n => s.cancelSlot c.core n) s1
      let s3 := if s2.postedBy c.id then s2.storesHome s2.posted.length else s2
      if s3.postedBy c.id && s3.storeGuarded c.id && !(s1.ownedSlots c.core c.id).all fun n => decide ((s1.slot c.core n).state ≠ 2) then return s3.hold
      else
        waitUnless (!s3.postedBy c.id)
        return s3.endContext c.id false

/-- YIELD (R124). -/
def execYield (s : State) : Host.Outcome State Fault Refusal :=
  s.finish (.ok (s.withCtx { s.ctx with yielding := true }).advance)

/-- NOP (R124). -/
def execNop (s : State) : Host.Outcome State Fault Refusal :=
  s.finish (.ok s.advance)

/-- BRK (R125); with DBK = 1 the context halts (R377). -/
def execBrk (s : State) : Host.Outcome State Fault Refusal :=
  if s.ctx.dbk then .next (if s.haltWaits then s.hold else s.haltNow 4) else s.finish (trapS 0x21 0)

end Sys2Proof.Machine
end

