-- ==== Sys2Proof/Machine/MemOps.lean ====
section
/-! DEFINITION. Loads, stores, LDC, PFETCH and WAITW (R126, R127, R213 to R218). -/

namespace Sys2Proof.Machine

/-- A memory instruction of the scalar class may be sent to a destination: it gets a request slot (R291, R292), no own store to a common
byte is on its way (R215), and every store from before the last strip start has performed (R121, R296). -/
def State.maySendTo (s : State) (dest pa n : Nat) : Bool :=
  s.grants dest && !s.postedOver s.ctx.id pa n && !s.postedBefore s.ctx.id

/-- The endpoint has come to the waiting request of the running stream for this address (R304). -/
def State.itsTurn (s : State) (pa : Nat) : Bool := s.ctx.asking.any fun r => r.turn && decide (r.pa = pa)

/-- The waiting request of the running stream for this address has crossed the hasp die (R308). -/
def State.hasCrossed (s : State) (pa : Nat) : Bool := s.ctx.asking.any fun r => r.crossed && decide (r.pa = pa)

/-- It may go on: it is sent, and served in its turn (R304, R308). -/
def State.mayAccessTo (s : State) (dest pa n : Nat) : Bool :=
  s.maySendTo dest pa n &&
    (s.itsTurn pa || (s.hasCrossed pa || s.mayCross s.ctx.core pa) && s.classTurn 0 pa && s.oldestAt 0 s.askedAt pa)
def State.mayAccess (s : State) (pa n : Nat) : Bool := s.mayAccessTo (s.destination pa) pa n

/-- The request of an instruction that reaches physical address pa, as it stands if the instruction has to wait (R291, R292): it holds
a slot while it waits at its home, and keeps its age. -/
def State.request (s : State) (dest pa n : Nat) : Request :=
  { pa := pa, n := n, dest := dest, at_ := s.askedAt, held := s.maySendTo dest pa n, turn := s.itsTurn pa, crossed := s.hasCrossed pa }
def State.asks (s : State) (dest pa n : Nat) : State := s.withCtx { s.ctx with asking := [s.request dest pa n] }

/-- The state an access waits in: with its request, when its address translates. -/
def State.asked (s : State) (plain : Bool) (va : Word) (kind : AccessKind) (n : Nat) : State :=
  match s.translate plain va kind n with
  | .ok (pa, _) => s.asks (s.destination pa) pa n
  | .error _ => s

/-- The value of n bytes at a physical address for a load: its waits and its marks (R213, R214). -/
def State.fetchFrom (s : State) (dest : Nat) (va : Word) (pa n : Nat) : Except Stop Nat := do
  waitUnless (s.mayAccessTo dest pa n)
  waitUnless (!s.blocked pa n)
  match s.markCause (s.locOf pa) n with
  | some c => trapS c va
  | none => return s.readCells pa n

/-- The same for an access that SREQ counts once it is served (R384). One that meets a marked sector traps before any effect (R213) and is
not counted; the spec does not say whether its endpoint has served it (DESIGN CHOICE, LOG 91). -/
def State.fetchData (s : State) (va : Word) (pa n : Nat) : Except Stop (Nat × State) := do
  let v ← s.fetchFrom (s.destination pa) va pa n
  return (v, (s.serve pa).corrected (s.locOf pa) n)

/-- The n bytes at a virtual address (R213). plain: an LD.x64 (R281). -/
def State.loadData (s : State) (plain : Bool) (va : Word) (n : Nat) : Except Stop (Nat × State) := do
  let (pa, _) ← s.translate plain va .read n
  if spaceOf pa = .control then
    waitUnless (s.mayAccess pa n)
    return (s.readControl (pa % 2 ^ 48), s)
  else s.fetchData va pa n

/-- Bytes of a load width of R80. -/
def loadSize (f : BitVec 3) : Nat := match f.toNat with
  | 0 => 1 | 1 => 2 | 2 => 4 | 3 => 1 | 4 => 2 | 5 => 4 | _ => 8

/-- The 64-bit value of a loaded number: zero-extended for fn 0 to 2, else sign-extended (R216). -/
def loadExt (f : BitVec 3) (v : Nat) : Word :=
  if f.toNat < 3 then BitVec.ofNat 64 v else sext64 (8 * loadSize f) v

/-- LD and LD.acq (R216). -/
def loadOp (i : Instr) (plain : Bool) (d a : NameF) (f : BitVec 3) (imm : BitVec 9) (s : State) :
    Host.Outcome State Fault Refusal :=
  let va := offsetAddr (s.ctx.read a) 9 imm.toNat (loadSize f)
  (s.asked (plain && decide (f.toNat = 6)) va .read (loadSize f)).finish do
    require (decide (f.toNat ≤ 6)) 0x01 (wordOf i)
    s.ctx.checkNames [(clsS, d), (clsS, a)]
    let (v, s1) ← s.loadData (plain && decide (f.toNat = 6)) va (loadSize f)
    s.ctx.sound [a] [] [d]
    return (s1.withCtx (s1.ctx.write d (loadExt f v))).advance

/-- LD (R216). -/
def execLd (d a : NameF) (f : BitVec 3) (i : BitVec 9) (s : State) : Host.Outcome State Fault Refusal :=
  loadOp (.ld d a f i) true d a f i s

/-- LD.acq (R216). -/
def execLdAcq (d a : NameF) (f : BitVec 3) (i : BitVec 9) (s : State) : Host.Outcome State Fault Refusal :=
  loadOp (.ldAcq d a f i) false d a f i s

/-- A store of the running stream leaves it, with its request slot or without one yet (R214, R291). -/
def State.post (s : State) (va pa n v : Nat) (rel sent : Bool) : State :=
  { s with posted := s.posted ++
      [{ ctx := s.ctx.id, core := s.ctx.core, token := s.ctx.owner, sent := sent, va := va, pa := pa, n := n, v := v, rel := rel
         before := false, at_ := s.now }] }

/-- A store has passed its checks: it performs at once, or waits at its home in its request slot (R213, R214, R246, R304). -/
def State.sendStore (s : State) (va : Word) (pa n v : Nat) (rel : Bool) : State :=
  if (rel && s.postedBy s.ctx.id) || s.blocked pa n || s.postedOver s.ctx.id pa n || !s.mayReach s.ctx.core 0 pa || !s.oldestAt 0 s.askedAt pa then s.post va.toNat pa n v rel true
  else (s.writeCells pa n v).serve pa

/-- ST and ST.rel at a virtual address (R213). plain: a ST.n64 (R281). -/
def State.storeData (s : State) (plain : Bool) (va : Word) (n v : Nat) (rel : Bool) : Except Stop State := do
  let (pa, _) ← s.translate plain va .write n
  waitUnless (s.slotFree pa && !s.postedBefore s.ctx.id)
  if spaceOf pa = .control then return s.storeControl (pa % 2 ^ 48) (BitVec.ofNat 64 v)
  else return s.sendStore va pa n v rel

/-- Bytes of a store width of R80. -/
def storeSize (f : BitVec 2) : Nat := 2 ^ f.toNat

/-- ST and ST.rel (R216). -/
def storeOp (rel : Bool) (d a : NameF) (f : BitVec 2) (imm : BitVec 9) (s : State) : Host.Outcome State Fault Refusal :=
  let n := storeSize f
  let va := offsetAddr (s.ctx.read a) 9 imm.toNat n
  (s.asked (!rel && decide (f.toNat = 3)) va .write n).finish do
    s.ctx.checkNames [(clsS, d), (clsS, a)]
    let s1 ← s.storeData (!rel && decide (f.toNat = 3)) va n ((s.ctx.read d).toNat % 2 ^ (8 * n)) rel
    s.ctx.sound [d, a] []
    return s1.advance

/-- ST (R216). -/
def execSt (d a : NameF) (f : BitVec 2) (i : BitVec 9) (s : State) : Host.Outcome State Fault Refusal :=
  storeOp false d a f i s

/-- ST.rel (R216). -/
def execStRel (d a : NameF) (f : BitVec 2) (i : BitVec 9) (s : State) : Host.Outcome State Fault Refusal :=
  storeOp true d a f i s

/-! The constant cache (R290). -/

/-- The key of a line: the stack of the issuing core and the 64-byte line of a location. -/
def lineKey (core loc : Nat) : Nat := stackOf core * 2 ^ 33 + loc / 64

/-- A line may be filled: the page is constant-cacheable device memory, and no byte of the line waits or is marked. -/
def State.fillable (s : State) (pa : Nat) (e : Page) : Bool :=
  let base := pa / 64 * 64
  e.c && decide (spaceOf pa = .device) && !s.blocked base 64 && (s.markCause (s.locOf base) 64).isNone

/-- Fill the line of a physical address: a column access, whose errors are corrected (R368), and which SREQ does not count (R384). -/
def State.fillLine (s : State) (core pa : Nat) : State :=
  let base := pa / 64 * 64
  let line : ConstLine := { data := s.readCells base 64, at_ := s.now }
  { (s.reached core 0 pa).corrected (s.locOf base) 64 with ccache := tabPut s.ccache (lineKey core (s.locOf base)) line }

/-- The cached value of a word that this stream's LDC may return (R217, R222). -/
def State.cached (s : State) (pa : Nat) (e : Page) : Option Nat :=
  if e.c && decide (spaceOf pa = .device) then
    match tabFind s.ccache (lineKey s.ctx.core (s.locOf pa)) with
    | some line => if s.ctx.constAt < line.at_ then some (line.data / 2 ^ (8 * (pa % 64)) % 2 ^ 64) else none
    | none => none
  else none

/-- LDC (R217): a cached word, while its line has not been replaced, or the word of memory. The spec lists no name classes for LDC and
PFETCH: both take s names and z, as LD does (DESIGN CHOICE, LOG 41). -/
def execLdc (d a : NameF) (i : BitVec 10) (s : State) : Host.Outcome State Fault Refusal :=
  let va := offsetAddr (s.ctx.read a) 10 i.toNat 8
  let t := match s.translate false va .read 8 with
    | .ok (pa, _) => s.asks cacheDest pa 8
    | .error _ => s
  t.finish do
    s.ctx.checkNames [(clsS, d), (clsS, a)]
    let (pa, e) ← s.translate false va .read 8
    match (s.cached pa e).filter fun _ => Config.freeBit s.now 8 0 with
    | some v =>
      waitUnless (s.mayAccessTo cacheDest pa 8 && !s.touches pa 8)
      s.ctx.sound [a] [] [d]
      return (s.withCtx (s.ctx.write d (BitVec.ofNat 64 v))).advance
    | none =>
      let v ← s.fetchFrom cacheDest va pa 8
      s.ctx.sound [a] [] [d]
      let s1 := if s.fillable pa e then s.fillLine s.ctx.core pa else (s.reached s.ctx.core 0 pa).corrected (s.locOf pa) 8
      return (s1.withCtx (s1.ctx.write d (BitVec.ofNat 64 v))).advance

/-- One 64 KiB piece of a PFETCH: a page request for an absent page, or lines filled, in their turn at the endpoint (R218, R288, R304).
Each is free to happen or not. -/
def State.prefetchPage (s : State) (va len : Nat) : State :=
  match s.binding s.ctx.owner with
  | none => s
  | some (asid, _) =>
    match s.pageOf s.ctx.owner va with
    | .error (.trap 0x08 _ _) => if Config.freeBit s.now 9 va then s.postRequest asid (va / 2 ^ 16) else s
    | .error _ => s
    | .ok e =>
      if e.c && e.permits .read s.ctx.sup && decide (spaceOf e.frame = .device) then
        (List.range ((va % 64 + len + 63) / 64)).foldl (fun s i =>
          let pa := e.frame + (va / 64 * 64 + 64 * i) % e.size
          if Config.freeBit s.now 10 (va / 64 + i) && s.backed false pa && s.fillable pa e && s.mayReach s.ctx.core 0 pa && s.oldestAt 0 s.now pa then s.fillLine s.ctx.core pa else s) s
      else s

/-- The pieces of [va, va + len) that lie in one 64 KiB page each, n of them at most. -/
def State.prefetch (s : State) : Nat → Nat → Nat → State
  | 0, _, _ => s
  | n + 1, va, len =>
    let k := min len (2 ^ 16 - va % 2 ^ 16)
    if len = 0 ∨ 2 ^ 56 ≤ va then s else (s.prefetchPage va k).prefetch n (va + k) (len - k)

/-- PFETCH (R218). -/
def execPfetch (d a : NameF) (i : BitVec 10) (s : State) : Host.Outcome State Fault Refusal :=
  s.finish do
    s.ctx.checkNames [(clsS, d), (clsS, a)]
    s.ctx.sound [d, a] []
    let va := offsetAddr (s.ctx.read a) 10 i.toNat 8
    return (s.prefetch 33 va.toNat (min (s.ctx.read d).toNat (2 ^ 21))).advance

/-! WAITW. -/

/-- What WAITW reads (R126): the word, its location, and the state after the read. -/
def waitwRead (d a : NameF) (s : State) : Except Stop (Word × Nat × State) := do
  s.ctx.checkNames [(clsS, d), (clsS1, a)]
  let va := s.ctx.read a
  let (pa, _) ← s.translate false va .read 8
  let (n, s1) ← s.fetchData va pa 8
  s.ctx.sound [d, a] []
  return (BitVec.ofNat 64 n, s1.locOf pa, s1)

/-- WAITW (R126): it completes on a value that satisfies the condition, and otherwise parks on the word. A parked one holds no request
slot (R291), and watches its word (R127, R311). -/
def waitwOp (d a : NameF) (s : State) (ok : Word → Word → Bool) : Host.Outcome State Fault Refusal :=
  match waitwRead d a s with
  | .error e => (s.asked false (s.ctx.read a) .read 8).finish (.error e)
  | .ok (v, loc, t) =>
    if ok v (t.ctx.read d) then s.finish (.ok (t.withCtx (t.ctx.write d v)).advance)
    else .next ((t.withCtx { t.ctx with stall := false, asking := [], parked := some loc }).watchWord t.ctx.core loc)

/-- WAITW.eq (R126). -/
def execWaitwEq (d a : NameF) (s : State) : Host.Outcome State Fault Refusal := waitwOp d a s fun v w => decide (v = w)
/-- WAITW.ne (R126). -/
def execWaitwNe (d a : NameF) (s : State) : Host.Outcome State Fault Refusal := waitwOp d a s fun v w => decide (v ≠ w)
/-- WAITW.ge (R126). -/
def execWaitwGe (d a : NameF) (s : State) : Host.Outcome State Fault Refusal := waitwOp d a s fun v w => decide (w.toNat ≤ v.toNat)

end Sys2Proof.Machine
end

