-- ==== Sys2Proof/Machine/Atomics.lean ====
section
/-! DEFINITION. Atomics, FENCE and CLAIM (R219 to R224). -/

namespace Sys2Proof.Machine

/-- new(op, old, d) for words of w bits (R219, R221). d2 is the new value of ACAS. -/
def atomicNew (op : AtomicOp) (w old d d2 : Nat) : Nat :=
  match op with
  | .add => (old + d) % 2 ^ w
  | .inc => if d ≤ old then 0 else old + 1
  | .mins => if toSigned w old ≤ toSigned w d then old else d
  | .maxs => if toSigned w old ≤ toSigned w d then d else old
  | .minn => min old d
  | .maxn => max old d
  | .and => old &&& d
  | .or => old ||| d
  | .xor => old ^^^ d
  | .xchg => d
  | .cas => if old = d then d2 else old
  | .claim => old

/-- ext of the old value (R219): signed for AMINS and AMAXS. -/
def atomicExt (op : AtomicOp) (w old : Nat) : Word :=
  match op with
  | .mins | .maxs => sext64 w old
  | _ => BitVec.ofNat 64 old

/-- The operations a host window performs (R220). -/
def atomicOnHost (op : AtomicOp) : Bool := decide (op = .add ∨ op = .xchg ∨ op = .cas)

/-- The order .rel or .ar (R77). -/
def ordReleases (o : BitVec 2) : Bool := decide (2 ≤ o.toNat)

def isHost (pa : Nat) : Bool := match spaceOf pa with
  | .host _ => true
  | _ => false

/-- The eleven atomics (R219 to R221). i gives the word for an illegal SCOPE. -/
def atomicOp (i : Instr) (op : AtomicOp) (names : List (List NameClass × NameF)) (d a : NameF) (w32 : Bool) (o : BitVec 2)
    (c : BitVec 3) (s : State) : Host.Outcome State Fault Refusal :=
  let w := if w32 then 32 else 64
  let n := w / 8
  let va := s.ctx.read a
  (if ordReleases o && s.postedBy s.ctx.id then s else s.asked false va .write n).finish do
    require (decide (c.toNat ≤ 5)) 0x01 (wordOf i)
    s.ctx.checkNames names
    let (pa, _) ← s.locate s.ctx.owner s.ctx.sup va .write n
    require (!(isHost pa && !atomicOnHost op)) 0x09 va
    require (s.backed false pa) 0x0C va
    waitUnless (!(ordReleases o && s.postedBy s.ctx.id))
    let (old, s1) ← s.fetchData va pa n
    s.ctx.sound (if op = .cas then [d, d + 1, a] else [d, a]) []
    let x := (s.ctx.read d).toNat % 2 ^ w
    let y := (s.ctx.read (d + 1)).toNat % 2 ^ w
    let s2 := s1.writeCells pa n (atomicNew op w old x y)
    return (s2.withCtx (s2.ctx.write d (atomicExt op w old))).advance

/-- The names of the atomics but ACAS: D an s name or z, A an s name (R219). -/
def atomicNames (d a : NameF) : List (List NameClass × NameF) := [(clsS, d), (clsS1, a)]

/-- AADD (R219). -/
def execAadd (d a : NameF) (w : Bool) (o : BitVec 2) (c : BitVec 3) (s : State) : Host.Outcome State Fault Refusal :=
  atomicOp (.aadd d a w o c) .add (atomicNames d a) d a w o c s
/-- AINC (R219). -/
def execAinc (d a : NameF) (w : Bool) (o : BitVec 2) (c : BitVec 3) (s : State) : Host.Outcome State Fault Refusal :=
  atomicOp (.ainc d a w o c) .inc (atomicNames d a) d a w o c s
/-- AMINS (R219). -/
def execAmins (d a : NameF) (w : Bool) (o : BitVec 2) (c : BitVec 3) (s : State) : Host.Outcome State Fault Refusal :=
  atomicOp (.amins d a w o c) .mins (atomicNames d a) d a w o c s
/-- AMAXS (R219). -/
def execAmaxs (d a : NameF) (w : Bool) (o : BitVec 2) (c : BitVec 3) (s : State) : Host.Outcome State Fault Refusal :=
  atomicOp (.amaxs d a w o c) .maxs (atomicNames d a) d a w o c s
/-- AMINN (R219). -/
def execAminn (d a : NameF) (w : Bool) (o : BitVec 2) (c : BitVec 3) (s : State) : Host.Outcome State Fault Refusal :=
  atomicOp (.aminn d a w o c) .minn (atomicNames d a) d a w o c s
/-- AMAXN (R219). -/
def execAmaxn (d a : NameF) (w : Bool) (o : BitVec 2) (c : BitVec 3) (s : State) : Host.Outcome State Fault Refusal :=
  atomicOp (.amaxn d a w o c) .maxn (atomicNames d a) d a w o c s
/-- AAND (R219). -/
def execAand (d a : NameF) (w : Bool) (o : BitVec 2) (c : BitVec 3) (s : State) : Host.Outcome State Fault Refusal :=
  atomicOp (.aand d a w o c) .and (atomicNames d a) d a w o c s
/-- AOR (R219). -/
def execAor (d a : NameF) (w : Bool) (o : BitVec 2) (c : BitVec 3) (s : State) : Host.Outcome State Fault Refusal :=
  atomicOp (.aor d a w o c) .or (atomicNames d a) d a w o c s
/-- AXOR (R219). -/
def execAxor (d a : NameF) (w : Bool) (o : BitVec 2) (c : BitVec 3) (s : State) : Host.Outcome State Fault Refusal :=
  atomicOp (.axor d a w o c) .xor (atomicNames d a) d a w o c s
/-- AXCHG (R219). -/
def execAxchg (d a : NameF) (w : Bool) (o : BitVec 2) (c : BitVec 3) (s : State) : Host.Outcome State Fault Refusal :=
  atomicOp (.axchg d a w o c) .xchg (atomicNames d a) d a w o c s

/-- ACAS (R221): D is s0 to s94; every other name traps with 0x02. -/
def execAcas (d a : NameF) (w : Bool) (o : BitVec 2) (c : BitVec 3) (s : State) : Host.Outcome State Fault Refusal :=
  atomicOp (.acas d a w o c) .cas [(if d = 127 then [] else clsS1, d), (clsS1, a)] d a w o c s

/-- FENCE (R222): it holds issue until every earlier store has performed. A scope of core or wider lets a branch or JR show
the stream's fetch what came before (R75): other streams' stores too, even of other cores, for which R75 leaves the old or the new word
until an acquire at their scope (DESIGN CHOICE, LOG 94). -/
def fenceOp (i : Instr) (constants : Bool) (c : BitVec 3) (s : State) : Host.Outcome State Fault Refusal :=
  s.finish do
    require (decide (c.toNat ≤ 5)) 0x01 (wordOf i)
    waitUnless (!s.postedBy s.ctx.id)
    let x := s.ctx
    let y := if 1 ≤ c.toNat then { x with fencedAt := s.now } else x
    return (s.withCtx (if constants then { y with constAt := s.now } else y)).advance

/-- FENCE (R222). -/
def execFence (c : BitVec 3) (s : State) : Host.Outcome State Fault Refusal := fenceOp (.fence c) false c s
/-- FENCE.c (R222, R290). -/
def execFenceC (c : BitVec 3) (s : State) : Host.Outcome State Fault Refusal := fenceOp (.fenceC c) true c s

/-- CLAIM (R223, R224). -/
def execClaim (d a b : NameF) (s : State) : Host.Outcome State Fault Refusal :=
  let va := s.ctx.read a
  (s.asked false va .write 16).finish do
    s.ctx.checkNames [(clsS, d), (clsS1, a), (clsS1, b)]
    let (pa, _) ← s.locate s.ctx.owner s.ctx.sup va .write 16
    require (decide (spaceOf pa = .device ∨ spaceOf pa = .control ∨ spaceOf pa = .none)) 0x09 va
    require (s.backed false pa) 0x0C va
    let (v, s1) ← s.fetchData va pa 16
    s.ctx.sound [a, b] [0x04] [d]
    let req := min (s.ctx.read b).toNat (16384 / s.ctx.nrow)
    let next := v % 2 ^ 64
    let lim := v / 2 ^ 64
    let g := if lim ≤ next then 0 else min req (lim - next)
    let s2 := s1.writeCells pa 8 ((next + g) % 2 ^ 64)
    let c := s2.ctx
    return (s2.withCtx (if g = 0 then c.write d 0xFFFFFFFFFFFFFFFF
      else { c.write d (BitVec.ofNat 64 next) with ncol := g })).advance

end Sys2Proof.Machine
end

