-- ==== Sys2Proof/Machine/Issue.lean ====
section
/-! DEFINITION. What every bank-class instruction meets at its issue: the work before it in its banks (R166), the operand locks of
an MMF (R261, R267), and the strip boundary (R121). -/

namespace Sys2Proof.Machine

/-- The banks of the running sub-gang at debt 8 have their forced slots before they start anything (R158). -/
def State.forced (s : State) : State :=
  (bankList s.ctx.gmBanks).foldl (fun t j => t.forceSlot s.ctx.core j) s

/-- The hold of a GBAR is over (R205). -/
def State.released (s : State) : State := if s.ctx.gbar then s.withCtx { s.ctx with gbar := false } else s

/-- The state an instruction acts on that waits for the work before it in its banks (R166). -/
def State.readied (s : State) : State := s.forced.settled.released

/-- The state an instruction acts on that leaves the banks' work in flight, unless a GBAR holds it (R205). -/
def State.begun (s : State) : State := if s.ctx.gbar then s.readied else s.forced

/-- A bank-class instruction may issue: no GBAR holds it for an MMF (R205). The work before it in its banks is done. -/
def State.ready (s : State) : Except Stop State :=
  if s.ctx.gbar && s.ctx.workingHere then .error .wait else .ok s.readied

/-- The same for a code that leaves the banks' work in flight. -/
def State.issued (s : State) : Except Stop State :=
  if s.ctx.gbar && s.ctx.workingHere then .error .wait else .ok s.begun

/-- The fields of a grant word (R255). -/
def grantM (g : Word) : Nat := g.toNat % 2 ^ 7
def grantN (g : Word) : Nat := g.toNat / 2 ^ 8 % 2 ^ 6
def grantKC (g : Word) : Nat := g.toNat / 2 ^ 16 % 2 ^ 16
def grantL (g : Word) : Bool := g.getLsbD 35
def grantSA (g : Word) : Nat := g.toNat / 2 ^ 40 % 2 ^ 12
def grantSB (g : Word) : Nat := g.toNat / 2 ^ 52

/-- The element of A(m, k) and of B(k, n) (R260). -/
def indexA (g : Word) (m k : Nat) : Nat := if grantL g then grantSA g * m + k else 64 * k + m
def indexB (g : Word) (n k : Nat) : Nat := if grantL g then grantSB g * n + k else 32 * k + n

/-- The elements the operand groups hold: the highest index read plus 1 (R260). With no grant the spec gives no M, N and KC, and the
model counts one element (DESIGN CHOICE, LOG 99). -/
def countA (g : Word) : Nat := indexA g (grantM g - 1) (grantKC g - 1) + 1
def countB (g : Word) : Nat := indexB g (grantN g - 1) (grantKC g - 1) + 1

/-- The names an MMF in flight has locked (R261). -/
def MmfFlight.locked (m : MmfFlight) (c : Context) : List Nat :=
  c.groupNames m.a.toNat m.tagA (countA m.mg) ++ c.groupNames m.b.toNat m.tagB (countB m.mg)

/-- No lock or accumulator of an MMF in flight, that no stop has interrupted (R272), holds an instruction that reads and writes these
names of a bank: locks that have ended hold nothing (R261). -/
def Context.unlocked (c : Context) (reads writes : List Nat) : Bool :=
  match c.mmf with
  | none => true
  | some m =>
    m.released || m.stopped || !c.gmBanks.getLsbD m.bank ||
      ((m.freed || !(writes.any fun n => (m.locked c).contains n)) &&
        (decide (grantPos m.mg ≠ 0) || !((reads ++ writes).contains m.d.toNat)))

/-- A bank-class instruction with a memory event waits for the strip's ordering interval to close (R121). -/
def State.stripOpen (s : State) : Bool := !s.postedBefore s.ctx.id

end Sys2Proof.Machine
end

