-- ==== Sys2Proof/Machine/Rows.lean ====
section
/-! DEFINITION. Row instructions and the configuration (R128 to R158, R17, R159): VCFG, VSHAPE, ACT, ACTZ, WB, PRE, RCOPY, TAG,
SAVEROW, LOADROW, REF. -/

namespace Sys2Proof.Machine

/-- The translation of a row's virtual address (R129, R130). -/
def State.rowAt (s : State) (kind : AccessKind) (a : Word) (j i : Nat) : Except Stop (Nat × Page) :=
  s.translate false (s.ctx.rowVa a j i) kind 8192

/-- The address is in the placed view and in bank j of the stream's core (R130). -/
def Context.inBank (c : Context) (j pa : Nat) : Bool :=
  decide (spaceOf pa = .device ∧ pa / 2 ^ 39 % 2 = 0 ∧ coreOfLoc pa = c.core ∧ pa / 2 ^ 25 % 16 = j)

/-- The segment and the row index of a placed address. -/
def segOf (pa : Nat) : Nat := pa / 2 ^ 22 % 8
def rowIndex (pa : Nat) : Nat := pa / 2 ^ 13 % 512

/-- The row index of segment 0, where its translation succeeds. -/
def State.rowIndexOf (s : State) (kind : AccessKind) (a : Word) (j : Nat) : Option Nat :=
  match s.rowAt kind a j 0 with
  | .ok (pa, _) => some (rowIndex pa)
  | .error _ => none

/-- The failures of a row address for register v in one bank (R130, R131). -/
def State.placeFails (s : State) (kind : AccessKind) (v : Nat) (a : Word) (j : Nat) : List (Nat × Word) :=
  let c := s.ctx
  (List.range c.segs).flatMap fun i =>
    match s.rowAt kind a j i with
    | .error (.trap k w _) => [(k, w)]
    | .error .wait => []
    | .ok (pa, _) =>
      failIf (!(c.inBank j pa && decide (segOf pa = v * c.segs + i) &&
        ((s.rowIndexOf kind a j).all fun r => decide (r = rowIndex pa)))) 0x0A (c.rowVa a j i)

/-- No page walk of the row addresses has to wait. -/
def State.rowsReady (s : State) (kind : AccessKind) (a : Word) (segs : Nat) : Bool :=
  (bankList s.ctx.gmBanks).all fun j => (List.range segs).all fun i => !isWait (s.rowAt kind a j i)

/-- The physical address and the page of a row that passed its checks. -/
def State.rowPa (s : State) (kind : AccessKind) (a : Word) (j i : Nat) : Nat :=
  match s.rowAt kind a j i with
  | .ok (pa, _) => pa
  | .error _ => 0

/-- The pages of a register's segments. -/
def State.rowPages (s : State) (kind : AccessKind) (a : Word) (j : Nat) : List PinPage :=
  (List.range s.ctx.segs).filterMap fun i => match s.rowAt kind a j i with
    | .ok (_, e) => some (pinPage (s.ctx.rowVa a j i).toNat e)
    | .error _ => none

/-- Some row of these segments, the first at physical address pa, waits behind a detent or a sleeping tier (R243), or for a store of the
stream's own to it that is on its way (R296). -/
def State.rowsBlocked (s : State) (pa segs : Nat) : Bool :=
  (List.range segs).any fun i => s.blocked (pa + i * 2 ^ 22) 8192 || s.postedOver s.ctx.id (pa + i * 2 ^ 22) 8192

/-- The rows of these segments have been read (R134, R368). -/
def State.rowsCorrected (s : State) (loc segs : Nat) : State :=
  (List.range segs).foldl (fun s i => s.corrected (loc + i * 2 ^ 22) 8192) s

/-- ACT and ACTZ in one bank (R133, R134). -/
def State.openRow (s : State) (kind : AccessKind) (zero : Bool) (v : Nat) (a : Word) (t : TagBits) (j : Nat) : RowReg :=
  let c := s.ctx
  let pa := s.rowPa kind a j 0
  let r : RowReg := { RowReg.reset with
    st := .opened, row := BitVec.ofNat 26 (pa / 2 ^ 13), pin := (c.rowVa a j 0).setWidth 56, tag := t,
    pinned := s.rowPages kind a j }
  if zero then { r with dirty := BitVec.ofNat 256 (2 ^ (32 * c.segs) - 1) }
  else
    let (latch, ms) := s.readLatch c.segs (placedRow c.core j (v * c.segs) (rowIndex pa))
    { r with latch := BitVec.ofNat 524288 latch }.markBeats ms

/-- Set one register in every bank of the gang. -/
def Context.setRows (c : Context) (v : Nat) (f : Nat → RowReg) : Context :=
  (bankList c.gmBanks).foldl (fun c j => c.setBank j ((c.bank j).setRow v (f j))) c

/-- The state a row operation acts on: it waits for the work before it in its banks, and for their pending refresh slots (R150). -/
def State.rowReady (s0 : State) : Except Stop State := do
  let s ← s0.ready
  return s.serveRefs s.ctx.core (bankList s.ctx.gmBanks)

/-- ACT and ACTZ (R133). -/
def actOp (zero : Bool) (d a : NameF) (t : BitVec 4) (s0 : State) : Host.Outcome State Fault Refusal :=
  s0.finish do
    s0.ctx.checkNames [(clsRow, d), (clsS1, a)]
    let s ← s0.rowReady
    let c := s.ctx
    let v := d.toNat
    let x := c.read a
    let kind := if zero then AccessKind.write else AccessKind.row
    waitUnless (s.rowsReady kind x c.segs)
    checkBanks (fun j =>
      c.soundFails [a] [0x03, 0x0E] ++ failIf (decide (((c.bank j).row v).st ≠ .closed)) 0x02 (nameWord v) ++
        s.placeFails kind v x j) (bankList c.gmBanks)
    waitUnless (c.unlocked [] [v])
    waitUnless (zero || (s.stripOpen && (bankList c.gmBanks).all fun j => !s.rowsBlocked (s.rowPa kind x j 0) c.segs))
    let u := if zero then s else (bankList c.gmBanks).foldl (fun u j => u.rowsCorrected (s.rowPa kind x j 0) c.segs) s
    return (u.withCtx (c.setRows v (s.openRow kind zero v x t))).advance

/-- ACT (R133). -/
def execAct (d a : NameF) (t : BitVec 4) (s : State) : Host.Outcome State Fault Refusal := actOp false d a t s
/-- ACTZ (R133). -/
def execActz (d a : NameF) (t : BitVec 4) (s : State) : Host.Outcome State Fault Refusal := actOp true d a t s

/-- The placed address of an open register's first row (R14). -/
def RowReg.base (r : RowReg) : Nat := r.row.toNat * 2 ^ 13

/-- Write the dirty beats of a register to its rows (R135). -/
def State.writeBeats (s : State) (r : RowReg) (segs : Nat) : State :=
  (List.range (32 * segs)).foldl (fun s b =>
    if r.dirty.getLsbD b then s.writeCells (r.base + b / 32 * 2 ^ 22 + b % 32 * 256) 256 (bitsOf r.latch (2048 * b) 2048) else s) s

/-- WB (R135). -/
def execWb (d : NameF) (s0 : State) : Host.Outcome State Fault Refusal :=
  s0.finish do
    s0.ctx.checkNames [(clsRow, d)]
    let s ← s0.rowReady
    let c := s.ctx
    let v := d.toNat
    let js := bankList c.gmBanks
    checkBanks (fun j =>
      let r := (c.bank j).row v
      (c.bank j).rowState v ++ failIf (r.pinned.any fun p => !p.w) 0x09 (r.pin.setWidth 64) ++ c.soundFails [] [0x03, 0x0E]) js
    waitUnless (s.stripOpen && js.all fun j => !s.rowsBlocked ((c.bank j).row v).base c.segs)
    let s1 := js.foldl (fun s j => s.writeBeats ((c.bank j).row v) c.segs) s
    return (s1.withCtx (s1.ctx.setRows v fun j => { (c.bank j).row v with dirty := 0 })).advance

/-- PRE (R136). -/
def execPre (d : NameF) (s0 : State) : Host.Outcome State Fault Refusal :=
  s0.finish do
    s0.ctx.checkNames [(clsRow, d)]
    s0.ctx.sound [] [0x03, 0x0E]
    let s ← s0.ready
    waitUnless (s.ctx.unlocked [] [d.toNat])
    return (s.withCtx (s.ctx.setRows d.toNat fun _ => RowReg.reset)).advance

/-! RCOPY. -/

/-- The failures of RCOPY in one bank: the source first (R145). -/
def State.rcopyFails (s : State) (src dst : Word) (j : Nat) : List (Nat × Word) :=
  let c := s.ctx
  let rs := s.rowAt .row src j 0
  let rd := s.rowAt .write dst j 0
  let one := fun (r : Except Stop (Nat × Page)) (va : Word) => match r with
    | .error (.trap k w _) => [(k, w)]
    | .error .wait => []
    | .ok (pa, _) => failIf (!c.inBank j pa) 0x0A va
  let pair := match rs, rd with
    | .ok (p, _), .ok (q, _) => failIf (decide (segOf p ≠ segOf q)) 0x0A (c.rowVa dst j 0)
    | _, _ => []
  one rs (c.rowVa src j 0) ++ one rd (c.rowVa dst j 0) ++ pair

/-- Copy a row cell to cell, with the marks of its sectors (R145). An error of the source that a read corrects is not copied: whether the
destination keeps it the spec does not say (DESIGN CHOICE, LOG 95). -/
def State.copyRow (s : State) (p q : Nat) : State :=
  if p = q then s
  else
    let ms := s.marks.filter fun e => decide (p ≤ 32 * e.1 ∧ 32 * e.1 < p + 8192 ∧ e.2 ≠ .latent)
    let s1 := (s.corrected p 8192).writeCells q 8192 (s.readCells p 8192)
    { s1 with marks := ms.foldl (fun m e => tabPut m (e.1 - p / 32 + q / 32) e.2) s1.marks }

/-- RCOPY (R145). -/
def execRcopy (d a : NameF) (s0 : State) : Host.Outcome State Fault Refusal :=
  s0.finish do
    s0.ctx.checkNames [(clsS1, d), (clsS1, a)]
    let s ← s0.rowReady
    let c := s.ctx
    let js := bankList c.gmBanks
    let src := c.read a
    let dst := c.read d
    waitUnless (s.rowsReady .row src 1 && s.rowsReady .write dst 1)
    checkBanks (fun j => c.soundFails [d, a] [0x0E] ++ s.rcopyFails src dst j) js
    waitUnless (s.stripOpen && js.all fun j =>
      !s.rowsBlocked (s.rowPa .row src j 0) 1 && !s.rowsBlocked (s.rowPa .write dst j 0) 1)
    return (js.foldl (fun t j => t.copyRow (s.rowPa .row src j 0) (s.rowPa .write dst j 0)) s).advance

/-- TAG (R146). -/
def execTag (d : NameF) (t : BitVec 4) (s0 : State) : Host.Outcome State Fault Refusal :=
  s0.finish do
    s0.ctx.checkNames [(clsV, d)]
    let s ← s0.ready
    let c := s.ctx
    let n := d.toNat
    let js := bankList c.gmBanks
    checkBanks (fun j => (if n < 8 then (c.bank j).rowState n else (c.bank j).keepRead c.lt n) ++
      c.soundFails [] [0x00, 0x03, 0x0E]) js
    waitUnless (c.unlocked [] [n])
    return (s.withCtx (js.foldl (fun c j => c.setBank j ((c.bank j).setTag n t)) c)).advance

/-! SAVEROW and LOADROW. -/

/-- The address of the descriptor of bank j (R140). -/
def Context.descVa (c : Context) (b : Word) (j : Nat) : Word :=
  b + BitVec.ofInt 64 (((j : Int) - c.gmBase.toNat) * 2560)

/-- The five 512-byte pieces of a descriptor, each inside one page and one request: how many a descriptor takes the spec does not say
(DESIGN CHOICE, LOG 97). -/
def State.descPiece (s : State) (kind : AccessKind) (b : Word) (j i : Nat) : Except Stop (Nat × Page) :=
  s.translate false (s.ctx.descVa b j + BitVec.ofNat 64 (512 * i)) kind 512

/-- The failures of a descriptor's address in one bank; TVAL is the descriptor address (R141, R142). -/
def State.descFails (s : State) (kind : AccessKind) (b : Word) (j : Nat) : List (Nat × Word) :=
  let va := s.ctx.descVa b j
  (List.range 5).flatMap fun i => match s.descPiece kind b j i with
    | .error (.trap k _ _) => [(k, va)]
    | _ => []

def State.descReady (s : State) (kind : AccessKind) (b : Word) : Bool :=
  (bankList s.ctx.gmBanks).all fun j => (List.range 5).all fun i => !isWait (s.descPiece kind b j i)

def State.descPa (s : State) (kind : AccessKind) (b : Word) (j i : Nat) : Nat :=
  match s.descPiece kind b j i with
  | .ok (pa, _) => pa
  | .error _ => 0

/-- A descriptor write leaves the core as a plain store, in its request slot or waiting for one (R141, R291, R292); of one that leaves the
stack the flits cross the hasp die in their turns (R308). -/
def State.sendPiece (s : State) (va pa v : Nat) : State :=
  let free := s.slotFree pa
  if !free || s.blocked pa 512 || s.postedOver s.ctx.id pa 512 || s.crosses s.ctx.core pa || !s.classTurn 0 pa || !s.oldestAt 0 s.now pa then s.post va pa 512 v false free
  else (s.writeCells pa 512 v).reached s.ctx.core 0 pa

/-- SAVEROW (R141). -/
def execSaverow (d a b : NameF) (s0 : State) : Host.Outcome State Fault Refusal :=
  s0.finish do
    s0.ctx.checkNames [(clsRow, d), (clsS1, a), (clsS1, b)]
    let s ← s0.rowReady
    let c := s.ctx
    let v := d.toNat
    let js := bankList c.gmBanks
    let x := c.read a
    let y := c.read b
    let held := fun (j : Nat) => decide (((c.bank j).row v).st ≠ .closed)
    waitUnless (s.descReady .write y && (s.rowsReady .write x c.segs || !js.any held))
    checkBanks (fun j => c.soundFails [a, b] [0x03, 0x0E] ++ (if held j then s.placeFails .write v x j else []) ++
      s.descFails .write y j) js
    waitUnless (s.stripOpen && js.all fun j => !held j || !s.rowsBlocked (s.rowPa .write x j 0) c.segs)
    let s1 := js.foldl (fun t j => if held j then t.writeLatch ((c.bank j).row v) c.segs (s.rowPa .write x j 0) else t) s
    let s2 := js.foldl (fun t j => (List.range 5).foldl (fun t i =>
      t.sendPiece ((c.descVa y j).toNat + 512 * i) (s.descPa .write y j i)
        (fieldOf (((c.bank j).row v).descriptor c.vcode.toNat) (4096 * i) 4096)) t) s1
    return s2.advance

/-- The descriptor of a bank as LOADROW reads it. -/
def State.descriptorAt (s : State) (b : Word) (j : Nat) : Nat :=
  (List.range 5).foldr (fun i acc => acc + s.readCells (s.descPa .read b j i) 512 * 2 ^ (4096 * i)) 0

/-- The failures of LOADROW in one bank, in the order of R142. -/
def State.loadrowFails (s : State) (v : Nat) (a b : Word) (j : Nat) : List (Nat × Word) :=
  let c := s.ctx
  let va := c.descVa b j
  let reads := s.descFails .read b j
  let closed := failIf (decide (((c.bank j).row v).st ≠ .closed)) 0x02 (nameWord v)
  if closed ≠ [] then closed
  else if reads ≠ [] then reads
  else
    match (List.range 5).filterMap fun i => s.markCause (s.locOf (s.descPa .read b j i)) 512 with
    | k :: ks => (k :: ks).map fun k => (k, va)
    | [] =>
      let d := s.descriptorAt b j
      let st := d % 4
      let row := fieldOf d 64 26
      if fieldOf d 56 8 ≠ 0xB7 ∨ fieldOf d 6 2 ≠ c.vcode.toNat ∨ st = 3 then [(0x0A, va)]
      else if st ≠ 0 ∧ (row / 2 ^ 12 % 16 ≠ j ∨ row / 2 ^ 9 % 8 ≠ v * c.segs) then [(0x0A, va)]
      else if st ≠ 0 then s.placeFails .row v a j
      else []

/-- The pieces of its descriptors that a LOADROW cannot read yet, in increasing bank order. -/
def State.descWaits (s : State) (b : Word) : List Nat :=
  ((bankList s.ctx.gmBanks).flatMap fun j => (List.range 5).map fun i => s.descPiece .read b j i).filterMap fun r => match r with
    | .ok (pa, _) => if s.mayAccess pa 512 && !s.blocked pa 512 then none else some pa
    | .error _ => none

/-- The state a LOADROW waits in: with a request for each piece of a descriptor that it cannot read (R291), the slots given out in bank
order (R292). -/
def State.askDesc (s : State) (b : Word) : State :=
  s.withCtx { s.ctx with asking := (s.descWaits b).foldl (fun rs pa =>
    let d := s.destination pa
    rs ++ [{ s.request d pa 512 with
      held := (s.withCtx { s.ctx with asking := rs }).slotFreeTo s.ctx.core s.askedAt d && !s.postedOver s.ctx.id pa 512 && !s.postedBefore s.ctx.id }]) [] }

/-- LOADROW (R142 to R144). -/
def execLoadrow (d a b : NameF) (s0 : State) : Host.Outcome State Fault Refusal :=
  (s0.askDesc (s0.ctx.read b)).finish do
    s0.ctx.checkNames [(clsRow, d), (clsS1, a), (clsS1, b)]
    let s ← s0.rowReady
    let c := s.ctx
    let v := d.toNat
    let js := bankList c.gmBanks
    let x := c.read a
    let y := c.read b
    waitUnless (s.descReady .read y)
    waitUnless (js.all fun j => decide (((c.bank j).row v).st ≠ .closed) || s.descFails .read y j ≠ [] ||
      (List.range 5).all fun i => s.mayAccess (s.descPa .read y j i) 512 && !s.blocked (s.descPa .read y j i) 512)
    checkBanks (fun j => c.soundFails [a, b] [0x03, 0x0E] ++ s.loadrowFails v x y j) js
    let live := fun (j : Nat) => decide (s.descriptorAt y j % 4 ≠ 0)
    waitUnless (js.all fun j => !live j || (List.range c.segs).all fun i => !isWait (s.rowAt .row x j i))
    waitUnless (js.all fun j => !s.rePinWaits c (s.descriptorAt y j))
    waitUnless (s.stripOpen && c.unlocked [] [v] && js.all fun j => !live j || !s.rowsBlocked (s.rowPa .row x j 0) c.segs)
    let t := js.foldl (fun t j => (List.range 5).foldl (fun t i => t.corrected (s.locOf (s.descPa .read y j i)) 512) t) s
    let u := js.foldl (fun u j => if live j then u.rowsCorrected (s.rowPa .row x j 0) c.segs else u) t
    return (u.withCtx (c.setRows v fun j => s.loadReg c (s.rowPa .row x j 0) (s.descriptorAt y j))).advance

/-- A write of a predicate in every bank of the gang clears the soft errors of its words (R369). -/
def Context.mendPred (c : Context) (p : Nat) (word : Option Nat) : Context :=
  if c.bad = [] then c
  else { c with bad := c.bad.filter fun e =>
    !((bankList c.gmBanks).any fun j =>
      let base := 512 + 2048 * j + 256 * p
      decide (base ≤ e.1 ∧ e.1 < base + 256) && (word.all fun w => decide (e.1 = base + w))) }

/-! Configuration and shape. -/

/-- VCFG (R17, R147, R208): an MMF before it is complete, and the slots of an earlier REF have started. -/
def execVcfg (x : BitVec 2) (s0 : State) : Host.Outcome State Fault Refusal :=
  s0.finish do
    require (!s0.ctx.gmSub) 0x01 (wordOf (.vcfg x))
    let s ← s0.rowReady
    let c := s.ctx
    checkBanks (fun j => ((List.range c.nNames).flatMap fun n =>
      failIf (decide (((c.bank j).row n).st ≠ .closed)) 0x02 (nameWord n)) ++ c.soundFails [] [0x03, 0x0E]) (bankList c.gmBanks)
    waitUnless (!c.working)
    return (s.withCtx { c.mend [0x03] with vcode := x }).advance

/-- VSHAPE is emitted to the trace when it issues (R382). -/
def setShape (s : State) (r n : Nat) : State :=
  let s1 := s.withCtx { s.ctx.mend [0x04] with nrow := r, ncol := n }
  (s1.emitTrace 5 0 (s.ctx.pc.toNat % 2 ^ 56) s1.ctx.shapeWord).advance

/-- VSHAPE, immediate form: NROW 2^i and NCOL 2^j (R79). -/
def execVshapeImm (j i : BitVec 4) (s0 : State) : Host.Outcome State Fault Refusal :=
  s0.finish do
    require (decide (i.toNat + j.toNat ≤ 14)) 0x01 (wordOf (.vshapeImm j i))
    let s ← s0.issued
    return setShape s (2 ^ i.toNat) (2 ^ j.toNat)

/-- A dimension of SHAPE is in range (R193). -/
def dimOk (n : Nat) : Bool := decide (1 ≤ n ∧ n ≤ 16384)

/-- VSHAPE from scalars (R193). -/
def execVshape (a b : NameF) (s0 : State) : Host.Outcome State Fault Refusal :=
  s0.finish do
    s0.ctx.checkNames [(clsS, a), (clsS, b)]
    let s ← s0.issued
    let r := (s.ctx.read a).toNat
    let n := (s.ctx.read b).toNat
    require (dimOk r) 0x02 (a.setWidth 64)
    require (dimOk n && decide (r * n ≤ 16384)) 0x02 (b.setWidth 64)
    s.ctx.sound [a, b] []
    return setShape s r n

/-- REF n in the banks of the gang (R155). Eager lanes start the slots at once (LOG 12). -/
def refOp (s : State) (n : Nat) : State :=
  let c := s.ctx
  let ask := fun (r : CoreRec) (j : Nat) =>
    { r with refReq := tabSet [] r.refReq j (tabGet [] r.refReq j ++ [(n, false)]) }
  let s1 := if n = 0 then s else s.setCore c.core ((bankList c.gmBanks).foldl ask (s.core c.core))
  (if s.eager then s1.serveRefs c.core (bankList c.gmBanks) else s1).advance

/-- REF, immediate form (R79, R155). -/
def execRefImm (n : BitVec 4) (s0 : State) : Host.Outcome State Fault Refusal :=
  s0.finish do
    require (decide (1 ≤ n.toNat ∧ n.toNat ≤ 8)) 0x01 (wordOf (.refImm n))
    let s ← s0.issued
    s.ctx.sound [] [0x0E]
    return refOp s n.toNat

/-- REF of a scalar (R155). -/
def execRefScalar (a : NameF) (s0 : State) : Host.Outcome State Fault Refusal :=
  s0.finish do
    s0.ctx.checkNames [(clsS1, a)]
    let s ← s0.issued
    s.ctx.sound [a] [0x0E]
    return refOp s (min (s.ctx.read a).toNat 8)

end Sys2Proof.Machine
end

