-- ==== Sys2Proof/Machine/Vector.lean ====
section
/-! DEFINITION. The vector instructions (R159 to R192). -/

namespace Sys2Proof.Machine

/-- The locks of an MMF in flight let an instruction pass that reads and writes the names touch gives for a bank. -/
def Context.passes (c : Context) (touch : Nat → List Nat × List Nat) : Bool :=
  match c.mmf with
  | none => true
  | some m => c.unlocked (touch m.bank).1 (touch m.bank).2

/-- The control registers every vector instruction uses: FPCR, VCFGR, SHAPE, GM (R369). -/
def vecCtl : List Nat := [0x00, 0x03, 0x04, 0x0E]

/-- A bank-class instruction that runs whole in each bank once the work before it is done: names, checks and soft errors in every bank
(R131, R408), locks, effect. -/
def bankOp (s0 : State) (names : List (List NameClass × NameF)) (reads : List NameF)
    (check : State → Nat → List (Nat × Word)) (touch : State → Nat → List Nat × List Nat) (effect : State → Context) :
    Host.Outcome State Fault Refusal :=
  s0.finish do
    s0.ctx.checkNames names
    let s ← s0.ready
    checkBanks (fun j => check s j ++ s.ctx.soundFails reads vecCtl (names.map Prod.snd)) (bankList s.ctx.gmBanks)
    waitUnless (s.ctx.passes (touch s))
    return (s.withCtx (effect s)).advance

/-- A compare has written its predicate whole, and with it the soft errors there (R369). -/
def SlotForm.mend (f : SlotForm) (c : Context) : Context := match f with
  | .cmp _ _ _ p => c.mendPred (p.toNat - 16) none
  | _ => c

/-- The instruction is left in a slot of every bank of the gang, not run whole at its issue (R164, LOG 12). -/
def SlotForm.lazily (f : SlotForm) (i : Instr) (s : State) : Bool :=
  !s.eager && (bankList s.ctx.gmBanks).all (f.stays i s.ctx s.now)

/-- Every bank of the gang has a free slot (R164). -/
def Context.slotsFree (c : Context) : Bool := (bankList c.gmBanks).all fun j => decide ((c.bank j).slots.length < 4)

/-- The instruction takes its slots, or runs whole. -/
def SlotForm.start (f : SlotForm) (i : Instr) (s : State) : State :=
  let js := bankList s.ctx.gmBanks
  if f.lazily i s then s.withCtx (f.mend (s.ctx.overBanks (fun j b => (f.enter i s.ctx s.now j b, 0)) js))
  else
    let t := s.settled
    t.withCtx (f.mend (t.ctx.overBanks (f.atOnce i t.ctx t.now) js))

/-- The state a slot-taking instruction acts on: it waits for the work before it where it needs that complete (R181, R188). A
cross-bank one takes its slots and starts later (R197). -/
def SlotForm.onset (f : SlotForm) (s : State) : Except Stop State :=
  if s.eager || f.waits || s.ctx.freeing (bankList s.ctx.gmBanks) then s.ready else s.issued

/-- An instruction that takes a slot (R164): names, checks and soft errors in every bank (R131, R408), locks, a free slot, effect. A
cross-bank one issues only once an MMF before it is complete, so that a stop never has to finish it beside a stopped MMF (DEDUCED,
LOG 87). -/
def slotOp (i : Instr) (names : List (List NameClass × NameF)) (reads : List NameF) (check : State → Nat → List (Nat × Word))
    (s0 : State) : Host.Outcome State Fault Refusal :=
  match slotForm i with
  | none => s0.finish (trapS 0x01 (wordOf i))
  | some f => s0.finish do
    s0.ctx.checkNames names
    let s ← f.onset s0
    checkBanks (fun j => check s j ++ s.ctx.soundFails reads vecCtl (names.map Prod.snd)) (bankList s.ctx.gmBanks)
    waitUnless (s.ctx.passes fun j => f.touches s.ctx (f.issue i s.ctx s.now j))
    waitUnless (!f.cross || !s.ctx.workingHere)
    waitUnless (!f.lazily i s || s.ctx.slotsFree)
    return (f.start i s).advance

/-- An elementwise instruction (R171). -/
def laneOp (i : Instr) (names : List (List NameClass × NameF)) (s0 : State) : Host.Outcome State Fault Refusal :=
  match laneForm i with
  | none => s0.finish (trapS 0x01 (wordOf i))
  | some f => slotOp i names [f.b.getD 24] (fun s j => f.fails s.ctx s.now (s.ctx.bank j)) s0

/-- The name classes of the three-operand codes (R171). -/
def namesDAB (d a b : NameF) : List (List NameClass × NameF) := [(clsVz, d), (clsVz, a), (clsVzs, b)]
def namesDA (d a : NameF) : List (List NameClass × NameF) := [(clsVz, d), (clsVz, a)]

/-- VADD (R173, R174). -/
def execVadd (la lb : Bool) (d a b : NameF) (s : State) : Host.Outcome State Fault Refusal :=
  laneOp (.vadd la lb d a b) (namesDAB d a b) s

/-- VSUB (R173, R174). -/
def execVsub (la lb : Bool) (d a b : NameF) (s : State) : Host.Outcome State Fault Refusal :=
  laneOp (.vsub la lb d a b) (namesDAB d a b) s

/-- VMUL (R173, R174). -/
def execVmul (la lb : Bool) (d a b : NameF) (s : State) : Host.Outcome State Fault Refusal :=
  laneOp (.vmul la lb d a b) (namesDAB d a b) s

/-- VFMA (R173, R174). -/
def execVfma (la lb : Bool) (d a b : NameF) (s : State) : Host.Outcome State Fault Refusal :=
  laneOp (.vfma la lb d a b) (namesDAB d a b) s

/-- VFMS (R173, R174). -/
def execVfms (la lb : Bool) (d a b : NameF) (s : State) : Host.Outcome State Fault Refusal :=
  laneOp (.vfms la lb d a b) (namesDAB d a b) s

/-- VFNMA (R173, R174). -/
def execVfnma (la lb : Bool) (d a b : NameF) (s : State) : Host.Outcome State Fault Refusal :=
  laneOp (.vfnma la lb d a b) (namesDAB d a b) s

/-- VAND (R176). -/
def execVand (la lb : Bool) (d a b : NameF) (s : State) : Host.Outcome State Fault Refusal :=
  laneOp (.vand la lb d a b) (namesDAB d a b) s

/-- VOR (R176). -/
def execVor (la lb : Bool) (d a b : NameF) (s : State) : Host.Outcome State Fault Refusal :=
  laneOp (.vor la lb d a b) (namesDAB d a b) s

/-- VXOR (R176). -/
def execVxor (la lb : Bool) (d a b : NameF) (s : State) : Host.Outcome State Fault Refusal :=
  laneOp (.vxor la lb d a b) (namesDAB d a b) s

/-- VANDN (R176). -/
def execVandn (la lb : Bool) (d a b : NameF) (s : State) : Host.Outcome State Fault Refusal :=
  laneOp (.vandn la lb d a b) (namesDAB d a b) s

/-- VSHL (R177). -/
def execVshl (la lb : Bool) (d a b : NameF) (s : State) : Host.Outcome State Fault Refusal :=
  laneOp (.vshl la lb d a b) (namesDAB d a b) s

/-- VSHR (R177). -/
def execVshr (la lb : Bool) (d a b : NameF) (s : State) : Host.Outcome State Fault Refusal :=
  laneOp (.vshr la lb d a b) (namesDAB d a b) s

/-- VSAR (R177). -/
def execVsar (la lb : Bool) (d a b : NameF) (s : State) : Host.Outcome State Fault Refusal :=
  laneOp (.vsar la lb d a b) (namesDAB d a b) s

/-- VMIN (R178). -/
def execVmin (la lb : Bool) (d a b : NameF) (s : State) : Host.Outcome State Fault Refusal :=
  laneOp (.vmin la lb d a b) (namesDAB d a b) s

/-- VMIN.x (R178). -/
def execVminX (la lb : Bool) (d a b : NameF) (s : State) : Host.Outcome State Fault Refusal :=
  laneOp (.vminX la lb d a b) (namesDAB d a b) s

/-- VMIN.n (R178). -/
def execVminN (la lb : Bool) (d a b : NameF) (s : State) : Host.Outcome State Fault Refusal :=
  laneOp (.vminN la lb d a b) (namesDAB d a b) s

/-- VMAX (R178). -/
def execVmax (la lb : Bool) (d a b : NameF) (s : State) : Host.Outcome State Fault Refusal :=
  laneOp (.vmax la lb d a b) (namesDAB d a b) s

/-- VMAX.x (R178). -/
def execVmaxX (la lb : Bool) (d a b : NameF) (s : State) : Host.Outcome State Fault Refusal :=
  laneOp (.vmaxX la lb d a b) (namesDAB d a b) s

/-- VMAX.n (R178). -/
def execVmaxN (la lb : Bool) (d a b : NameF) (s : State) : Host.Outcome State Fault Refusal :=
  laneOp (.vmaxN la lb d a b) (namesDAB d a b) s

/-- VMULW (R178). -/
def execVmulw (la lb : Bool) (d a b : NameF) (s : State) : Host.Outcome State Fault Refusal :=
  laneOp (.vmulw la lb d a b) (namesDAB d a b) s

/-- VMULW.x (R178). -/
def execVmulwX (la lb : Bool) (d a b : NameF) (s : State) : Host.Outcome State Fault Refusal :=
  laneOp (.vmulwX la lb d a b) (namesDAB d a b) s

/-- VMULW.n (R178). -/
def execVmulwN (la lb : Bool) (d a b : NameF) (s : State) : Host.Outcome State Fault Refusal :=
  laneOp (.vmulwN la lb d a b) (namesDAB d a b) s

/-- VSEL (R176). -/
def execVsel (la lb : Bool) (d a b : NameF) (s : State) : Host.Outcome State Fault Refusal :=
  laneOp (.vsel la lb d a b) [(clsV, d), (clsVz, a), (clsVzs, b)] s

/-- VABS (R174, R175). -/
def execVabs (la : Bool) (d a : NameF) (s : State) : Host.Outcome State Fault Refusal :=
  laneOp (.vabs la d a) (namesDA d a) s

/-- VNEG (R174, R175). -/
def execVneg (la : Bool) (d a : NameF) (s : State) : Host.Outcome State Fault Refusal :=
  laneOp (.vneg la d a) (namesDA d a) s

/-- VRSQE (R184). -/
def execVrsqe (la : Bool) (d a : NameF) (s : State) : Host.Outcome State Fault Refusal :=
  laneOp (.vrsqe la d a) (namesDA d a) s

/-- VRCPE (R184). -/
def execVrcpe (la : Bool) (d a : NameF) (s : State) : Host.Outcome State Fault Refusal :=
  laneOp (.vrcpe la d a) (namesDA d a) s

/-- VEXP2E (R185). -/
def execVexp2e (la : Bool) (d a : NameF) (s : State) : Host.Outcome State Fault Refusal :=
  laneOp (.vexp2e la d a) (namesDA d a) s

/-- VCOPY (R187). -/
def execVcopy (la : Bool) (d a : NameF) (s : State) : Host.Outcome State Fault Refusal :=
  laneOp (.vcopy la d a) (namesDA d a) s

/-- VIOTA (R186). -/
def execViota (la : Bool) (d a : NameF) (s : State) : Host.Outcome State Fault Refusal :=
  laneOp (.viota la d a) [(clsV, d), (clsV, a)] s

/-- VCLR (R186). -/
def execVclr (la : Bool) (d a : NameF) (s : State) : Host.Outcome State Fault Refusal :=
  laneOp (.vclr la d a) [(clsV, d), (clsV, a)] s

/-- VBCAST (R186). -/
def execVbcast (la : Bool) (d a b : NameF) (s : State) : Host.Outcome State Fault Refusal :=
  laneOp (.vbcast la d a b) [(clsV, d), (clsV, a), (clsS, b)] s

/-- VSCL (R183). -/
def execVscl (la : Bool) (d a b : NameF) (s : State) : Host.Outcome State Fault Refusal :=
  laneOp (.vscl la d a b) [(clsVz, d), (clsVz, a), (clsS, b)] s

/-- A VCVT with a target or a rounding field that R77 does not list is illegal. -/
def cvtOp (i : Instr) (d a : NameF) (s : State) : Host.Outcome State Fault Refusal :=
  if i.wf then laneOp i [(clsVz, d), (clsV, a)] s else s.finish (trapS 0x01 (wordOf i))

/-- VCVT (R182). -/
def execVcvt (la : Bool) (d a : NameF) (r : BitVec 3) (t : BitVec 4) (s : State) : Host.Outcome State Fault Refusal :=
  cvtOp (.vcvt la d a r t) d a s

/-- VCVT.x (R182). -/
def execVcvtX (la : Bool) (d a : NameF) (r : BitVec 3) (t : BitVec 4) (s : State) : Host.Outcome State Fault Refusal :=
  cvtOp (.vcvtX la d a r t) d a s

/-- VCVT.n (R182). -/
def execVcvtN (la : Bool) (d a : NameF) (r : BitVec 3) (t : BitVec 4) (s : State) : Host.Outcome State Fault Refusal :=
  cvtOp (.vcvtN la d a r t) d a s

/-! Compares. -/

/-- VCMP (R179). -/
def cmpOp (i : Instr) (f : LaneForm) (d a b : NameF) (s : State) : Host.Outcome State Fault Refusal :=
  slotOp i [(clsP, d), (clsVz, a), (clsVzs, b)] [b] (fun s j => f.fails s.ctx s.now (s.ctx.bank j)) s

/-- VCMP.eq (R179). -/
def execVcmpEq (la lb : Bool) (d a b : NameF) (s : State) : Host.Outcome State Fault Refusal :=
  cmpOp (.vcmpEq la lb d a b) (cmpForm .eq .f la lb a b) d a b s

/-- VCMP.ne (R179). -/
def execVcmpNe (la lb : Bool) (d a b : NameF) (s : State) : Host.Outcome State Fault Refusal :=
  cmpOp (.vcmpNe la lb d a b) (cmpForm .ne .f la lb a b) d a b s

/-- VCMP.lt (R179). -/
def execVcmpLt (la lb : Bool) (d a b : NameF) (s : State) : Host.Outcome State Fault Refusal :=
  cmpOp (.vcmpLt la lb d a b) (cmpForm .lt .f la lb a b) d a b s

/-- VCMP.le (R179). -/
def execVcmpLe (la lb : Bool) (d a b : NameF) (s : State) : Host.Outcome State Fault Refusal :=
  cmpOp (.vcmpLe la lb d a b) (cmpForm .le .f la lb a b) d a b s

/-- VCMP.un (R179). -/
def execVcmpUn (la lb : Bool) (d a b : NameF) (s : State) : Host.Outcome State Fault Refusal :=
  cmpOp (.vcmpUn la lb d a b) (cmpForm .un .f la lb a b) d a b s

/-- VCMP.lt.x (R179). -/
def execVcmpLtX (la lb : Bool) (d a b : NameF) (s : State) : Host.Outcome State Fault Refusal :=
  cmpOp (.vcmpLtX la lb d a b) (cmpForm .lt .x la lb a b) d a b s

/-- VCMP.le.x (R179). -/
def execVcmpLeX (la lb : Bool) (d a b : NameF) (s : State) : Host.Outcome State Fault Refusal :=
  cmpOp (.vcmpLeX la lb d a b) (cmpForm .le .x la lb a b) d a b s

/-- VCMP.lt.n (R179). -/
def execVcmpLtN (la lb : Bool) (d a b : NameF) (s : State) : Host.Outcome State Fault Refusal :=
  cmpOp (.vcmpLtN la lb d a b) (cmpForm .lt .n la lb a b) d a b s

/-- VCMP.le.n (R179). -/
def execVcmpLeN (la lb : Bool) (d a b : NameF) (s : State) : Host.Outcome State Fault Refusal :=
  cmpOp (.vcmpLeN la lb d a b) (cmpForm .le .n la lb a b) d a b s

/-! Movement. -/

/-- The acceptance of a source's tags: of every name of a group, or of the tag a z has taken (R58, R160, R161). -/
def Context.acceptCheck (c : Context) (b : Bank) (now : Nat) (n : NameF) (t : TagBits) (count : Nat) (ok : TagBits → Bool) :
    List (Nat × Word) :=
  if isReg n then c.groupAccept b now n.toNat t count ok else failIf (!ok t) 0x03 (n.setWidth 64)

/-- A source group of count elements whose tags must be accepted and equal (R58, R160). -/
def Context.sourceCheck (c : Context) (b : Bank) (now : Nat) (n : NameF) (t : TagBits) (count : Nat) (ok : TagBits → Bool) :
    List (Nat × Word) :=
  (if isReg n then c.sourceFails b n.toNat t count else []) ++ c.acceptCheck b now n t count ok ++
    if isReg n then c.groupTags b now n.toNat t count else []

/-- A destination group (R20, R132, R160). -/
def Context.destCheck (c : Context) (b : Bank) (n : NameF) (t : TagBits) (count : Nat) (overlap : Bool := false) : List (Nat × Word) :=
  if isReg n then c.destFails b n.toNat t count overlap else []

/-- RAW, F or I (R172). -/
def tagRFI (t : TagBits) : Bool := tagRaw t || tagF t || tagI t

/-- The failures of VSLIDE in one bank (R172, R190). -/
def slideFails (d a : NameF) (s : State) (j : Nat) : List (Nat × Word) :=
  let c := s.ctx
  let k := c.bank j
  let t := k.tagOrDest s.now a d
  c.destCheck k d t c.vl ++ c.sourceCheck k s.now a t c.vl tagRFI

/-- VSLIDE (R190). -/
def slideOp (i : Instr) (d a b : NameF) (s : State) : Host.Outcome State Fault Refusal :=
  slotOp i [(clsVz, d), (clsVz, a), (clsS, b)] [b] (slideFails d a) s

/-- VSLIDE.up (R190). -/
def execVslideUp (la : Bool) (d a b : NameF) (s : State) : Host.Outcome State Fault Refusal :=
  slideOp (.vslideUp la d a b) d a b s
/-- VSLIDE.dn (R190). -/
def execVslideDn (la : Bool) (d a b : NameF) (s : State) : Host.Outcome State Fault Refusal :=
  slideOp (.vslideDn la d a b) d a b s

/-- The failures of VPERM in one bank (R172, R191): the indices are codes of 16 or 32 bits. A z in A takes the tag of the index vector
and fails no check (R161). Acceptance comes before equality (R58). -/
def permFails (d a b : NameF) (s : State) (j : Nat) : List (Nat × Word) :=
  let c := s.ctx
  let k := c.bank j
  let t := k.tagBeside s.now a b
  let tb := k.tagOf s.now b.toNat
  let inA := fun (fs : List (Nat × Word)) => if isReg a then fs else []
  c.destCheck k d t c.vl ++ inA (c.sourceFails k a.toNat t c.vl) ++ c.sourceFails k b.toNat tb c.vl ++
    inA (c.groupAccept k s.now a.toNat t c.vl tagRFI) ++
    c.groupAccept k s.now b.toNat tb c.vl (fun t => decide (t.toNat = 9 ∨ t.toNat = 10)) ++
    c.groupTags k s.now b.toNat tb c.vl ++ inA (c.groupTags k s.now a.toNat t c.vl)

/-- VPERM (R191). -/
def execVperm (la lb : Bool) (d a b : NameF) (s : State) : Host.Outcome State Fault Refusal :=
  slotOp (.vperm la lb d a b) [(clsVz, d), (clsVz, a), (clsV, b)] [] (permFails d a b) s

/-- The failures of VRED in one bank (R172, R192). -/
def redFails (r : RedOp) (d a : NameF) (s : State) (j : Nat) : List (Nat × Word) :=
  let c := s.ctx
  let k := c.bank j
  let t := k.tagOf s.now a.toNat
  c.destCheck k d (r.tagR t) c.nrow ++ c.sourceCheck k s.now a t c.vl r.accepts

/-- VRED (R192): a selector R77 does not list is illegal. -/
def execVred (la : Bool) (d a : NameF) (x : BitVec 7) (s : State) : Host.Outcome State Fault Refusal :=
  slotOp (.vred la d a x) [(clsVz, d), (clsV, a)] [] (redFails (RedOp.of x) d a) s

/-! VMERGE, VINS, VEXT. -/

/-- The tag of VMERGE's source in a bank: A's, or D's for a z. -/
def mergeTag (b : Bank) (now : Nat) (d a : NameF) : TagBits := b.tagOrDest now a d

/-- The first selected element whose lane word is marked (R181). -/
def mergeMark (v : Vec) (p vl : Nat) : Option (Nat × Nat) :=
  (List.range vl).findSome? fun e => if p.testBit e then (v.codeMark e).map fun m => (m, e) else none

/-- The failures of VMERGE in one bank (R172, R181). D is read: its tags are accepted before A's, and a z in A fails no check beside it
(R58, R161). A z has the tag of D's base name, and D's group is held to it. -/
def mergeFails (s : State) (d a b : NameF) (j : Nat) : List (Nat × Word) :=
  let c := s.ctx
  let k := c.bank j
  let t := mergeTag k s.now d a
  let v := c.operand k s.now a t c.vl 0 c.fz
  let dest := c.destCheck k d t c.vl (isReg a && c.badOverlap d.toNat t c.vl a.toNat t c.vl) ++
    if isReg a then c.keepReads k d.toNat t c.vl else []
  let srcA := if isReg a then c.sourceFails k a.toNat t c.vl else []
  let accept :=
    if isReg a then c.groupAccept k s.now d.toNat (k.tagOf s.now d.toNat) c.vl tagRFI ++ c.groupAccept k s.now a.toNat t c.vl tagRFI
    else (c.operandNames d t c.vl).flatMap fun n => failIf (!tagRFI (k.destTag s.now (BitVec.ofNat 7 n))) 0x03 (nameWord n)
  let equal :=
    if isReg a then c.groupTags k s.now d.toNat t c.vl ++ c.groupTags k s.now a.toNat t c.vl
    else (c.operandNames d t c.vl).flatMap fun n => failIf (decide (k.destTag s.now (BitVec.ofNat 7 n) ≠ t)) 0x03 (nameWord n)
  let soft := match c.predSound (b.toNat - 16) j ((c.vl + 63) / 64) with
    | some w => [(0x0D, w)]
    | none => []
  let marked := match mergeMark v (k.pred (b.toNat - 16)).toNat c.vl with
    | some (m, e) => [(m, BitVec.ofNat 64 (e + 2 ^ 32 * j))]
    | none => []
  dest ++ srcA ++ accept ++ equal ++ (if dest ++ srcA ++ accept ++ equal = [] then marked ++ soft else [])

/-- VMERGE (R181). -/
def execVmerge (la : Bool) (d a b : NameF) (s : State) : Host.Outcome State Fault Refusal :=
  slotOp (.vmerge la d a b) [(clsV, d), (clsVz, a), (clsP, b)] [] (fun s j => mergeFails s d a b j) s

/-- The element count a single element reaches: i + 1, or one element where it lies beyond VL (R159). -/
def reach (vl : Nat) (i : Word) : Nat := if i.toNat < vl then i.toNat + 1 else 1

/-- The failures of VINS in one bank (R172, R188). -/
def insFails (d b : NameF) (s : State) (j : Nat) : List (Nat × Word) :=
  let c := s.ctx
  let k := c.bank j
  let t := k.tagOf s.now d.toNat
  let n := reach c.vl (c.read b)
  c.destCheck k d t n ++ c.keepReads k d.toNat t n ++
    c.groupAccept k s.now d.toNat t n tagRFI ++ c.groupTags k s.now d.toNat t n

/-- VINS (R188). -/
def execVins (d a b : NameF) (s : State) : Host.Outcome State Fault Refusal :=
  slotOp (.vins d a b) [(clsV, d), (clsS, a), (clsS, b)] [a, b] (insFails d b) s

/-- The vector VEXT reads: the lowest bank's, up to the element B names (R189). -/
def extVec (a b : NameF) (s : State) : Vec :=
  let k := s.ctx.bank (lowBank s.ctx.gmBanks)
  s.ctx.operand k s.now a (k.tagOf s.now a.toNat) (reach s.ctx.vl (s.ctx.read b)) 0 s.ctx.fz

/-- The failures of VEXT in one bank (R172, R189): the other banks have their registers checked (R132). -/
def extFails (a b : NameF) (s : State) (j : Nat) : List (Nat × Word) :=
  let c := s.ctx
  let low := lowBank c.gmBanks
  let t := (c.bank low).tagOf s.now a.toNat
  let n := reach c.vl (c.read b)
  if j = low then
    let fails := c.sourceCheck (c.bank low) s.now a t n tagRFI
    if fails = [] then
      if (c.read b).toNat < c.vl then
        match (extVec a b s).codeMark (c.read b).toNat with
        | some m => [(m, c.read b)]
        | none => []
      else []
    else fails
  else if a.toNat < 8 then (c.groupNames a.toNat t n).flatMap (c.bank j).rowState
  else []

/-- VEXT (R189): the lowest bank is read. -/
def execVext (la : Bool) (d a b : NameF) (s0 : State) : Host.Outcome State Fault Refusal :=
  bankOp s0 [(clsS, d), (clsV, a), (clsS, b)] [b] (extFails a b)
    (fun s j => (s.ctx.operandNames a ((s.ctx.bank j).tagOf s.now a.toNat) (reach s.ctx.vl (s.ctx.read b)), lastName la a))
    (fun s =>
      let c := s.ctx
      let i := (c.read b).toNat
      let v : Word := if i < c.vl then BitVec.ofNat 64 ((extVec a b s).code i) else 0
      (c.overBanks (fun _ k => (k.lastUse la a, 0)) (bankList c.gmBanks)).write d v)

end Sys2Proof.Machine
end

