-- ==== Sys2Proof/Machine/Predicates.lean ====
section
/-! DEFINITION. The predicate codes and PMOVS (R194 to R196). -/

namespace Sys2Proof.Machine

/-- A predicate of a bank, by its name. -/
def Bank.predOf (b : Bank) (n : NameF) : Nat := (b.pred (n.toNat - 16)).toNat

/-- The soft errors of predicates an instruction reads in one bank, below VL (R369). -/
def predFails (s : State) (ps : List NameF) (words : Nat) (j : Nat) : List (Nat × Word) :=
  ps.flatMap fun p => match s.ctx.predSound (p.toNat - 16) j words with
    | some w => [(0x0D, w)]
    | none => []

/-- 64-bit words that hold elements below VL. -/
def Context.vlWords (c : Context) : Nat := (c.vl + 63) / 64

/-- A code that writes a predicate: bits 0 to VL - 1, and 0 above (R194). -/
def predOp (d : NameF) (names : List (List NameClass × NameF)) (ps reads : List NameF) (s0 : State)
    (f : Context → Bank → Nat) : Host.Outcome State Fault Refusal :=
  bankOp s0 ((clsP, d) :: names) reads (fun s j => predFails s ps s.ctx.vlWords j) (fun _ _ => ([], []))
    (fun s => (s.ctx.overBanks (fun _ k =>
      (k.setPred (d.toNat - 16) (BitVec.ofNat 16384 (f s.ctx k % 2 ^ s.ctx.vl)), 0)) (bankList s.ctx.gmBanks)).mendPred
        (d.toNat - 16) none)

/-- PAND (R194). -/
def execPand (d a b : NameF) (s : State) : Host.Outcome State Fault Refusal :=
  predOp d [(clsP, a), (clsP, b)] [a, b] [] s fun _ k => k.predOf a &&& k.predOf b
/-- POR (R194). -/
def execPor (d a b : NameF) (s : State) : Host.Outcome State Fault Refusal :=
  predOp d [(clsP, a), (clsP, b)] [a, b] [] s fun _ k => k.predOf a ||| k.predOf b
/-- PXOR (R194). -/
def execPxor (d a b : NameF) (s : State) : Host.Outcome State Fault Refusal :=
  predOp d [(clsP, a), (clsP, b)] [a, b] [] s fun _ k => k.predOf a ^^^ k.predOf b
/-- PANDN (R194). -/
def execPandn (d a b : NameF) (s : State) : Host.Outcome State Fault Refusal :=
  predOp d [(clsP, a), (clsP, b)] [a, b] [] s fun _ k => k.predOf a &&& ((2 ^ 16384 - 1) ^^^ k.predOf b)
/-- PNOT (R194). -/
def execPnot (d a : NameF) (s : State) : Host.Outcome State Fault Refusal :=
  predOp d [(clsP, a)] [a] [] s fun _ k => (2 ^ 16384 - 1) ^^^ k.predOf a
/-- PSET (R194). -/
def execPset (d a : NameF) (s : State) : Host.Outcome State Fault Refusal :=
  predOp d [(clsS, a)] [] [a] s fun c _ => 2 ^ min (c.read a).toNat c.vl - 1

/-- A code that writes a scalar from a predicate of every bank (R195). -/
def predCount (d a : NameF) (s0 : State) (f : Context → Word) : Host.Outcome State Fault Refusal :=
  bankOp s0 [(clsS, d), (clsP, a)] [] (fun s j => predFails s [a] s.ctx.vlWords j) (fun _ _ => ([], []))
    (fun s => s.ctx.write d (f s.ctx))

/-- PCNT (R195). -/
def execPcnt (d a : NameF) (s : State) : Host.Outcome State Fault Refusal :=
  predCount d a s fun c =>
    BitVec.ofNat 64 ((bankList c.gmBanks).foldl (fun n j => n + popCount c.vl ((c.bank j).predOf a)) 0)

/-- The lowest set bit below VL. -/
def lowBit (vl p : Nat) : Option Nat := (List.range vl).find? fun i => p.testBit i

/-- PFIRST (R195): the banks of a set rise with the position of an element. -/
def execPfirst (d a : NameF) (s : State) : Host.Outcome State Fault Refusal :=
  predCount d a s fun c =>
    match (bankList c.gmBanks).findSome? fun j =>
        (lowBit c.vl ((c.bank j).predOf a)).map fun i => (j - c.gmBase.toNat) * 16384 + i with
    | some n => BitVec.ofNat 64 n
    | none => 0xFFFFFFFFFFFFFFFF

/-- PMOVS to a scalar: the lowest bank (R196). -/
def pmovsRead (d a b : NameF) (s0 : State) : Host.Outcome State Fault Refusal :=
  bankOp s0 [(clsS, d), (clsP, a), (clsS, b)] [b]
    (fun s j =>
      let w := (s.ctx.read b).toNat % 256
      if j = lowBank s.ctx.gmBanks ∧ tabGet false s.ctx.bad (512 + 2048 * j + 256 * (a.toNat - 16) + w) then
        [(0x0D, 0x9000000000000000 + BitVec.ofNat 64 (256 * (a.toNat - 16) + w))]
      else [])
    (fun _ _ => ([], []))
    (fun s =>
      let c := s.ctx
      let w := (c.read b).toNat % 256
      c.write d (BitVec.ofNat 64 ((c.bank (lowBank c.gmBanks)).predOf a / 2 ^ (64 * w))))

/-- PMOVS to a predicate: that word in every bank (R196). -/
def pmovsWrite (d a b : NameF) (s0 : State) : Host.Outcome State Fault Refusal :=
  bankOp s0 [(clsS, a), (clsS, b)] [a, b] (fun _ _ => []) (fun _ _ => ([], []))
    (fun s =>
      let c := s.ctx
      let w := (c.read b).toNat % 256
      (c.overBanks (fun _ k =>
        (k.setPred (d.toNat - 16) (putBits (k.pred (d.toNat - 16)) (64 * w) 64 (c.read a).toNat), 0))
          (bankList c.gmBanks)).mendPred (d.toNat - 16) (some w))

/-- PMOVS (R171, R196): the class of D decides the class of A. -/
def execPmovs (d a b : NameF) (s : State) : Host.Outcome State Fault Refusal :=
  match nameClass d with
  | .p => pmovsWrite d a b s
  | .s => pmovsRead d a b s
  | .z => pmovsRead d a b s
  | _ => s.finish (trapS 0x02 (d.setWidth 64))

end Sys2Proof.Machine
end

