-- ==== Sys2Proof/Machine/Gang.lean ====
section
/-! DEFINITION. Cross-bank instructions (R197 to R206) and the sub-gangs of a split stream (R207 to R210). -/

namespace Sys2Proof.Machine

/-- The tag of A in the first member bank; in bank j, for a z, the destination's tag (R161, R200). -/
def gangTag (s : State) (d a : NameF) (j : Nat) : TagBits :=
  let c := s.ctx
  if isReg a then (c.bank (lowBank c.gmBanks)).tagOf s.now a.toNat else (c.bank j).destTag s.now d

/-- The failures of SHUF, SHUFX, GBCAST and GRED in one bank, D's before A's: A carries one tag in every member (R163, R200). -/
def gangFails (s : State) (d a : NameF) (tr : TagBits → TagBits) (ok : TagBits → Bool) (j : Nat) : List (Nat × Word) :=
  let c := s.ctx
  let k := c.bank j
  let t := gangTag s d a j
  let n := gangCount t c.vl
  let own := k.tagOf s.now a.toNat
  c.destCheck k d (tr t) n (isReg a && c.badOverlap d.toNat (tr t) n a.toNat t n) ++
    (if isReg a then c.sourceFails k a.toNat own n else []) ++ c.acceptCheck k s.now a (if isReg a then own else t) n ok ++
    if isReg a then failIf (decide (own ≠ t)) 0x03 (a.setWidth 64) ++ c.groupTags k s.now a.toNat own n else []

/-- SHUF, SHUFX and GBCAST (R201 to R203). -/
def gangMove (i : Instr) (d a b : NameF) (clsB : List NameClass) (s : State) : Host.Outcome State Fault Refusal :=
  slotOp i [(clsVz, d), (clsVz, a), (clsB, b)] [b] (fun s j => gangFails s d a id (fun _ => true) j) s

/-- SHUF (R201). -/
def execShuf (la : Bool) (d a b : NameF) (s : State) : Host.Outcome State Fault Refusal :=
  gangMove (.shuf la d a b) d a b clsS s
/-- SHUFX (R202). -/
def execShufx (la : Bool) (d a b : NameF) (s : State) : Host.Outcome State Fault Refusal :=
  gangMove (.shufx la d a b) d a b clsS1 s
/-- GBCAST (R203). -/
def execGbcast (la : Bool) (d a b : NameF) (s : State) : Host.Outcome State Fault Refusal :=
  gangMove (.gbcast la d a b) d a b clsS s

/-- GRED (R204): a selector R77 does not list is illegal. -/
def execGred (la : Bool) (d a : NameF) (x : BitVec 7) (s : State) : Host.Outcome State Fault Refusal :=
  let r := RedOp.of x
  slotOp (.gred la d a x) [(clsVz, d), (clsV, a)] [] (fun s j => gangFails s d a r.tagR r.accepts j) s

/-- Bank-class work of the running sub-gang is not complete: it holds what follows a GBAR (R205). -/
def Context.unfinished (c : Context) : Bool :=
  c.workingHere || (bankList c.gmBanks).any fun j => decide ((c.bank j).slots ≠ [])

/-- GBAR (R205): it waits in no bank, and holds the next bank-class instruction while earlier ones are not complete. -/
def execGbar (s0 : State) : Host.Outcome State Fault Refusal :=
  s0.finish do
    let s ← s0.issued
    s.ctx.sound [] [0x0E]
    return (s.withCtx { s.ctx with gbar := s.ctx.unfinished }).advance

/-- GSYNC (R206). -/
def execGsync (s0 : State) : Host.Outcome State Fault Refusal :=
  s0.finish do
    let s ← s0.ready
    s.ctx.sound [] [0x0E]
    waitUnless (!s.ctx.workingHere)
    waitUnless (!s.postedBy s.ctx.id)
    return (s.serveRefs s.ctx.core (bankList s.ctx.gmBanks)).advance

/-! Sub-gangs. -/

/-- Banks of a set whose debt has reached the threshold (R157). -/
def State.lateBanks (s : State) (c : Context) (g : BitVec 16) : List Nat :=
  (bankList g).filter fun j => decide (c.rfth.toNat ≤ tabGet 0 (s.core c.core).debt j)

/-- The banks of a set in which bit 0 of a predicate is set. -/
def Context.takenBanks (c : Context) (p : NameF) : BitVec 16 :=
  (bankList c.gmBanks).foldl (fun g j => if (c.bank j).predOf p % 2 = 1 then g ||| BitVec.ofNat 16 (2 ^ j) else g) 0

/-- GSPLIT (R207). The sub-gang that falls through goes on first. -/
def execGsplit (a b : NameF) (s0 : State) : Host.Outcome State Fault Refusal :=
  s0.finish do
    require (!s0.ctx.gmSub && !s0.ctx.counting && !s0.ctx.stripping) 0x01 (wordOf (.gsplit a b))
    s0.ctx.checkNames [(clsP, a), (clsS1, b)]
    let dest := s0.ctx.read b
    require (decide (dest.toNat % 4 = 0)) 0x0F dest
    let s ← s0.issued
    let s := s.predsReady [a]
    let c := s.ctx
    checkBanks (fun j => predFails s [a] 1 j ++ c.soundFails [b] [0x0E]) (bankList c.gmBanks)
    let t := c.takenBanks a
    let f := c.gmBanks ^^^ t
    if t = 0 then return s.advance
    else if f = 0 then return s.withCtx (c.goto dest)
    else
      let lateT := c.pend10 && s.lateBanks c t ≠ []
      let lateF := c.pend10 && (s.lateBanks c f ≠ [] || !lateT)
      return s.withCtx { c with
        bad := (c.mend [0x0E, 0x1F]).bad, gmBanks := f, gmSub := true, pc := c.pc + 4, stall := false, pend10 := lateF
        sib := some { Sibling.at_ t dest s.now with pend10 := lateT } }

/-- GJOIN (R210). While a handler runs in one sub-gang, the other does not (R212). -/
def execGjoin (s0 : State) : Host.Outcome State Fault Refusal :=
  s0.finish do
    let s ← s0.issued
    let c := s.ctx
    c.sound [] [0x0E, 0x1F]
    match c.sib with
    | none => return (s.withCtx { c with gmSub := false }).advance
    | some b =>
      if b.parked then
        require (decide (b.pc = c.pc)) 0x01 (wordOf .gjoin)
        return (s.withCtx { c.mend [0x0E, 0x1F] with
          gmBanks := c.gmBanks ||| b.banks, gmSub := false, sib := none, pend10 := c.pend10 || b.pend10 }).advance
      else
        waitUnless (!c.sibHeld)
        let x := c.swap
        return s.withCtx { x with sib := x.sib.map fun y => { y with parked := true } }

end Sys2Proof.Machine
end

