-- ==== Sys2Proof/Machine/Copy.lean ====
section
/-! DEFINITION. The copy codes (R230 to R252) and the steps of the copy units and detents (R239 to R251, R313 to R323). -/

namespace Sys2Proof.Machine

/-- The value is within the limits of the field (R232). -/
def stagedOk (sel : Nat) (v : Word) : Bool :=
  if sel = 2 then decide (1 ≤ v.toNat ∧ v.toNat ≤ 8192)
  else if 4 ≤ sel ∧ sel ≤ 9 then decide (1 ≤ v.toNat ∧ v.toNat ≤ 2 ^ 32)
  else true

/-- CSET (R232). -/
def execCset (a : NameF) (x : BitVec 7) (s0 : State) : Host.Outcome State Fault Refusal :=
  s0.finish do
    let i := x.toNat
    require (decide (i ≤ 21)) 0x01 (wordOf (.cset a x))
    s0.ctx.checkNames [(clsS, a)]
    let s ← s0.issued
    let v := s.ctx.read a
    require (stagedOk i v) 0x02 v
    s.ctx.sound [a] []
    let d : Word := if i = 2 ∨ (4 ≤ i ∧ i ≤ 9) then 1 else 0
    return (s.withCtx { s.ctx with staged := tabSet d s.ctx.staged i (stagedBits i v) }).advance

/-- The lowest level that breaks the monotone rule (R235). -/
def CopySlot.badLevel (c : CopySlot) : Option Nat :=
  let step := fun l => toSigned 64 (c.field (16 + l))
  (List.range 6).find? fun l =>
    if l = 0 then decide (step 0 < 0 ∧ c.count 0 ≠ 1)
    else decide (2 ≤ c.count l) &&
      decide (step l < (List.range l).foldl (fun (n : Int) m => n + ((c.count m : Int) - 1) * step m) 0)

/-- Every stride of a set is a multiple of n. -/
def CopySlot.stridesOf (c : CopySlot) (first n : Nat) : Bool :=
  (List.range 6).all fun l => decide (c.field (first + l) % n = 0)

/-- The destination pages that hold a byte of G at or above x (R237). -/
def State.destPages (s : State) (c : CopySlot) : Nat → Int → Except Stop (List DestPage)
  | 0, _ => .ok []
  | n + 1, x =>
    match c.nextGuarded x with
    | none => .ok []
    | some b => do
      let va := BitVec.ofInt 64 b
      require (decide (b < 2 ^ 56)) 0x0C va
      let (pa, e) ← s.locate c.token c.sup va .write 1
      require (decide (spaceOf pa ≠ .control)) 0x09 va
      require (s.backed false pa) 0x0C va
      require (decide (spaceOf pa = .device)) 0x09 va
      let base := va.toNat / e.size * e.size
      let rest ← s.destPages c n ((base + e.size : Nat) : Int)
      return { va := base, pa := e.frame, size := e.size, live := true } :: rest

/-- Pages a copy may have from x on. -/
def CopySlot.pageFuel (c : CopySlot) (x : Int) : Nat := ((c.dhi - x).toNat / 2 ^ 16) + 2

/-- The cores whose cells hold a byte of G at or above x (R237). -/
def State.coresOf (s : State) (c : CopySlot) : Nat → Int → List Nat
  | 0, _ => []
  | n + 1, x =>
    match c.nextGuarded x with
    | none => []
    | some b =>
      match c.paOf b with
      | none => s.coresOf c n (b / 2 ^ 16 * 2 ^ 16 + 2 ^ 16)
      | some pa =>
        let span : Nat := if pa / 2 ^ 39 % 2 = 0 then 2 ^ 16 else 512
        let rest := s.coresOf c n (b / span * span + span)
        let k := coreOfLoc (s.locOf pa)
        if rest.contains k then rest else k :: rest

def CopySlot.coreFuel (c : CopySlot) : Nat := ((c.dhi - c.dst 0).toNat / 512) + 2

/-- The waits for detents of all streams (R318). -/
def State.detentWaits (s : State) : List DetentWait :=
  s.allCtxs.flatMap fun c => c.detentWait.toList ++ (c.sib.bind Sibling.detentWait).toList

/-- Every core of these has a free detent for a copy, and no older copy waits for detents there (R237, R242, R318). -/
def State.detentsFree (s : State) (ticket : Nat) (ks : List Nat) : Bool :=
  ks.all fun k =>
    decide ((s.allSlots.filter fun q => q.2.2.installed && decide (q.2.2.ticket ≠ ticket) && q.2.2.cores.contains k).length
      < Config.nDetents) &&
    s.detentWaits.all fun w => !(decide (w.ticket < ticket) && w.cores.contains k)

/-- A CGO or CRESUME waits for detents with its place in ticket order (R237, R318). -/
def State.waitDetents (s : State) (ticket : Nat) (ks : List Nat) : State :=
  (s.withCtx { s.ctx with detentWait := some ⟨ticket, ks⟩ }).hold

/-- The slot a CGO takes: the one it names, or the lowest unowned one (R237). -/
def State.usableSlot (s : State) (req : Word) : Option Nat :=
  let c := s.ctx
  if req = 0xFFFFFFFFFFFFFFFF then
    (List.range Config.nSlots).find? fun n => decide ((s.slot c.core n).owner = none)
  else
    let q := s.slot c.core req.toNat
    if q.owner = none ∨ (q.owner = some c.id ∧ q.state = 0) then some req.toNat else none

/-- The snapshot a CGO would start (R237); one that waits for detents has its ticket. -/
def State.newCopy (s : State) : CopySlot :=
  let c := s.ctx
  let q : CopySlot := { CopySlot.reset with
    owner := some c.id, state := 1, staged := c.staged, ticket := (c.detentWait.map DetentWait.ticket).getD s.ticket, token := c.owner, sup := c.sup, born := s.now }
  { q with wm := (q.dst 0).toNat, wmFrom := (q.dst 0).toNat }

/-- CGO (R237, R238, R252). -/
def execCgo (d : NameF) (s0 : State) : Host.Outcome State Fault Refusal :=
  s0.finish do
    s0.ctx.checkNames [(clsS, d)]
    let s ← s0.issued
    let c := s.ctx
    let req := c.read d
    let all := decide (req = 0xFFFFFFFFFFFFFFFF)
    require (all || decide (req.toNat < 16)) 0x02 req
    let mine := !all && decide ((s.slot c.core req.toNat).owner = some c.id)
    require (mine || decide ((s.ownedSlots c.core c.id).length < c.nslots)) 0x02 (BitVec.ofNat 64 c.nslots)
    let q := s.newCopy
    require (decide (q.total ≤ 2 ^ 48)) 0x02 4
    require (decide (q.dc = 0) || decide (q.esize = 8192)) 0x02 2
    match q.badLevel with
    | some l => trapS 0x12 (BitVec.ofNat 64 l)
    | none =>
      require (decide (q.dc = 0) || (decide (q.field 1 % 8192 = 0) && q.stridesOf 16 8192)) 0x0F (BitVec.ofNat 64 (q.field 1))
      require (decide (q.dc = 0) || (decide (q.field 0 % 8 = 0) && q.stridesOf 10 8)) 0x0F (BitVec.ofNat 64 (q.field 0))
      let pages ← s.destPages q (q.pageFuel (q.dst 0)) (q.dst 0)
      require (all || mine || decide ((s.slot c.core req.toNat).owner = none)) 0x09 req
      c.sound [d] []
      waitUnless s.stripOpen
      match s.usableSlot req with
      | none => .error .wait
      | some n =>
        let q1 := { q with pages := pages }
        let ks := s.coresOf q1 q1.coreFuel (q1.dst 0)
        let s1 := { s with ticket := max s.ticket (q1.ticket + 1) }
        if s.detentsFree q1.ticket ks then
          let s2 := (s1.setSlot c.core n (q1.install s.regions ks)).admitReads c.core
          return (s2.withCtx (c.write d (BitVec.ofNat 64 n))).advance
        else return s1.waitDetents q1.ticket ks

/-- CSn as the running context reads it (R39). -/
def State.slotWord (s : State) (n : Nat) : Word :=
  let q := s.slot s.ctx.core n
  if q.owner = some s.ctx.id then BitVec.ofNat 64 q.csWord else 0

/-- A slot number of 16 or more (R231). -/
def slotArg (v : Word) : Except Stop Nat := do
  require (decide (v.toNat < 16)) 0x02 v
  return v.toNat

/-- The pending copy fault of a slot is withdrawn (R248). -/
def Context.withdraw (c : Context) (n : Nat) : Context := { c with pend11 := c.pend11 &&& ~~~(BitVec.ofNat 16 (2 ^ n)) }

/-- CWAIT (R245): with AD = 0 a pending copy fault of the slot strikes it. -/
def execCwait (d a : NameF) (s0 : State) : Host.Outcome State Fault Refusal :=
  s0.finish do
    s0.ctx.checkNames [(clsS, d), (clsS, a)]
    let s ← s0.issued
    let c := s.ctx
    let n ← slotArg (c.read a)
    c.sound [a] [] [d]
    let q := s.slot c.core n
    let mine := decide (q.owner = some c.id)
    waitUnless (!(mine && decide (q.state = 1)))
    waitUnless (!(mine && decide (q.state = 2) && !c.ad && c.pend11.getLsbD n))
    let s1 := if mine ∧ (q.state = 3 ∨ q.state = 4) then s.setSlot c.core n CopySlot.reset else s
    return (s1.withCtx (c.write d (s.slotWord n))).advance

/-- CSTAT (R245). -/
def execCstat (d a : NameF) (s0 : State) : Host.Outcome State Fault Refusal :=
  s0.finish do
    s0.ctx.checkNames [(clsS, d), (clsS, a)]
    let s ← s0.issued
    let n ← slotArg (s.ctx.read a)
    s.ctx.sound [a] [] [d]
    return (s.withCtx (s.ctx.write d (s.slotWord n))).advance

/-- CCANCEL (R250). Its marks are writes (R294), so it waits for the stores from before the strip start (R121), but for those that wait
behind a detent, which it may be the one to free (DEDUCED, LOG 53). -/
def execCcancel (a : NameF) (s0 : State) : Host.Outcome State Fault Refusal :=
  s0.finish do
    s0.ctx.checkNames [(clsS, a)]
    let s ← s0.issued
    let n ← slotArg (s.ctx.read a)
    s.ctx.sound [a] []
    let c := s.ctx
    if (s.slot c.core n).owner = some c.id then
      waitUnless (s.stripOpen || s.storeGuarded c.id)
      let s1 := s.cancelSlot c.core n
      return (s1.withCtx (s1.ctx.withdraw n)).advance
    else return s.advance

/-- CRESUME (R249): a detent is installed anew only in the cores to which pages have moved (R318). Whether the destination pages are translated in the mode of the stream that issues it or in that of the CGO, the spec
does not say: in the copy's, as its source pages are (DESIGN CHOICE, LOG 36). -/
def execCresume (a : NameF) (s0 : State) : Host.Outcome State Fault Refusal :=
  s0.finish do
    s0.ctx.checkNames [(clsS, a)]
    let s ← s0.issued
    let n ← slotArg (s.ctx.read a)
    let c := s.ctx
    let q := s.slot c.core n
    if q.owner = some c.id ∧ q.state = 2 then
      let pages ← s.destPages q (q.pageFuel q.wm) q.wm
      let old := q.pages.filter fun p => !(pages.any fun r => decide (r.va < p.va + p.size ∧ p.va < r.va + r.size))
      c.sound [a] []
      let q1 := { q with pages := old ++ pages, state := 1, cause := 0, next := q.start }
      let ks := s.coresOf q1 q1.coreFuel (q1.dst 0)
      let new := ks.filter fun k => !q.cores.contains k
      if s.detentsFree q.ticket new then
        return (((s.setSlot c.core n (q1.install s.regions ks)).admitReads c.core).withCtx (c.withdraw n)).advance
      else return s.waitDetents q.ticket new
    else
      c.sound [a] []
      return s.advance

/-- COPY_SOURCE_READ (R240). -/
def execCopySourceRead (core slot : Nat) (s : State) : Host.Outcome State Fault Refusal := .next (s.sourceRead core slot)
/-- RECORD_DECOMPRESS (R323). -/
def execRecordDecompress (core slot : Nat) (s : State) : Host.Outcome State Fault Refusal := .next (s.expand core slot)
/-- COPY_LANDING (R239). -/
def execCopyLanding (core slot : Nat) (s : State) : Host.Outcome State Fault Refusal := .next (s.land core slot)
/-- DETENT_WM_UPDATE (R317). -/
def execDetentWmUpdate (core : Nat) (detent : Detent) (s : State) : Host.Outcome State Fault Refusal :=
  .next (s.passWm core detent.slot detent.at_)
/-- DETENT_FREE (R318). -/
def execDetentFree (core slot : Nat) (s : State) : Host.Outcome State Fault Refusal := .next (s.freeDetents core slot)
/-- DETENT_INSTALL (R237): the waiting CGO or CRESUME of a context issues again, and installs if its detents are free. -/
def execDetentInstall (id : Nat) (s : State) : Host.Outcome State Fault Refusal :=
  .next (s.updCtx id fun c => c.restart s.now)

end Sys2Proof.Machine
end

