-- ==== Sys2Proof/Machine/Fold.lean ====
section
/-! DEFINITION. The folded matrix engine (R254 to R275): its instructions, and the steps of a crew. -/

namespace Sys2Proof.Machine

/-! Grants. -/

/-- The largest depth the block of a core supports (R256), from 2^d down. -/
def State.supports (s : State) (core d : Nat) : Bool :=
  let n := 2 ^ d
  let t0 := core / 8 / n * n
  (List.range n).all fun i =>
    let t := t0 + i
    let r := s.core (t * 8 + core % 8)
    (s.tier t).online && decide ((s.tier t).thermal ≠ 3) && r.mat && (r.hup || decide (i + 1 = n)) && (r.hdn || decide (i = 0))

def State.largestDepth (s : State) (core : Nat) : Nat → Nat
  | 0 => 0
  | d + 1 => if s.supports core (d + 1) then d + 1 else s.largestDepth core d

/-- The grant word of a request (R255, R256). -/
def State.grantWord (s : State) (core : Nat) (r : Word) : Word :=
  let v := r.toNat
  let m := if grantM r = 0 ∨ 64 < grantM r then 64 else grantM r
  let n := if grantN r = 0 ∨ 32 < grantN r then 32 else grantN r
  let k := if grantKC r = 0 then 1 else grantKC r
  let d := s.largestDepth core (min (v / 2 ^ 32 % 8) 4)
  BitVec.ofNat 64 (m + n * 2 ^ 8 + k * 2 ^ 16 + d * 2 ^ 32 + v / 2 ^ 35 % 2 * 2 ^ 35 + core / 8 % 2 ^ d * 2 ^ 36 + v / 2 ^ 40 * 2 ^ 40)

def State.setSlice (s : State) (core : Nat) (o : Option Nat) : State := s.setCore core { s.core core with slice := o }

/-- MSHAPE (R258). -/
def execMshape (d a : NameF) (s0 : State) : Host.Outcome State Fault Refusal :=
  s0.finish do
    s0.ctx.checkNames [(clsS, d), (clsS, a)]
    let s ← s0.ready
    let c := s.ctx
    let r := s.core c.core
    require r.mat 0x06 0
    c.sound [a] [] [d]
    waitUnless (!c.folding)
    let x := c.read a
    if x.getLsbD 7 then
      let s1 := if r.slice = some c.id then s.setSlice c.core none else s
      return (s1.withCtx ({ c with mg := 0, mseq := 0, doomQ := none }.write d 0)).advance
    else
      waitUnless (decide (r.slice = none ∨ r.slice = some c.id))
      let g := s.grantWord c.core x
      return ((s.setSlice c.core (some c.id)).withCtx ({ c with mg := g, mseq := 0, doomQ := none }.write d g)).advance

/-- MZERO (R268): the matrix bank alone. -/
def execMzero (d : NameF) (s0 : State) : Host.Outcome State Fault Refusal :=
  s0.finish do
    s0.ctx.checkNames [(clsK, d)]
    let s ← s0.ready
    let c := s.ctx
    let j := lowBank c.gmBanks
    let n := d.toNat
    checkBanks (fun j => c.keepWrite (c.bank j) n ++ c.soundFails [] [0x0E]) [j]
    waitUnless (c.unlocked [] [n])
    let b := (c.bank j).bind (n - 8) s.now
    let zero : KeepRow := { data := 0, tag := 1, fm := 0, fmc := 0 }
    return (s.withCtx (c.setBank j (b.setPool ((b.bound (n - 8)).getD 0) zero))).advance

/-! One chunk (R259, R263, R272). -/

/-- The class of an operand tag (R259); 0 for a tag no class has. -/
def foldClass (t : TagBits) : Nat := match t.toNat with
  | 2 => 1 | 3 => 1
  | 4 => 2 | 5 => 2 | 6 => 2 | 7 => 2 | 12 => 2 | 13 => 2
  | 8 => 3 | 14 => 3
  | 15 => 4
  | _ => 0

/-- The k-group of a class (R259). -/
def kGroup (t : TagBits) : Nat := match foldClass t with
  | 1 => 32 | 4 => 128 | _ => 64

/-- The exact sum of a group's products (R263). -/
def groupSum (ps : List (FVal × FpFlags)) : FVal × FpFlags :=
  let fl := ps.foldl (fun f p => f ||| p.2) 0
  let up := ps.any fun p => p.1.isInf && !p.1.isNeg
  let down := ps.any fun p => p.1.isInf && p.1.isNeg
  let both := flagIf (up && down) flagNV
  if ps.any (fun p => p.1.isNan) || (up && down) then (.nan false, fl ||| both)
  else if up then (.inf false, fl)
  else if down then (.inf true, fl)
  else match ps with
    | [] => (.zero false, fl)
    | p :: t => (t.foldl (fun v q => (addVal .rne v q.1).1) p.1, fl)

/-- rne32 (R59). -/
def rne32 (fz : Bool) (v : FVal) : FVal × FpFlags := roundFmt .f32 .rne fz v

/-- A + B of FP32 codes, rounded once: FZ acts through the rounding alone (R263). -/
def addCodes (fz : Bool) (x y : Nat) : Nat × FpFlags :=
  let (v, f1) := addVal .rne (Fmt.f32.value x) (Fmt.f32.value y)
  let (w, f2) := rne32 fz v
  (Fmt.f32.code w, f1 ||| f2)

/-- The tile rows [lo, hi). -/
def rowsOf (lo hi : Nat) : List Nat := (List.range (hi - lo)).map fun i => lo + i

/-- The words of the tile rows [lo, hi) of a function of m and n, as FP32 codes over the old tile, with the flags of all. -/
def tileRows (mg : Word) (lo hi : Nat) (old : BitVec 65536) (f : Nat → Nat → Nat × FpFlags) : BitVec 65536 × FpFlags :=
  let cells := (rowsOf lo hi).flatMap fun m => (List.range (grantN mg)).map fun n => (m, n, f m n)
  (cells.foldl (fun t c => putBits t (32 * (32 * c.1 + c.2.1)) 32 c.2.2.1) old,
    cells.foldl (fun fl c => fl ||| c.2.2.2) 0)

/-- The tile words of a function of m and n. -/
def tile (mg : Word) (old : BitVec 65536) (f : Nat → Nat → Nat × FpFlags) : BitVec 65536 × FpFlags :=
  tileRows mg 0 (grantM mg) old f

def tileWord (t : BitVec 65536) (m n : Nat) : Nat := bitsOf t (32 * (32 * m + n)) 32

/-- The operands of a chunk in the member's matrix bank. -/
def MmfFlight.vecs (q : MmfFlight) (c : Context) (now : Nat) (fz : Bool) : Vec × Vec :=
  let b := c.bank q.bank
  (c.operand b now q.a q.tagA (countA q.mg) 0 fz, c.operand b now q.b q.tagB (countB q.mg) 0 fz)

/-- grp(m, n) of steps k0 to k1 - 1 (R263). -/
def groupOf (mg : Word) (fz : Bool) (va vb : Vec) (k0 k1 m n : Nat) : FVal × FpFlags :=
  let (v, f1) := groupSum ((List.range (k1 - k0)).map fun i =>
    mulVal (va.valueAs .x fz (indexA mg m (k0 + i))) (vb.valueAs .x fz (indexB mg n (k0 + i))))
  let (w, f2) := rne32 fz v
  (w, f1 ||| f2)

/-- The first element of the marked lane word of element e: that of its code, else that of its scale byte. -/
def markedFirst (v : Vec) (e : Nat) : Nat :=
  let t := v.tag
  let s := e / tagPerSeg t * tagPerSeg t
  let per := if (v.codeMark e).isNone then 64 else if t.toNat = 7 then 5 else 32 / tagBits t
  s + (e - s) / per * per

/-- The first marked operand word of steps k0 to k1 - 1: its cause and TVAL (R272). -/
def groupMark (mg : Word) (bank : Nat) (va vb : Vec) (k0 k1 : Nat) : Option (BitVec 8 × Word) :=
  let hit := fun (v : Vec) (e side : Nat) => (v.mark e).map fun k =>
    (BitVec.ofNat 8 k, BitVec.ofNat 64 (markedFirst v e + bank * 2 ^ 32 + side * 2 ^ 36))
  (List.range (k1 - k0)).findSome? fun i =>
    ((List.range (grantM mg)).findSome? fun m => hit va (indexA mg m (k0 + i)) 0).or
      ((List.range (grantN mg)).findSome? fun n => hit vb (indexB mg n (k0 + i)) 1)

/-- A chunk from step k on, group by group, until it is done or a marked word stops it (R263, R272): the steps done, the partial
sums, the flags, the mark. -/
def chunkFrom (mg : Word) (bank g : Nat) (fz : Bool) (va vb : Vec) :
    Nat → Nat → BitVec 65536 → FpFlags → Nat × BitVec 65536 × FpFlags × Option (BitVec 8 × Word)
  | 0, k, p, fl => (k, p, fl, none)
  | n + 1, k, p, fl =>
    let k1 := min (k + g) (grantKC mg)
    if grantKC mg ≤ k then (k, p, fl, none)
    else match groupMark mg bank va vb k k1 with
      | some w => (k, p, fl, some w)
      | none =>
        let (p1, f1) := tile mg p fun m n =>
          let (v, f) := groupOf mg fz va vb k k1 m n
          if k = 0 then (Fmt.f32.code v, f)
          else
            let (c, f') := addCodes fz (tileWord p m n) (Fmt.f32.code v)
            (c, f ||| f')
        chunkFrom mg bank g fz va vb n k1 p1 (fl ||| f1)

/-- A member whose chunk another computes (R264). -/
def MmfFlight.skipped (q : MmfFlight) : Bool := q.skip && !q.strict && decide (grantPos q.mg ≠ 0)

/-- The member computes up to n groups of its own chunk, once its crew has formed and unless another computes it (R262, R264). A
member no tier can skip has read its operands when the chunk is done, and its locks end (R261). -/
def Context.ownChunk (c : Context) (now n : Nat) : Context :=
  match c.mmf with
  | none => c
  | some q =>
    if !q.formed || q.skipped || q.stopped || q.released || c.markTrap.isSome || decide (grantKC q.mg ≤ q.kdone) then c
    else
      let (va, vb) := q.vecs c now q.fz
      let (k, p, fl, w) := chunkFrom q.mg q.bank (kGroup q.tagA) q.fz va vb n q.kdone q.part 0
      let c1 := { c.orFlags fl with mmf := some { q with kdone := k, part := p }, markTrap := w }
      if grantKC q.mg ≤ k ∧ (q.strict ∨ grantPos q.mg = 0) then c1.endLocks q.q else c1

/-! Issue of MMF. -/

/-- The hinges the position of a grant needs (R271). -/
def CoreRec.hinged (r : CoreRec) (mg : Word) : Bool :=
  (r.hup || decide (grantPos mg + 1 = grantDepth mg) || decide (mg = 0)) && (r.hdn || decide (grantPos mg = 0))

/-- A strided element not at a whole byte (R260). -/
def stridedFails (mg : Word) (ta tb : TagBits) : Bool :=
  grantL mg && (decide (ta.toNat = 7 ∨ tb.toNat = 7) ||
    (decide (ta.toNat = 15) && decide (grantSA mg % 2 = 1)) || (decide (tb.toNat = 15) && decide (grantSB mg % 2 = 1)))

/-- The stream owns the slice of its core: a stream with a grant that another core gave lacks it (R275). -/
def State.ownsSlice (s : State) (c : Context) : Bool := decide (c.mg = 0) || decide ((s.core c.core).slice = some c.id)

/-- The names of an operand group that are no open row registers (R132). -/
def Context.groupStates (c : Context) (b : Bank) (n : Nat) (t : TagBits) (count : Nat) : List (Nat × Word) :=
  if n < 8 then (c.groupNames n t count).flatMap b.rowState else []

/-- A class of R259 has the tag. -/
def foldable (t : TagBits) : Bool := decide (foldClass t ≠ 0)

/-- The failures of an MMF in its matrix bank, 0x14 apart (R271). Every name of A's group, then of B's, must carry a tag that some class
has; a pair of base tags that is in no row of R259 names A; then the names of each group must carry the base's tag (R58; B's before A's:
DEDUCED, LOG 28). -/
def mmfFails (s : State) (d a b : NameF) (j : Nat) : List (Nat × Word) :=
  let c := s.ctx
  let k := c.bank j
  let mg := c.mg
  let bottom := decide (grantPos mg = 0)
  let ta := k.tagOf s.now a.toNat
  let tb := k.tagOf s.now b.toNat
  let inside := (c.groupNames a.toNat ta (countA mg) ++ c.groupNames b.toNat tb (countB mg)).contains d.toNat
  let accum :=
    if bottom then
      if isReg d then
        failIf inside 0x02 (d.setWidth 64) ++ c.keepWrite k d.toNat ++ k.keepRead c.lt d.toNat ++
          failIf (decide ((k.tagOf s.now d.toNat).toNat ≠ 1)) 0x03 (d.setWidth 64)
      else [(0x02, d.setWidth 64)]
    else []
  accum ++ c.sourceFails k a.toNat ta (countA mg) ++ c.sourceFails k b.toNat tb (countB mg) ++
    failIf (!(s.core c.core).mat || !(s.core c.core).hinged mg || !s.ownsSlice c) 0x06 0 ++
    c.groupAccept k s.now a.toNat ta (countA mg) foldable ++ failIf (!foldable tb) 0x03 (a.setWidth 64) ++
    c.groupAccept k s.now b.toNat tb (countB mg) foldable ++
    failIf (decide (foldClass ta ≠ foldClass tb)) 0x03 (a.setWidth 64) ++
    c.groupTags k s.now b.toNat tb (countB mg) ++ c.groupTags k s.now a.toNat ta (countA mg) ++
    failIf (stridedFails mg ta tb) 0x0F mg

/-- The failures of an MMF in a bank of the gang: outside the matrix bank j0 the states of the operands' registers alone (R132). -/
def mmfFailsIn (s : State) (d a b : NameF) (j0 j : Nat) : List (Nat × Word) :=
  if j = j0 then mmfFails s d a b j
  else
    let c := s.ctx
    let k := c.bank j0
    c.groupStates (c.bank j) a.toNat (k.tagOf s.now a.toNat) (countA c.mg) ++
      c.groupStates (c.bank j) b.toNat (k.tagOf s.now b.toNat) (countB c.mg)

/-- The stream takes a fold fault (R274): MG and MSEQ are cleared. The slice stays owned, as R274 step 4 says; R254 lets ownership end
at a fold fault (DEDUCED, LOG 83). -/
def State.takeFoldFault (s : State) (v : Word) : State :=
  (s.withCtx { s.ctx with mg := 0, mseq := 0, foldFault := none, doomQ := none }).takeTrap 0x14 v none

/-- Two streams' grants cover blocks of different depth of which one holds the other's core (R274). -/
def gangsClash (c x : Context) : Bool :=
  decide (x.id ≠ c.id) && decide (grantDepth x.mg ≠ grantDepth c.mg) && decide (x.mg ≠ 0) &&
    ((blockCores c.core c.mg).contains x.core || (blockCores x.core x.mg).contains c.core)

/-- A stream belongs to the block of a grant. -/
def Context.sharesBlock (y c : Context) : Bool :=
  decide (y.mg ≠ 0) && decide (blockCores y.core y.mg = blockCores c.core c.mg)

/-- Every member of two blocks fails its MMF number q, or will at its issue (R274). -/
def State.clash (s : State) (c x : Context) (q : Nat) : State :=
  let of_ := s.allCtxs.filter fun y => y.sharesBlock c || y.sharesBlock x
  of_.foldl (fun s y =>
    if (y.flight q).isSome then s.failFold y.id 0x10000
    else if y.mseq.toNat ≤ q then s.updCtx y.id fun z => { z with doomQ := some q } else s) s

/-- The accumulator as the bottom member issues its MMF: no other instruction writes it until the MMF has (R262, R267). -/
def Bank.oldTile (b : Bank) (now : Nat) (d : NameF) : BitVec 65536 := BitVec.ofNat 65536 (b.bitsOfName now d.toNat)

/-- MMF and MMF.o (R262). -/
def mmfOp (i : Instr) (strict la lb : Bool) (d a b : NameF) (s0 : State) : Host.Outcome State Fault Refusal :=
  let checks : Except Stop State := do
    require i.wf 0x01 (wordOf i)
    s0.ctx.checkNames [(clsKz, d), (clsV, a), (clsV, b)]
    let s ← s0.ready
    checkBanks (fun j => mmfFailsIn s d a b (lowBank s.ctx.gmBanks) j ++ s.ctx.soundFails [] [0x00, 0x03, 0x0E]) (bankList s.ctx.gmBanks)
    return s
  match checks with
  | .error e => s0.finish (.error e)
  | .ok s =>
    let c := s.ctx
    if c.mg = 0 then s0.finish (trapS 0x14 0)
    else match (if c.doomQ = some c.mseq.toNat then some 0x10000 else c.foldFault) with
      | some v => .next (s.takeFoldFault v)
      | none => s0.finish do
        waitUnless (c.mmf.all MmfFlight.released)
        let j := lowBank c.gmBanks
        let k := c.bank j
        let q : MmfFlight :=
          { strict := strict, d := d, a := a, b := b, lastA := la, lastB := lb, tagA := k.tagOf s.now a.toNat,
            tagB := k.tagOf s.now b.toNat, mg := c.mg, q := c.mseq.toNat, bank := j, fz := c.fz, kdone := 0, part := 0, acc := if grantPos c.mg = 0 then k.oldTile s.now d else 0, rows := 0,
            formed := false, skip := false, exempt := false, freed := false, released := false, stopped := false, byTrap := false,
            spoiled := false, got := [], relay := none }
        let s1 := s.withCtx { c with mseq := c.mseq + 1, mmf := some q, past := c.mmf.or c.past }
        let s2 := match s.allCtxs.find? fun x => gangsClash c x && (x.flight q.q).isSome with
          | some x => s1.clash c x q.q
          | none => s1
        return s2.advance

/-- MMF (R262). -/
def execMmf (la lb : Bool) (d a b : NameF) (s : State) : Host.Outcome State Fault Refusal :=
  mmfOp (.mmf la lb d a b) false la lb d a b s
/-- MMF.o (R262, R264). -/
def execMmfO (la lb : Bool) (d a b : NameF) (s : State) : Host.Outcome State Fault Refusal :=
  mmfOp (.mmfO la lb d a b) true la lb d a b s

/-- MWAIT (R269). -/
def execMwait (s0 : State) : Host.Outcome State Fault Refusal :=
  match s0.ready with
  | .error e => s0.finish (.error e)
  | .ok s =>
    match s.ctx.foldFault with
    | some v => .next (s.takeFoldFault v)
    | none => s0.finish do
      waitUnless (!s.ctx.folding)
      return s.advance

/-- MSTAT (R270). -/
def execMstat (d a : NameF) (s0 : State) : Host.Outcome State Fault Refusal :=
  let n := s0.ctx.read a
  let checks : Except Stop State := do
    s0.ctx.checkNames [(clsS, d), (clsS, a)]
    require (decide (n.toNat ≤ 2)) 0x02 n
    s0.ctx.sound [a] (if n = 0 then [0x12] else []) [d]
    if n = 0 then s0.ready else s0.issued
  match checks with
  | .error e => s0.finish (.error e)
  | .ok s =>
    match (if n = 0 then s.ctx.foldFault else none) with
    | some v => .next (s.takeFoldFault v)
    | none => s0.finish do
      waitUnless (decide (n ≠ 0) || !s.ctx.folding)
      let v := if n = 0 then s.ctx.mrep else if n = 1 then s.ctx.mg else s.ctx.mseq
      return (s.withCtx (s.ctx.write d v)).advance

/-! The crew (R262 to R267). -/

/-- The slice owner of a core. -/
def State.sliceOwner (s : State) (core : Nat) : Option Context :=
  match (s.core core).slice with
  | none => none
  | some id => s.findCtx id

/-- The members of a block, bottom first; none while a core has no owner. -/
def State.crewOf (s : State) : List Nat → Option (List Context)
  | [] => some []
  | k :: ks => match s.sliceOwner k, s.crewOf ks with
    | some c, some cs => some (c :: cs)
    | _, _ => none

/-- The tier of a member is in T1 or T2. -/
def State.throttled (s : State) (c : Context) : Bool :=
  decide (s.clock (tierOf c.core) = 1 ∨ s.clock (tierOf c.core) = 2)

/-- The members' MMFs agree (R262). -/
def agrees (x y : MmfFlight) : Bool :=
  decide (x.mg.toNat % 2 ^ 32 = y.mg.toNat % 2 ^ 32) && decide (x.mg.toNat / 2 ^ 40 = y.mg.toNat / 2 ^ 40) &&
    decide (grantL x.mg = grantL y.mg) && decide (x.strict = y.strict)

/-- CREW_FORM at a core (R262, R264). -/
def State.formCrew (s : State) (core : Nat) : State :=
  match s.sliceOwner core with
  | none => s
  | some c =>
    match c.mmf with
    | none => s
    | some q =>
      if q.formed then s
      else match s.crewOf (blockCores core q.mg) with
        | none => s
        | some cs =>
          if cs.all fun x => x.mmf.any fun m => decide (m.q = q.q ∧ grantDepth m.mg = grantDepth q.mg) && !m.formed then
            if cs.all fun x => x.mmf.any fun m => agrees m q then
              cs.foldl (fun s x => s.updCtx x.id fun y => { y with
                mmf := y.mmf.map fun m => { m with formed := true, skip := s.throttled y } }) s
            else cs.foldl (fun s x => s.failFold x.id 0x40000) s
          else s

/-- A property of a member's MMF number n. -/
def Context.inFlight (c : Context) (n : Nat) (f : MmfFlight → Bool) : Bool := (c.flight n).any f

/-- The skipped members directly above position p of a crew, nearest first. -/
def relayed (cs : List Context) (n p : Nat) : List Context :=
  (cs.drop (p + 1)).takeWhile fun x => x.inFlight n MmfFlight.skipped

/-- A member can work: it is resident and no stop has interrupted its MMF. -/
def Context.folds (c : Context) (n : Nat) : Bool := c.resident && c.inFlight n fun m => !m.stopped

/-- The members above position p that enter the chain themselves. -/
def enterAbove (cs : List Context) (n p : Nat) : List MmfFlight :=
  (cs.drop (p + 1)).filterMap fun x => (x.flight n).filter fun m => !m.skipped

/-- The tile rows of S that have reached position p: every row at the one the chain starts with, as C_old. -/
def rowsAbove (cs : List Context) (n p : Nat) : Nat :=
  (enterAbove cs n p).foldl (fun k m => if m.released then k else min k m.rows) 64

/-- The hinge links that position p needs carry traffic (R325): the one below it, for S; all of them while the chain starts with it,
for C_old; those of the members relayed to it. A link to a tier in T3 carries nothing. -/
def State.linked (s : State) (cs : List Context) (n p : Nat) : Bool :=
  let lo := if enterAbove cs n p = [] then 0 else p - 1
  ((cs.take (p + 1)).drop lo ++ relayed cs n p).all fun x => decide (s.clock (tierOf x.core) ≠ 3)

/-- Add the tile rows [lo, hi) of a chunk to the sum on the chain. -/
def chainAdd (mg : Word) (fz : Bool) (lo hi : Nat) (acc part : BitVec 65536) : BitVec 65536 × FpFlags :=
  tileRows mg lo hi acc fun m n => addCodes fz (tileWord acc m n) (tileWord part m n)

/-- The locks of a member's MMF number n end as its operands have been read, and it has sent or written its tile rows up to hi
(R261, R267, R273). -/
def Context.sentRows (c : Context) (n hi : Nat) : Context :=
  (c.endLocks n).onFlight n fun m => { m with rows := hi, released := decide (grantM m.mg ≤ hi) }

/-- The chunks a member has received are all computed. -/
def MmfFlight.gotAll (q : MmfFlight) (cs : List Context) (n p : Nat) : Bool :=
  (relayed cs n p).all fun x => q.got.any fun g => (x.flight n).any fun m => decide (grantPos m.mg = g.1)

/-- A relayed chunk with a marked word goes back to its owner, who counts as not skipped (R264). -/
def Context.takesBack (c : Context) (n : Nat) : Context :=
  c.onFlight n fun m => { m with skip := false, exempt := true }

/-- The member whose chunk position p of a crew goes on with: the one it has begun, else the highest that it has received and not
computed yet (R264). -/
def MmfFlight.nextRelay (q : MmfFlight) (cs : List Context) (n p : Nat) : Option Context :=
  let xs := (relayed cs n p).reverse
  let at_ := fun (x : Context) (o : Nat) => (x.flight n).any fun m => decide (grantPos m.mg = o)
  match xs.find? fun x => q.relay.any fun r => at_ x r.1 with
  | some x => some x
  | none => xs.find? fun x => !q.got.any fun g => at_ x g.1

/-- Position p may go on with a chunk it has received: its own is done, and the owner and the links to it are there (R264, R325). -/
def State.relayReady (s : State) (cs : List Context) (n p : Nat) (c x : Context) : Bool :=
  c.folds n && x.folds n && c.markTrap.isNone &&
    (c.inFlight n fun m => m.formed && !m.released && !m.skipped && decide (grantKC m.mg ≤ m.kdone)) &&
    ((cs.drop p).take (tierInStack x.core - tierInStack c.core + 1)).all fun y => decide (s.clock (tierOf y.core) ≠ 3)

/-- What a receiver keeps of a chunk of a member in position o after a step of it: done, under way, or given back. -/
def MmfFlight.relays (q : MmfFlight) (o k : Nat) (part : BitVec 65536) (marked : Bool) : MmfFlight :=
  if marked then { q with relay := none, got := q.got.filter fun g => decide (g.1 < o) }
  else if grantKC q.mg ≤ k then { q with relay := none, got := q.got ++ [(o, part)] }
  else { q with relay := some (o, k, part) }

/-- Position p of a crew computes up to k groups of a chunk it has received, from the owner's operands (R264). A marked word sends the
chunk back; the flags of what was rounded stay with the receiver (R263). -/
def State.relayStep (s : State) (cs : List Context) (n p k : Nat) : State :=
  match cs[p]? with
  | none => s
  | some c => match c.flight n with
    | none => s
    | some q => match q.nextRelay cs n p with
      | none => s
      | some x => match x.flight n with
        | none => s
        | some m =>
          if s.relayReady cs n p c x then
            let o := grantPos m.mg
            let (k0, p0) := match q.relay with
              | some (o', k', p') => if o' = o then (k', p') else (0, 0)
              | none => (0, 0)
            let (va, vb) := m.vecs x s.now q.fz
            let (k1, part, fl, w) := chunkFrom m.mg m.bank (kGroup m.tagA) q.fz va vb k k0 p0 0
            let s1 := s.updCtx c.id fun y => (y.orFlags fl).onFlight n fun z => z.relays o k1 part w.isSome
            if w.isSome then s1.updCtx x.id fun y => y.takesBack n else s1
          else s

/-- Position p passes up to k more tile rows down the chain, with its own chunk and then those it has received, in decreasing
position, added (R263, R264): the rows' bounds and the sum. From its first row on no chunk leaves it again, and the operands of all of
them have been read. -/
def State.chainStep (s : State) (cs : List Context) (n p k : Nat) (acc : BitVec 65536) :
    Option (Nat × Nat × BitVec 65536) × State :=
  match cs[p]? with
  | none => (none, s)
  | some c =>
    match c.flight n with
    | none => (none, s)
    | some q =>
      let above := (relayed cs n p).reverse
      let parts := above.filterMap fun x => (x.flight n).bind fun m => (q.got.find? fun g => decide (g.1 = grantPos m.mg)).map Prod.snd
      let hi := min (q.rows + k) (min (grantM q.mg) (rowsAbove cs n p))
      let all := (q.part :: parts).foldl (fun (t : BitVec 65536 × FpFlags) part =>
        let x := chainAdd q.mg q.fz q.rows hi t.1 part
        (x.1, t.2 ||| x.2)) (acc, 0)
      let s1 := s.updCtx c.id fun y => (y.orFlags all.2).sentRows n hi
      (some (q.rows, hi, all.1), above.foldl (fun s x => s.updCtx x.id fun y => y.sentRows n hi) s1)

/-- Position p may pass rows down the chain now: every chunk it adds is computed. -/
def State.chainReady (s : State) (cs : List Context) (n p : Nat) : Bool :=
  match cs[p]? with
  | none => false
  | some c => c.folds n && c.markTrap.isNone && s.linked cs n p &&
      (c.inFlight n fun m => m.formed && !m.released && !m.skipped && decide (grantKC m.mg ≤ m.kdone) && m.gotAll cs n p &&
        decide (m.rows < rowsAbove cs n p))

/-- The member of a core goes on with the chunks it has received: up to k groups. -/
def State.relayRows (s : State) (core k : Nat) : State :=
  match s.sliceOwner core with
  | none => s
  | some c => match c.mmf with
    | none => s
    | some q => match s.crewOf (blockCores core q.mg) with
      | none => s
      | some cs => s.relayStep cs q.q (grantPos q.mg) k

/-- All of them, one after the other (R267). -/
def State.finishRelay (s : State) (core : Nat) : Nat → State
  | 0 => s
  | n + 1 => (s.relayRows core (2 ^ 16)).finishRelay core n

/-- A receiver gives up the chunk of a member that is pre-empted while it may still be sent elsewhere: it computes it again from its
first step (R264). -/
def MmfFlight.dropRelay (m : MmfFlight) (o : Nat) : MmfFlight :=
  if m.rows = 0 then { m with got := m.got.filter fun g => decide (g.1 ≠ o), relay := m.relay.filter fun r => decide (r.1 ≠ o) } else m

/-- The relay of a skipped member stops as it is pre-empted (R264). -/
def State.stopRelay (s : State) (c : Context) : State :=
  match c.mmf with
  | none => s
  | some q =>
    if q.skipped then s.mapCtxs fun y => if y.sharesBlock c then y.onFlight q.q fun m => m.dropRelay (grantPos q.mg) else y
    else s

/-- The member of a core goes on with its own chunk, whole (R262). -/
def State.finishChunk (s : State) (core : Nat) : State :=
  match s.sliceOwner core with
  | none => s
  | some c => if c.resident then s.updCtx c.id fun y => y.ownChunk s.now (2 ^ 16) else s

/-- The member of a core computes all that it has to. -/
def State.finishMember (s : State) (core : Nat) : State := (s.finishChunk core).finishRelay core 16

/-- The member of a core has computed its own chunk. -/
def State.chunkDone (s : State) (core : Nat) : Bool :=
  (s.sliceOwner core).any fun c => c.mmf.any fun m => decide (grantKC m.mg ≤ m.kdone)

/-- A member above the bottom passes up to k tile rows of S down; after the last one it is released (R267). -/
def State.releaseRows (s : State) (core k : Nat) : State :=
  match s.sliceOwner core with
  | none => s
  | some c =>
    match c.mmf with
    | none => s
    | some q =>
      let p := grantPos q.mg
      match s.crewOf (blockCores core q.mg) with
      | some (b :: cs) =>
        if p ≠ 0 ∧ s.chainReady (b :: cs) q.q p then
          match s.chainStep (b :: cs) q.q p k (((b.flight q.q).map MmfFlight.acc).getD 0) with
          | (some t, s1) => s1.updCtx b.id fun y => y.onFlight q.q fun m => { m with acc := t.2.2 }
          | (none, s1) => s1
        else s
      | _ => s

/-- MMF_RELEASE at a core above the bottom (R267). -/
def State.releaseMmf (s : State) (core : Nat) : State := (s.finishMember core).releaseRows core 64

/-- The report of an MMF (R265). -/
def mrepWord (cs : List Context) (q : MmfFlight) : Word :=
  let tiers := cs.foldl (fun m x => if x.inFlight q.q MmfFlight.skipped then m else m + 2 ^ tierInStack x.core) 0
  let slow := cs.any fun x => x.inFlight q.q MmfFlight.skip
  let chain : Nat := if cs.length = 1 then 0
    else if q.strict then (if slow then 3 else 1)
    else if cs.any fun x => x.inFlight q.q MmfFlight.skipped then 2 else 1
  BitVec.ofNat 64 (tiers + cs.length * 2 ^ 16 + chain * 2 ^ 21 + boolNat (decide (chain = 2)) * 2 ^ 24 + boolNat q.strict * 2 ^ 25 + 2 ^ 26)

/-- The bottom member writes the tile rows [lo, hi) of C (R262): marked words stay marked. -/
def Context.writeTile (c : Context) (now : Nat) (q : MmfFlight) (lo hi : Nat) (t : BitVec 65536) : Context :=
  let b := (c.bank q.bank).bind (q.d.toNat - 8) now
  let fm := b.fmOf q.d.toNat
  let fmc := b.fmcOf q.d.toNat
  let cells := (rowsOf lo hi).flatMap fun m => (List.range (grantN q.mg)).map fun n =>
    let w := 32 * m + n
    (⟨32 * w, 32, tileWord t m n, if fm.testBit w then some fmc else none⟩ : Cell)
  c.setBank q.bank ((b.write q.d.toNat (fun _ => false) cells).setTag q.d.toNat 1)

/-- C of an MMF whose MPROG a handler has changed is free (R273, LOG 1). -/
def spoilTile (now : Nat) (mg : Word) (t : BitVec 65536) : BitVec 65536 :=
  (tile mg t fun m n => ((Config.freeWord now 13 (32 * m + n)).toNat % 2 ^ 32, 0)).1

/-- The MMF number n is complete in a member: MREP is written whole (R265, R267). -/
def Context.completes (c : Context) (n : Nat) (w : Word) : Context :=
  { c.mend [0x12] with
    mmf := c.mmf.filter fun m => decide (m.q ≠ n)
    past := c.past.filter fun m => decide (m.q ≠ n)
    mrep := w }

/-- The bottom member writes up to k more tile rows of C; after the last one the MMF is complete in every
member (R262, R265, R267). -/
def State.completeRows (s : State) (core k : Nat) : State :=
  match s.sliceOwner core with
  | none => s
  | some c =>
    match c.mmf with
    | none => s
    | some q =>
      match s.crewOf (blockCores core q.mg) with
      | some cs =>
        if grantPos q.mg = 0 ∧ s.chainReady cs q.q 0 then
          match s.chainStep cs q.q 0 k q.acc with
          | (some (lo, hi, t), s1) =>
            let s2 := (s1.updCtx c.id fun y => y.writeTile s.now q lo hi t).updCtx c.id fun y =>
              y.onFlight q.q fun m => { m with acc := t }
            if hi < grantM q.mg then s2
            else
              let s3 := if cs.any fun x => x.inFlight q.q MmfFlight.spoiled then
                  s2.updCtx c.id fun y => y.writeTile s.now q 0 hi (spoilTile s.now q.mg t)
                else s2
              let w := mrepWord cs q
              cs.foldl (fun s x =>
                (s.updCtx x.id fun y => y.completes q.q w).pokeBlock x (64 + 8 * 0x12) 0 w.toNat) s3
          | (none, s1) => s1
        else s
      | none => s

/-- MMF_COMPLETE at a bottom core (R267). -/
def State.completeMmf (s : State) (core : Nat) : State := (s.finishMember core).completeRows core 64

/-- A tier enters T1 or T2 while MMFs of its members are under way (R264, R265): a member that has sent no row yet is skipped, unless
a marked word gave its chunk back to it. What it has computed, of its own chunk and of those it has received, is discarded. A throttle
before the crew has formed counts for no CHAIN 3 either: 'during the MMF' is read from the formation on (DEDUCED, LOG 89). -/
def MmfFlight.throttle (m : MmfFlight) : MmfFlight :=
  if !m.formed then m
  else if m.strict then { m with skip := true }
  else if grantPos m.mg = 0 ∨ m.rows ≠ 0 ∨ m.released ∨ m.exempt then m
  else { m with skip := true, kdone := 0, part := 0, got := [], relay := none }

/-- A tier enters T1 or T2 (R264). -/
def State.skipTier (s : State) (t : Nat) : State :=
  if s.clock t = 1 ∨ s.clock t = 2 then
    s.mapCtxs fun c =>
      if tierOf c.core = t then { c with mmf := c.mmf.map MmfFlight.throttle, past := c.past.map MmfFlight.throttle } else c
  else s

/-- CREW_FORM (R262). -/
def execCrewForm (core : Nat) (s : State) : Host.Outcome State Fault Refusal := .next (s.formCrew core)
/-- MMF_RELEASE (R267). -/
def execMmfRelease (core : Nat) (s : State) : Host.Outcome State Fault Refusal := .next (s.releaseMmf core)
/-- MMF_COMPLETE (R267). -/
def execMmfComplete (core : Nat) (s : State) : Host.Outcome State Fault Refusal := .next (s.completeMmf core)

end Sys2Proof.Machine
end

