-- ==== Sys2Proof/Machine/Digest.lean ====
section
/-! DEFINITION. SHA-512, MGF1 and RSASSA-PSS, as the keyholder uses them (R403, R404). The spec names the algorithms; their steps and
constants are those of FIPS 180-4 and RFC 8017 (PRESUMED, LOG 10). -/

namespace Sys2Proof.Machine

/-! Bytes. -/

/-- The little-endian bytes of a number. -/
def bytesOf (n v : Nat) : List Byte := (List.range n).map fun i => BitVec.ofNat 8 (v / 2 ^ (8 * i))
/-- The big-endian bytes of a number. -/
def bytesBig (n v : Nat) : List Byte := (bytesOf n v).reverse
/-- The number that big-endian bytes stand for. -/
def bigOf (bs : List Byte) : Nat := bs.foldl (fun n b => n * 256 + b.toNat) 0
/-- Pieces of k elements, n of them. -/
def chunks {α : Type} (k : Nat) : Nat → List α → List (List α)
  | 0, _ => []
  | n + 1, l => l.take k :: chunks k n (l.drop k)
def xorBytes (a b : List Byte) : List Byte := a.zipWith (· ^^^ ·) b

/-! SHA-512. -/

/-- The working variables. -/
structure Hash where
  a : Word
  b : Word
  c : Word
  d : Word
  e : Word
  f : Word
  g : Word
  h : Word
  deriving DecidableEq, Repr

/-- The initial hash value. -/
def Hash.start : Hash :=
  ⟨0x6a09e667f3bcc908, 0xbb67ae8584caa73b, 0x3c6ef372fe94f82b, 0xa54ff53a5f1d36f1,
   0x510e527fade682d1, 0x9b05688c2b3e6c1f, 0x1f83d9abfb41bd6b, 0x5be0cd19137e2179⟩

/-- The constants of the 80 rounds. -/
def hashKeys : List Word :=
  [0x428a2f98d728ae22, 0x7137449123ef65cd, 0xb5c0fbcfec4d3b2f, 0xe9b5dba58189dbbc,
   0x3956c25bf348b538, 0x59f111f1b605d019, 0x923f82a4af194f9b, 0xab1c5ed5da6d8118] ++
  [0xd807aa98a3030242, 0x12835b0145706fbe, 0x243185be4ee4b28c, 0x550c7dc3d5ffb4e2,
   0x72be5d74f27b896f, 0x80deb1fe3b1696b1, 0x9bdc06a725c71235, 0xc19bf174cf692694] ++
  [0xe49b69c19ef14ad2, 0xefbe4786384f25e3, 0x0fc19dc68b8cd5b5, 0x240ca1cc77ac9c65,
   0x2de92c6f592b0275, 0x4a7484aa6ea6e483, 0x5cb0a9dcbd41fbd4, 0x76f988da831153b5] ++
  [0x983e5152ee66dfab, 0xa831c66d2db43210, 0xb00327c898fb213f, 0xbf597fc7beef0ee4,
   0xc6e00bf33da88fc2, 0xd5a79147930aa725, 0x06ca6351e003826f, 0x142929670a0e6e70] ++
  [0x27b70a8546d22ffc, 0x2e1b21385c26c926, 0x4d2c6dfc5ac42aed, 0x53380d139d95b3df,
   0x650a73548baf63de, 0x766a0abb3c77b2a8, 0x81c2c92e47edaee6, 0x92722c851482353b] ++
  [0xa2bfe8a14cf10364, 0xa81a664bbc423001, 0xc24b8b70d0f89791, 0xc76c51a30654be30,
   0xd192e819d6ef5218, 0xd69906245565a910, 0xf40e35855771202a, 0x106aa07032bbd1b8] ++
  [0x19a4c116b8d2d0c8, 0x1e376c085141ab53, 0x2748774cdf8eeb99, 0x34b0bcb5e19b48a8,
   0x391c0cb3c5c95a63, 0x4ed8aa4ae3418acb, 0x5b9cca4f7763e373, 0x682e6ff3d6b2b8a3] ++
  [0x748f82ee5defb2fc, 0x78a5636f43172f60, 0x84c87814a1f0ab72, 0x8cc702081a6439ec,
   0x90befffa23631e28, 0xa4506cebde82bde9, 0xbef9a3f7b2c67915, 0xc67178f2e372532b] ++
  [0xca273eceea26619c, 0xd186b8c721c0c207, 0xeada7dd6cde0eb1e, 0xf57d4f7fee6ed178,
   0x06f067aa72176fba, 0x0a637dc5a2c898a6, 0x113f9804bef90dae, 0x1b710b35131c471b] ++
  [0x28db77f523047d84, 0x32caab7b40c72493, 0x3c9ebe0a15c9bebc, 0x431d67c49c100d4c,
   0x4cc5d4becb3e42b6, 0x597f299cfc657e2a, 0x5fcb6fab3ad6faec, 0x6c44198c4a475817]

def bigSigma0 (x : Word) : Word := x.rotateRight 28 ^^^ x.rotateRight 34 ^^^ x.rotateRight 39
def bigSigma1 (x : Word) : Word := x.rotateRight 14 ^^^ x.rotateRight 18 ^^^ x.rotateRight 41
def smallSigma0 (x : Word) : Word := x.rotateRight 1 ^^^ x.rotateRight 8 ^^^ (x >>> 7)
def smallSigma1 (x : Word) : Word := x.rotateRight 19 ^^^ x.rotateRight 61 ^^^ (x >>> 6)

/-- The message schedule, latest word first, n words longer. -/
def hashSchedule : Nat → List Word → List Word
  | 0, w => w
  | n + 1, w => hashSchedule n ((smallSigma1 (w.getD 1 0) + w.getD 6 0 + smallSigma0 (w.getD 14 0) + w.getD 15 0) :: w)

/-- One round, with its constant and its schedule word. -/
def Hash.round (x : Hash) (k w : Word) : Hash :=
  let t1 := x.h + bigSigma1 x.e + ((x.e &&& x.f) ^^^ (~~~x.e &&& x.g)) + k + w
  let t2 := bigSigma0 x.a + ((x.a &&& x.b) ^^^ (x.a &&& x.c) ^^^ (x.b &&& x.c))
  ⟨t1 + t2, x.a, x.b, x.c, x.d + t1, x.e, x.f, x.g⟩

def Hash.add (x y : Hash) : Hash := ⟨x.a + y.a, x.b + y.b, x.c + y.c, x.d + y.d, x.e + y.e, x.f + y.f, x.g + y.g, x.h + y.h⟩

/-- One block of 128 bytes. -/
def Hash.block (x : Hash) (bs : List Byte) : Hash :=
  let w := (hashSchedule 64 ((chunks 8 16 bs).map fun c => BitVec.ofNat 64 (bigOf c)).reverse).reverse
  x.add ((hashKeys.zip w).foldl (fun y e => y.round e.1 e.2) x)

def Hash.bytes (x : Hash) : List Byte := [x.a, x.b, x.c, x.d, x.e, x.f, x.g, x.h].flatMap fun w => bytesBig 8 w.toNat

/-- SHA-512 of a message: its bytes, 0x80, zeros, and its length in bits. -/
def sha512 (m : List Byte) : List Byte :=
  let n := (m.length + 17 + 127) / 128
  let padded := m ++ 0x80 :: List.replicate (128 * n - m.length - 17) 0 ++ bytesBig 16 (8 * m.length)
  ((chunks 128 n padded).foldl Hash.block Hash.start).bytes

/-- MGF1 with SHA-512: n bytes. -/
def mgf1 (seed : List Byte) (n : Nat) : List Byte :=
  ((List.range ((n + 63) / 64)).flatMap fun i => sha512 (seed ++ bytesBig 4 i)).take n

/-! RSA. -/

/-- b ^ e modulo m, for exponents below 2 ^ fuel. -/
def powMod (m : Nat) : Nat → Nat → Nat → Nat
  | 0, _, _ => 1 % m
  | fuel + 1, b, e =>
    let t := powMod m fuel (b * b % m) (e / 2)
    if e % 2 = 1 then t * b % m else t

/-- The bytes of an encoded message of so many bits, and the mask of its first byte. -/
def encodedBytes (bits : Nat) : Nat := (bits + 7) / 8
def encodedMask (bits : Nat) : Byte := BitVec.ofNat 8 (2 ^ (8 - (8 * encodedBytes bits - bits)) - 1)

/-- What the digest of an encoded message covers: eight zeros, the digest of the message, the salt. -/
def saltedDigest (m salt : List Byte) : List Byte := sha512 (List.replicate 8 0 ++ sha512 m ++ salt)

/-- EMSA-PSS encoding with a salt of 64 bytes. -/
def pssEncode (bits : Nat) (m salt : List Byte) : List Byte :=
  let n := encodedBytes bits
  let h := saltedDigest m salt
  let db := List.replicate (n - 130) 0 ++ 0x01 :: salt
  let masked := xorBytes db (mgf1 h (n - 65))
  (masked.take 1).map (· &&& encodedMask bits) ++ masked.drop 1 ++ h ++ [0xBC]

/-- EMSA-PSS verification with a salt of 64 bytes. -/
def pssHolds (bits : Nat) (m em : List Byte) : Bool :=
  let n := encodedBytes bits
  let masked := em.take (n - 65)
  let h := (em.drop (n - 65)).take 64
  let db0 := xorBytes masked (mgf1 h (n - 65))
  let db := (db0.take 1).map (· &&& encodedMask bits) ++ db0.drop 1
  decide (130 ≤ n) && decide (em.length = n) && decide (em.getLast? = some 0xBC) &&
    decide ((masked.headD 0) &&& ~~~encodedMask bits = 0) &&
    decide (db.take (n - 129) = List.replicate (n - 130) 0 ++ [0x01]) && decide (saltedDigest m (db.drop (n - 129)) = h)

/-- RSASSA-PSS verification under a modulus, with the public exponent 65,537 (R403). -/
def rsaHolds (modulus sig : Nat) (m : List Byte) : Bool :=
  let bits := Nat.log2 modulus
  let x := powMod modulus 17 sig 65537
  decide (sig < modulus) && decide (x < 256 ^ encodedBytes bits) && pssHolds bits m (bytesBig (encodedBytes bits) x)

/-- RSASSA-PSS signing under a modulus and a private exponent, with a salt. -/
def rsaSign (modulus key : Nat) (m salt : List Byte) : Nat := powMod modulus 4096 (bigOf (pssEncode (Nat.log2 modulus) m salt)) key

end Sys2Proof.Machine
end

