-- ==== Sys2Proof/Machine/Keyholder.lean ====
section
/-! DEFINITION. The keyholder: images, measurements and answers (R402 to R404). -/

namespace Sys2Proof.Machine

/-- The bytes of an image that its signature covers (R403): fields are little-endian but for MOD (LOG 10). -/
def imageSigned (i : Image) : List Byte :=
  bytesOf 4 i.magic.toNat ++ bytesOf 2 i.kind.toNat ++ bytesOf 2 i.svn.toNat ++ bytesOf 8 i.len.toNat ++ bytesOf 48 i.rsvd.toNat ++
    bytesBig 512 i.modulus.toNat ++ i.body

/-- The bytes of an image. -/
def imageBytes (i : Image) : List Byte := imageSigned i ++ bytesBig 512 i.sig.toNat

/-- An image is accepted for a KIND and a fused minimum (R403). -/
def imageAccepted (img : Image) (kind minSvn : Nat) : Bool :=
  decide (img.magic.toNat = 0x4B594846) && decide (img.kind.toNat = kind) && decide (img.len.toNat = img.body.length) &&
    decide (img.len.toNat % 64 = 0) && decide (minSvn ≤ img.svn.toNat) &&
    decide (sha512 (bytesBig 512 img.modulus.toNat) = Config.vendorDigest) &&
    rsaHolds img.modulus.toNat img.sig.toNat (imageSigned img)

/-- What the access filter lets through, in the order of R402. -/
def AccessFilter.lets (f : AccessFilter) : List Bool :=
  [f.device, f.control, f.windows, f.keyholder, f.fuses, f.patch, f.itself, f.log]

/-- The measurement of an image; none without one. -/
def measuredImage (i : Option Image) : List Byte := (i.map fun i => sha512 (imageBytes i)).getD []

/-- The measurement of an index (R404). -/
def Keyholder.measure (k : Keyholder) (index : Nat) : List Byte :=
  match index with
  | 1 => sha512 Config.romBytes
  | 2 => measuredImage k.patch
  | 3 => measuredImage k.reported
  | 4 => sha512 (Config.filterBytes k.filter.lets)
  | 5 => bytesOf 2 k.minPatch.toNat ++ bytesOf 2 k.minRuntime.toNat
  | _ => []

/-- Measurements enter the measurement log. -/
def Keyholder.record (k : Keyholder) (indices : List Nat) : Keyholder :=
  { k with log := indices.foldl (fun t i => tabPut t i (k.measure i)) k.log }

/-- The measurement of an index as the log holds it; one that was not recorded is taken now. -/
def Keyholder.measured (k : Keyholder) (index : Nat) : List Byte := (tabFind k.log index).getD (k.measure index)

/-- The keyholder's answer (R404): the measurement block, and its signature with the identity key. -/
def Keyholder.answer (k : Keyholder) (now index : Nat) : List Byte :=
  if 1 ≤ index ∧ index ≤ 5 then
    let m := k.measured index
    m ++ bytesBig 512 (rsaSign Config.identityModulus Config.identityKey m (bytesBig 64 (Config.salt now)))
  else []

/-- The new runtime is released (R404): index 3 reports it, and launch acceptance goes on. -/
def Keyholder.release (k : Keyholder) : Keyholder :=
  if k.paused then ({ k with paused := false, reported := k.runtime } : Keyholder).record [3] else k

end Sys2Proof.Machine
end

