-- ==== Sys2Proof/Machine/Launch.lean ====
section
/-! DEFINITION. Launches: the line monitor, the checks of a record, prerequisites, dispatch and completion (R329 to R340). -/

namespace Sys2Proof.Machine

/-- The physical address of slot i of queue q (R329, R397). -/
def slotAddr (q i : Nat) : Nat := 2 ^ 39 + 16384 * q + 256 * i

/-- A write of the launch unit's own to a record slot (R335): the monitor takes no notice of it (LOG 22). -/
def State.putStatus (s : State) (q i off v : Nat) : State := s.unitStore (slotAddr q i + off) v

/-- A store of the launch unit to the slot still waits at its home. -/
def State.statusWaits (s : State) (q i : Nat) : Bool := s.postedOver launchUnit (slotAddr q i) 256

/-- A byte of a slot: one that has not performed is any of the values written to it (R330). -/
def State.slotByte (s : State) (pa : Nat) : Nat :=
  let loc := s.locOf pa
  let wait := (s.posted.filter fun p => decide (s.locOf p.pa ≤ loc ∧ loc < s.locOf p.pa + p.n)).map fun p =>
    p.v / 2 ^ (8 * (loc - s.locOf p.pa)) % 256
  let outside := s.externals.flatMap fun r => match r.data with
    | none => []
    | some v => (r.todo.flatMap fun p => pieces p.1 p.2).filterMap fun p =>
        if s.locOf p.1 ≤ loc ∧ loc < s.locOf p.1 + p.2 then some (v / 2 ^ (8 * (p.1 - r.pa + (loc - s.locOf p.1))) % 256) else none
  s.choose 14 (pa % 256) (s.readCells pa 1) (wait ++ outside)

/-- The 256 bytes of a slot. -/
def State.slotBytes (s : State) (q i : Nat) : Nat :=
  let pa := slotAddr q i
  if s.posted = [] ∧ s.externals = [] then s.readCells pa 256
  else (List.range 256).foldr (fun k acc => acc + s.slotByte (pa + k) * 2 ^ (8 * k)) 0

/-- A slot has been read (R368, R370). -/
def State.slotRead (s : State) (q i : Nat) : State := s.corrected (s.locOf (slotAddr q i)) 256

/-- The fields of a launch record (R332). Bits of PREAi above 55 are reserved too. -/
def parseRecord (b : Nat) : Record :=
  let u := fun o n => fieldOf b (8 * o) (8 * n)
  let npre := u 3 1
  { len := u 0 2, ver := u 2 1, npre := npre, flags := u 4 2, keep := u 6 1, nslots := u 7 1
    entry := BitVec.ofNat 64 (u 8 7), args := BitVec.ofNat 64 (u 16 8), owner := BitVec.ofNat 64 (u 24 8)
    widths := (List.range 6).map fun i => u (32 + i) 1
    places := (List.range 6).map fun i => u (38 + i) 1
    donea := BitVec.ofNat 64 (u 48 7), donev := BitVec.ofNat 64 (u 56 8)
    exts := (List.range 6).map fun i => u (64 + 8 * i) 8
    tveca := BitVec.ofNat 64 (u 112 7)
    preas := (List.range 4).map fun i => u (128 + 16 * i) 7
    prevs := (List.range 4).map fun i => u (136 + 16 * i) 8
    reservedClear :=
      decide (u 4 2 / 2 ^ 14 = 0 ∧ u 15 1 = 0 ∧ u 44 4 = 0 ∧ u 55 1 = 0 ∧ u 112 8 % 4 = 0 ∧ u 119 1 = 0 ∧ u 120 8 = 0 ∧
        u 192 48 = 0) && (List.range (min npre 4)).all fun i => decide (u (135 + 16 * i) 1 = 0) }

def Record.ord (r : Record) : Bool := r.flags.testBit 0
def Record.prio (r : Record) : Nat := r.flags / 2 % 8
def Record.energy (r : Record) : Nat := r.flags / 16 % 4
def Record.glog (r : Record) : Nat := r.flags / 64 % 8
def Record.vcode (r : Record) : Nat := r.flags / 512 % 4
/-- FMAT, FHUP and FHDN (R332). -/
def Record.feats (r : Record) : Nat := r.flags / 2048 % 8

def Record.width (r : Record) (i : Nat) : Nat := r.widths.getD i 0
def Record.place (r : Record) (i : Nat) : Nat := r.places.getD i 0
/-- The extent of field i (R332). -/
def Record.extent (r : Record) (i : Nat) : Nat := r.exts.getD i 0 + 1
/-- The product of the extents below field i (R340). -/
def Record.below (r : Record) (i : Nat) : Nat := (List.range i).foldl (fun n k => n * r.extent k) 1
/-- The streams of the launch (R340). -/
def Record.streams (r : Record) : Nat := r.below 6
/-- f_i of the stream L (R340). -/
def Record.fieldOf (r : Record) (l i : Nat) : Nat := l / r.below i % r.extent i
/-- WID of the stream L (R340). -/
def Record.wid (r : Record) (l : Nat) : Word :=
  BitVec.ofNat 64 ((List.range 6).foldl (fun n i =>
    n + r.fieldOf l i * 2 ^ ((List.range i).foldl (fun w k => w + r.width k) 0)) 0)

/-- The core has every feature of a mask (R342). -/
def CoreRec.hasFeats (r : CoreRec) (f : Nat) : Bool :=
  (r.mat || !f.testBit 0) && (r.hup || !f.testBit 1) && (r.hdn || !f.testBit 2)

/-- Reasons 1 to 4 of R334, which the record alone decides. -/
def Record.shapeReason (r : Record) : Nat :=
  if r.len ≠ 256 ∨ r.ver ≠ 1 ∨ 4 < r.npre then 1
  else if r.reservedClear = false then 2
  else if ((List.range 6).any fun i => decide (64 < r.width i ∨ 2 ^ r.width i < r.extent i)) ∨
      64 < r.widths.foldl (· + ·) 0 ∨ 2 ^ 48 < r.streams then 3
  else
    let used := r.places.filter fun p => decide (p ≠ 0)
    if (used.any fun p => decide (5 < p)) ∨ !decide used.Nodup ∨
        (used.contains 5 ∧ used.any fun p => decide (2 ≤ p ∧ p ≤ 4)) then 4
    else 0

/-- The prerequisite addresses translate (R334). -/
def State.preMaps (s : State) (token : Word) : List Nat → Except Stop Unit
  | [] => .ok ()
  | a :: t => do
    let _ ← s.translateAs token true false (BitVec.ofNat 64 a) .read 8
    s.preMaps token t

/-- The translations of reason 7 in the space of a token (R334). -/
def State.recordMaps (s : State) (token : Word) (r : Record) : Except Stop Unit := do
  let _ ← s.translateAs token false false r.entry .exec 4
  if r.tveca ≠ 0 then
    let _ ← s.translateAs token true false r.tveca .exec 4
  let _ ← s.translateAs token true false r.donea .write 8
  s.preMaps token (r.preas.take r.npre)

/-- The reason a record is rejected for, 0 for none (R334); wait while a page table cannot be read. -/
def State.recordReason (s : State) (q : Nat) (r : Record) : Except Stop Nat :=
  let tok := (s.queue q).token
  let n := r.shapeReason
  if n ≠ 0 then .ok n
  else if tok = 0 ∨ (r.owner ≠ 0 ∧ r.owner ≠ tok) then .ok 5
  else if 4 < r.glog ∨ 8 < r.keep ∨ 16 < r.nslots then .ok 6
  else if r.entry.toNat % 4 ≠ 0 then .ok 7
  else match s.recordMaps tok r with
    | .error .wait => .error .wait
    | .error (.trap _ _ _) => .ok 7
    | .ok () =>
      if (List.range Config.nCores).any fun c => (s.core c).online && (s.core c).hasFeats r.feats then .ok 0 else .ok 8

/-- A store of the launch unit, the debugger or a runtime agent at a virtual address, at system scope. -/
def State.storeAs (s : State) (token va : Word) (n v : Nat) : Except Stop State := do
  let (pa, _) ← s.translateAs token true false va .write n
  waitUnless (!s.blocked pa n)
  return s.writeCells pa n v

/-- The completion write of a record (R335, R339); a write that faults is dropped. -/
def State.completionWrite (s : State) (token : Word) (donea donev : Word) : Except Stop State :=
  match s.storeAs token donea 8 donev.toNat with
  | .error .wait => .error .wait
  | .error (.trap _ _ _) => .ok s
  | .ok t => .ok t

def lstat (state reason lost : Nat) : Nat := state + reason * 2 ^ 8 + lost * 2 ^ 32

/-- The head slot is done with (R330). -/
def QueueRec.next (r : QueueRec) : QueueRec := { r with head := (r.head + 1) % 64, seen := tabErase r.seen r.head }

/-- The monitor has something to parse: a slot of the queue has been written, acceptance is not paused (R404), the slot's bytes are not
behind a detent (R243), and nothing the launch unit has written there waits. R404 pauses launch acceptance; the model parses no debug packet meanwhile either (DESIGN CHOICE,
LOG 81). -/
def State.monitorSees (s : State) (q : Nat) : Bool :=
  let r := s.queue q
  decide (q < Config.nQueues) && tabGet false r.seen r.head && !s.keyholder.paused && !s.keyholder.recovery &&
    !s.blocked (slotAddr q r.head) 256 && !s.statusWaits q r.head && s.backed false (slotAddr q r.head)

/-- A record is rejected (R334, R335, R336): LSEQ, LSTAT, and the completion write in the space of QTOKENq. -/
def State.rejectRecord (s : State) (q : Nat) (r0 : Record) (reason : Nat) : Except Stop State :=
  let r := s.queue q
  let s1 := ((s.putStatus q r.head 248 0).putStatus q r.head 240 (lstat 0x80 reason 0)).setQueue q r.next
  if r.token = 0 then .ok s1 else s1.completionWrite r.token r0.donea r0.donev

/-- A record is accepted (R330, R336, R337): the launch unit keeps a copy under the queue's token. -/
def State.acceptRecord (s : State) (q : Nat) (r0 : Record) : State :=
  let r := s.queue q
  let n := s.nextSeq
  let l : Launch := { record := { r0 with owner := r.token }, queue := q, slot := r.head, state := 1, lost := 0, ready := false,
                      started := [], ended := 0, attached := [] }
  let s1 := { s with nextSeq := n + 1, launches := tabPut s.launches n l }
  let s2 := (s1.putStatus q r.head 248 (n % 2 ^ 64)).putStatus q r.head 240 (lstat 1 0 0)
  s2.setQueue q { r.next with waiting := r.waiting ++ [n] }

/-- LAUNCH_RECORD at a queue (R330). -/
def State.monitor (s : State) (q : Nat) : State :=
  let r := s.queue q
  if s.monitorSees q && !r.dbg then
    let p := parseRecord (s.slotBytes q r.head)
    match s.recordReason q p with
    | .error _ => s
    | .ok 0 => (s.slotRead q r.head).acceptRecord q p
    | .ok n => match (s.slotRead q r.head).rejectRecord q p n with
      | .ok t => t
      | .error _ => s
  else s

/-- A prerequisite holds (R337): a read that faults does not. -/
def State.holdsPre (s : State) (token : Word) (va v : Nat) : Bool :=
  match s.translateAs token true false (BitVec.ofNat 64 va) .read 8 with
  | .error _ => false
  | .ok (pa, _) => !s.blocked pa 8 && (s.markCause (s.locOf pa) 8).isNone && decide (v ≤ s.readCells pa 8)

/-- The reads that find the prerequisites satisfied correct what they read (R368, R370); those of earlier polls are not counted, since the
spec does not say how often a word is read (LOG 90). -/
def State.readPres (s : State) (r : Record) : State :=
  (List.range r.npre).foldl (fun s i => match s.translateAs r.owner true false (BitVec.ofNat 64 (r.preas.getD i 0)) .read 8 with
    | .ok (pa, _) => s.corrected (s.locOf pa) 8
    | .error _ => s) s

/-- The launch waits at the head of its queue (R337). -/
def State.heads (s : State) (seq : Nat) (l : Launch) : Bool :=
  decide (l.state = 1) && decide ((s.queue l.queue).waiting.head? = some seq)

/-- PREREQUISITE_WAKE of a launch (R337). -/
def State.readHead (s : State) (seq : Nat) : State :=
  match tabFind s.launches seq with
  | none => s
  | some l =>
    let r := l.record
    if s.heads seq l && !l.ready && (List.range r.npre).all fun i => s.holdsPre r.owner (r.preas.getD i 0) (r.prevs.getD i 0) then
      { s.readPres r with launches := tabPut s.launches seq { l with ready := true } }
    else s

/-- The ready head that goes next (R338): highest PRIO, then earliest accepted. -/
def State.nextHead (s : State) : Option Nat :=
  let rs := s.launches.filter fun e => e.2.ready && s.heads e.1 e.2
  (List.range 8).reverse.findSome? fun p => (rs.find? fun e => decide (e.2.record.prio = p)).map Prod.fst

/-- LAUNCH_DISPATCH (R338). -/
def State.dispatch (s : State) : State :=
  match s.nextHead with
  | none => s
  | some n => match tabFind s.launches n with
    | none => s
    | some l =>
      let q := s.queue l.queue
      let s1 := { s with launches := tabPut s.launches n { l with state := 2 } }
      (s1.setQueue l.queue { q with waiting := q.waiting.drop 1 }).putStatus l.queue l.slot 240 (lstat 2 0 l.lost)

/-- LAUNCH_COMPLETION of a launch whose streams have all ended (R339). -/
def State.complete (s : State) (seq : Nat) : State :=
  match tabFind s.launches seq with
  | none => s
  | some l =>
    if l.state = 3 ∧ l.record.streams ≤ l.ended then
      match s.completionWrite l.record.owner l.record.donea l.record.donev with
      | .error _ => s
      | .ok t => { t.putStatus l.queue l.slot 240 (lstat 4 0 l.lost) with launches := tabErase t.launches seq }
    else s

/-- LAUNCH_RECORD (R330, R334). -/
def execLaunchRecord (queue : Nat) (s : State) : Host.Outcome State Fault Refusal := .next (s.monitor queue)
/-- PREREQUISITE_WAKE (R337). -/
def execPrerequisiteWake (seq : Nat) (s : State) : Host.Outcome State Fault Refusal := .next (s.readHead seq)
/-- LAUNCH_DISPATCH (R338). -/
def execLaunchDispatch (s : State) : Host.Outcome State Fault Refusal := .next s.dispatch
/-- LAUNCH_COMPLETION (R339). -/
def execLaunchCompletion (seq : Nat) (s : State) : Host.Outcome State Fault Refusal := .next (s.complete seq)
/-- RUNTIME_ENDS_CONTEXT (R339): the stream of a context ends, and counts toward its launch's completion. -/
def execRuntimeEndsContext (id : Nat) (s : State) : Host.Outcome State Fault Refusal :=
  match s.findCtx id with
  | none => .next s
  | some c => .next (if c.resident || c.saved then s.endContext id false else s)
/-- RUNTIME_RELEASE (R404): index 3 reports the new image and acceptance resumes. -/
def execRuntimeRelease (s : State) : Host.Outcome State Fault Refusal :=
  .next { s with keyholder := s.keyholder.release }

end Sys2Proof.Machine
end

