-- ==== Sys2Proof/Machine/Sched.lean ====
section
/-! DEFINITION. Where streams run: placement, start and resumption, pre-emption, ordered dispatch, and YIELD (R27, R341 to R344,
R352 to R359). -/

namespace Sys2Proof.Machine

/-- What a waiting stream or context asks for (R342): own is the context that resumes. -/
structure Want where
  prio   : Nat
  seq    : Nat
  l      : Nat
  ord    : Bool
  glog   : Nat
  nslots : Nat
  feats  : Nat
  cores  : List Nat
  bases  : List Nat
  own    : Option Nat

/-- The coordinate that a launch fixes at a level (R341). -/
def Record.coordinate (r : Record) (l level : Nat) : Option Nat :=
  ((List.range 6).find? fun i => decide (r.place i = level)).map fun i => r.fieldOf l i

/-- The core satisfies the coordinates of a stream (R341). -/
def Record.coreFits (r : Record) (l core : Nat) : Bool :=
  let fits := fun (level units have_ : Nat) => match r.coordinate l level with
    | none => true
    | some f => decide (f % units = have_)
  fits 5 1024 core && fits 4 8 (stackOf core) && fits 2 16 (tierInStack core) && fits 3 8 (core % 8)

/-- The stream L of a launch, as an entry (R343). -/
def wantStart (seq : Nat) (x : Launch) (l : Nat) : Want :=
  let r := x.record
  let g := 2 ^ r.glog
  { prio := r.prio, seq := seq, l := l, ord := r.ord, glog := r.glog, nslots := r.nslots, feats := r.feats
    cores := (List.range Config.nCores).filter (r.coreFits l)
    bases := match r.coordinate l 1 with
      | some f => [g * (f % (16 / g))]
      | none => (List.range (16 / g)).map fun i => g * i
    own := none }

/-- A context that resumes (R342, R360): only on the core and base that its block names, whatever features the core has left. -/
def State.wantResume (s : State) (c0 : Context) : Want :=
  let c := s.whereIs c0
  { prio := c.prio, seq := c.seq, l := c.l, ord := c.ord, glog := c.gmWlog.toNat, nslots := c.nslots, feats := 0
    cores := [c.core], bases := [c.gmBase.toNat], own := some c.id }

/-- The banks of the gang slot at a base. -/
def gangSlot (glog base : Nat) : BitVec 16 := BitVec.ofNat 16 ((2 ^ 2 ^ glog - 1) * 2 ^ base)

/-- Save sets free in every bank of a gang (R353); own: a context whose set counts as free, since its restore frees it. -/
def State.freeSets (s : State) (core : Nat) (banks : BitVec 16) (own : Option Nat) : Nat :=
  ((List.range s.savesets).filter fun k =>
    s.allCtxs.all fun c =>
      let x := s.whereIs c
      !(c.saved && decide (own ≠ some c.id) && decide (x.core = core) && decide (x.allBanks &&& banks ≠ 0) &&
        decide (x.saveset = k))).length

/-- Copy slots held at a core: those of its resident contexts, and those that contexts away from it, on another core after a
migration among them, still own there (R342, R360). -/
def State.heldSlots (s : State) (core : Nat) (own : Option Nat) : Nat :=
  s.allCtxs.foldl (fun n c =>
    if own = some c.id then n
    else if c.resident && decide (c.core = core) then n + c.nslots
    else if c.resident || c.saved then n + (s.ownedSlots core c.id).length
    else n) 0

/-- The conditions of R342 on a core that do not concern banks. A tier above 105 °C places nothing (R347). -/
def State.coreOpen (s : State) (w : Want) (core : Nat) : Bool :=
  let r := s.core core
  let t := s.tier (tierOf core)
  r.online && t.online && decide (t.thermal ≠ 3) && decide (t.temp ≤ 105) && r.hasFeats w.feats &&
    decide (s.heldSlots core w.own + w.nslots ≤ 16)

/-- A gang slot that a context has been given: after another stream gave way (R359), or while its restore waits for a walk (R343). -/
def State.claimed (s : State) (w : Want) (core : Nat) (g : BitVec 16) : Bool :=
  s.allCtxs.any fun c =>
    let x := s.whereIs c
    c.claims && c.saved && decide (w.own ≠ some c.id) && decide (x.core = core) &&
      decide (gangSlot x.gmWlog.toNat x.gmBase.toNat &&& g ≠ 0)

/-- The streams that hold banks of a gang slot. -/
def State.holders (s : State) (core : Nat) (g : BitVec 16) : List Context :=
  (s.residents core).filter fun c => decide (c.allBanks &&& g ≠ 0)

/-- The gang slot is free for the entry (R342). -/
def State.slotOpen (s : State) (w : Want) (core base : Nat) : Bool :=
  let g := gangSlot w.glog base
  decide ((s.residents core).length < 16) && (s.holders core g).isEmpty && !s.claimed w core g &&
    decide (0 < s.freeSets core g w.own)

/-- How a core ranks (R343): clock state, TEMP, resident streams, number. -/
def State.coreRank (s : State) (core : Nat) : Nat :=
  ((s.clock (tierOf core) * 1024 + (s.tier (tierOf core)).temp) * 32 + (s.residents core).length) * 1024 + core

/-- The place of an entry (R343): the stack with an eligible core on the coolest tier, the best core there, and a gang slot of it,
which the spec leaves to the scheduler. -/
def State.placeFor (s : State) (w : Want) : Option (Nat × Nat) :=
  let el := w.cores.filter fun k => s.coreOpen w k && w.bases.any fun b => s.slotOpen w k b
  match lowestBy (fun k => (s.tier (tierOf k)).temp * 8 + stackOf k) el with
  | none => none
  | some k0 =>
    match lowestBy s.coreRank (el.filter fun k => decide (stackOf k = stackOf k0)) with
    | none => none
    | some k => match w.bases.filter fun b => s.slotOpen w k b with
      | [] => none
      | b :: bs => some (k, s.choose 15 k b bs)

/-- A stream number for a new resident (R344). -/
def State.freeNum (s : State) (core : Nat) : Nat :=
  ((List.range 16).find? fun n => (s.residents core).all fun c => decide (c.num ≠ n)).getD 0

/-- A context joins the others, or takes the place of a finished one. -/
def State.addCtx (s : State) (c : Context) : State :=
  match s.ctx.place with
  | .absent | .ended => { s with ctx := c }
  | _ => { s with others := tabPut s.others c.id c }

/-- The context of a stream that starts (R27, R24). -/
def State.newContext (s : State) (seq : Nat) (x : Launch) (l core base : Nat) : Context :=
  let r := x.record
  let wid := r.wid l
  let a := (x.attached.find? fun a => decide (a.l = l)).getD { l := l, dbk := false, trc := false, buf := 0, len := 0 }
  { Context.reset with
    id := s.nextCtx, seq := seq, l := l, owner := r.owner, prio := r.prio, energy := r.energy, ord := r.ord, keep := r.keep
    nslots := r.nslots, core := core, place := .resident, pc := r.entry
    scalars := tabSet 0 (tabSet 0 [] 0 r.args) 1 wid
    vcode := BitVec.ofNat 2 r.vcode, gmBanks := gangSlot r.glog base, gmBase := BitVec.ofNat 4 base, gmWlog := BitVec.ofNat 3 r.glog
    wid := wid, tvec := if r.tveca = 0 then s.runtimeTvec else r.tveca.setWidth 56
    since := s.now, num := s.freeNum core, placedAt := s.now, fencedAt := s.now, syncAt := s.now, constAt := s.now
    dbk := a.dbk, trc := a.trc, trcBuf := a.buf, trcLen := a.len }

/-- STREAM_START (R27, R338): the last first start of a launch makes its STATE 3. -/
def State.startStream (s : State) (seq l core base : Nat) : State :=
  match tabFind s.launches seq with
  | none => s
  | some x =>
    let c := s.newContext seq x l core base
    let started := l :: x.started
    let all := decide (started.length = x.record.streams)
    let s1 := ({ s with
      nextCtx := s.nextCtx + 1
      launches := tabPut s.launches seq { x with started := started, state := if all then 3 else x.state } }).addCtx c
    if all then s1.putStatus x.queue x.slot 240 (lstat 3 0 x.lost) else s1

/-- Both sub-gangs are ready from now on (R344). -/
def Context.readyAt (c : Context) (now : Nat) : Context := { c with since := now, sib := c.sib.map fun b => { b with since := now } }

/-- CONTEXT_RESTORE (R357): the context is read back and goes on. -/
def State.resumeContext (s : State) (id : Nat) : State :=
  match s.findCtx id with
  | none => s
  | some c0 =>
    let num := s.freeNum (s.whereIs c0).core
    let s1 := s.restoreContext c0
    match s1.findCtx id with
    | none => s1
    | some c1 =>
      let c2 := { s1 with ctx := c1 }.resumeSaved c1
      s1.updCtx id fun _ => { c2.turnBack.readyAt s.now with num := num, placedAt := s.now, claims := false }

/-- A TLBINV of the stream has issued and waits (R352 step 1). -/
def Context.invalidating (c : Context) : Bool := c.inv || c.sib.any Sibling.inv

/-- The stream can be stopped now. -/
def Context.stoppable (c : Context) : Bool := c.resident && !c.invalidating

/-- Pre-empt a resident stream (R352): it stops at its boundary, is saved, and its gang slot becomes unowned. One that a TLBINV holds, or
of which some part cannot be saved yet (R356), leaves once that is over. -/
def State.preempt (s : State) (id : Nat) : State :=
  match s.findCtx id with
  | none => s
  | some c =>
    if c.stoppable && !s.saveWaits (c.halts s.now) then (s.saveContext (c.halts s.now) .away).stopRelay c
    else if c.resident then s.updCtx id fun c => { c with leaving := true }
    else s

/-- The streams whose pre-emption something held back leave (R352). -/
def State.finishLeaving (s : State) : State :=
  ((s.allCtxs.filter fun c => c.leaving && c.stoppable).map Context.id).foldl State.preempt s

/-! The walk of R343. -/

/-- Something the schedulers do. -/
inductive Action where
  | start (seq l core base : Nat)
  | resume (id : Nat)
  | evict (id : Nat)
  | claim (id : Nat)

/-- A gang slot that would be eligible but for its holders, all of lower priority than the entry (R352). The set of a pre-empted
stream and one free set must both be found (R353). Whether a core is otherwise eligible where its sixteen residents or its copy slots
come free by the pre-emption alone, the spec does not say: the residents are not counted, the copy slots are (DESIGN CHOICE, LOG
88). -/
def State.takeable (s : State) (w : Want) (below : Nat) (core base : Nat) : Bool :=
  let g := gangSlot w.glog base
  let hs := s.holders core g
  decide (hs ≠ []) && (hs.all fun c => decide (c.prio < below)) && !s.claimed w core g &&
    decide ((if w.own = none then 1 else 0) < s.freeSets core g w.own)

/-- The holders that an entry may displace, by the highest priority they may have. -/
def State.displaceable (s : State) (w : Want) (below : Nat) : List Context :=
  w.cores.flatMap fun k =>
    if s.coreOpen w k then (w.bases.filter fun b => s.takeable w below k b).flatMap fun b => s.holders k (gangSlot w.glog b)
    else []

/-- The stream a waiting entry displaces (R352): the lowest PRIO, then the most recently placed. Of several placed in one walk the
first of the list counts as the most recent (DESIGN CHOICE, LOG 88). -/
def State.victim (s : State) (w : Want) : Option Nat :=
  let xs := s.displaceable w w.prio
  match lowestBy Context.prio xs with
  | none => none
  | some m => (lowestBy (fun c => 2 ^ 64 - c.placedAt) (xs.filter fun c => decide (c.prio = m.prio))).map Context.id

/-- What an entry leads to: its placement, or the pre-emption of a holder. -/
def State.actFor (s : State) (w : Want) : Option Action :=
  match s.placeFor w with
  | some (k, b) => match w.own with
    | some id => some (.resume id)
    | none => some (.start w.seq w.l k b)
  | none => (s.victim w).bind fun id => if (s.findCtx id).any Context.leaving then none else some (.evict id)

/-- The contexts of a priority that wait to resume, by acceptance and then L (R343). -/
def State.waiters (s : State) (prio : Nat) : List Context :=
  (s.allCtxs.filter fun c => decide (c.place = .away) && decide (c.prio = prio)).foldr
    (insertBy fun c => c.seq * 2 ^ 48 + c.l) []

/-- The first answer of f on i, i + 1, and so on, n numbers. -/
def firstAnswer {α : Type} (f : Nat → Option α) : Nat → Nat → Option α
  | 0, _ => none
  | n + 1, i => match f i with
    | some x => some x
    | none => firstAnswer f n (i + 1)

/-- The unstarted streams of a launch in the order they may start (R343, R359). -/
def State.actLaunch (s : State) (seq : Nat) (x : Launch) : Option Action :=
  if x.state ≠ 2 then none
  else if x.record.ord then
    let l := x.started.length
    if l < x.record.streams then s.actFor (wantStart seq x l) else none
  else firstAnswer (fun l => if x.started.contains l then none else s.actFor (wantStart seq x l)) x.record.streams 0

/-- What a waiting context leads to (R343). One whose restore has to wait for a page walk (R144, R283) keeps the slot it is given. -/
def State.actResume (s : State) (c : Context) : Option Action :=
  match s.actFor (s.wantResume c) with
  | some (.resume id) => if s.restorable c then some (.resume id) else if c.claims then none else some (.claim id)
  | a => a

/-- The first thing to do in the order of R343. -/
def State.nextAction (s : State) : Option Action :=
  (List.range 8).reverse.findSome? fun p =>
    match (s.waiters p).findSome? s.actResume with
    | some a => some a
    | none => (s.launches.filter fun e => decide (e.2.record.prio = p)).findSome? fun e => s.actLaunch e.1 e.2

def State.act (s : State) : Action → State
  | .start n l k b => s.startStream n l k b
  | .resume id => s.resumeContext id
  | .evict id => s.preempt id
  | .claim id => s.updCtx id fun c => { c with claims := true }

/-- The walk (R343): until nothing that waits can be placed. -/
def State.schedule (s : State) : Nat → State
  | 0 => s
  | n + 1 => match s.nextAction with
    | none => s
    | some a => (s.act a).schedule n

/-- More actions than one walk can need. -/
def walkFuel : Nat := 65536

/-- STREAM_PLACEMENT (R343). -/
def execStreamPlacement (s : State) : Host.Outcome State Fault Refusal := .next (s.schedule walkFuel)

/-- PREEMPTION (R352): the scheduler, the runtime or a debugger asks for it. -/
def execPreemption (id : Nat) (s : State) : Host.Outcome State Fault Refusal := .next (s.preempt id)

/-- Two entries of one ordered launch (R352). -/
def sameOrdered (w : Want) (c : Context) : Bool := w.ord && decide (w.seq = c.seq)

/-- The entries of a priority. -/
def State.entriesOf (s : State) (prio : Nat) : List Want :=
  (s.waiters prio).map s.wantResume ++
    ((s.launches.filter fun e => decide (e.2.record.prio = prio ∧ e.2.state = 2)).flatMap fun e =>
      (List.range e.2.record.streams).filterMap fun l =>
        if (if e.2.record.ord then decide (l = e.2.started.length) else !e.2.started.contains l) then some (wantStart e.1 e.2 l) else none)

/-- EQUAL_PRIO_PREEMPT (R352): an entry of equal PRIO takes a slot of the stream; the 1 ms are the event's. -/
def execEqualPrioPreempt (id : Nat) (s : State) : Host.Outcome State Fault Refusal :=
  match s.findCtx id with
  | none => .next s
  | some c =>
    let wants := (s.entriesOf c.prio).any fun w =>
      !sameOrdered w c && (s.placeFor w).isNone && (s.displaceable w (w.prio + 1)).any fun x => decide (x.id = id)
    .next (if wants then s.preempt id else s)

/-- The stream is parked on WAITW, each of its sub-gangs that has not reached its GJOIN. -/
def Context.waitsOnWord (c : Context) : Bool :=
  c.resident && c.parked.isSome && c.sib.all fun b => b.parked || b.onWord.isSome

/-- A parked stream of an ordered launch leaves its banks to the context of its launch with the smallest L that needs them (R359). -/
def State.giveWay (s : State) (id : Nat) : State :=
  match s.findCtx id with
  | none => s
  | some c =>
    let ps := s.allCtxs.filter fun p =>
      let x := s.whereIs p
      decide (p.place = .away) && decide (p.seq = c.seq) && decide (p.l < c.l) && decide (x.core = c.core) &&
        decide (gangSlot x.gmWlog.toNat x.gmBase.toNat &&& c.allBanks ≠ 0)
    match lowestBy Context.l ps with
    | some p =>
      if c.ord && c.waitsOnWord then (s.preempt id).updCtx p.id fun p => { p with claims := true } else s
    | none => s

/-- WAITERS_GIVE_WAY (R359): the 11,000 cycles are the event's. -/
def execWaitersGiveWay (id : Nat) (s : State) : Host.Outcome State Fault Refusal := .next (s.giveWay id)

/-- Every stream that has been parked that long gives way (R359). -/
def State.giveWays (s : State) : State :=
  ((s.allCtxs.filter fun c => c.ord && c.waitsOnWord).map Context.id).foldl State.giveWay s

/-- A YIELD is over: the stream, with both its sub-gangs, is the youngest of its priority (R124). -/
def Context.unyield (c : Context) (now : Nat) : Context :=
  if c.yielding then { c with yielding := false, since := now, sib := c.sib.map fun b => { b with since := now } } else c

/-- YIELD_EXPIRY (R124). -/
def execYieldExpiry (id : Nat) (s : State) : Host.Outcome State Fault Refusal :=
  .next (s.updCtx id fun c => c.unyield s.now)

end Sys2Proof.Machine
end

