-- ==== Sys2Proof/Machine/Heat.lean ====
section
/-! DEFINITION. Refresh, heat and power: debts and their slots (R151 to R158), clock states (R346, R347), the governor (R348 to
R350) and the hasp die's own limits (R401). -/

namespace Sys2Proof.Machine

/-! Refresh. -/

/-- The cores of a tier. -/
def tierCores (t : Nat) : List Nat := (List.range 8).map fun i => 8 * t + i

/-- A slot REF has asked for in bank j starts (R155): the debt when the first one of a REF starts bounds them, so that an accrual
during it adds none. -/
def CoreRec.startRef (r : CoreRec) (j : Nat) : CoreRec :=
  match tabGet [] r.refReq j with
  | [] => r
  | e :: t =>
    let n := min e.1 (tabGet 0 r.debt j)
    if n ≤ 1 then { (if n = 0 then r else r.refresh j) with refReq := tabSet [] r.refReq j t }
    else { r.refresh j with refReq := tabSet [] r.refReq j ((n - 1, true) :: t) }

/-- 0x10 becomes pending for the stream that holds the bank, or for its sub-gang (R157, R212). -/
def Context.missDeadline (c : Context) (j : Nat) : Context :=
  if c.gmBanks.getLsbD j then { c with pend10 := true }
  else { c with sib := c.sib.map fun b => if b.banks.getLsbD j then { b with pend10 := true } else b }

/-- The forced slots that are due at a core start (R158). -/
def State.forceDue (s : State) (core : Nat) : State := (List.range 16).foldl (fun s j => s.forceSlot core j) s

/-- One accrual of bank j (R152): DEBT never exceeds 8. -/
def CoreRec.accrue (r : CoreRec) (j : Nat) : CoreRec := { r with debt := tabSet 0 r.debt j (min 8 (tabGet 0 r.debt j + 1)) }

/-- The deadlines an accrual raises at a core (R157). -/
def State.raiseDeadlines (s : State) (core : Nat) : State :=
  (List.range 16).foldl (fun s j => match s.bankOwner core j with
    | none => s
    | some c => if c.rfth.toNat ≤ tabGet 0 (s.core core).debt j then s.updCtx c.id fun c => c.missDeadline j else s) s

/-- An accrual in every bank of a tier (R152). A tier in T3 refreshes itself (R154). The slot that an earlier accrual has forced is long
over (R158). -/
def State.accrueTier (s : State) (t : Nat) : State :=
  if (s.tier t).online ∧ (s.tier t).thermal ≠ 3 then
    (tierCores t).foldl (fun s0 k =>
      let s := s0.forceDue k
      (s.setCore k ((List.range 16).foldl CoreRec.accrue (s.core k))).raiseDeadlines k) s
  else s

/-- A bank in no resident gang performs an owed slot (R156). -/
def State.selfRefresh (s : State) (core j : Nat) : State :=
  if (s.bankOwner core j).isNone ∧ tabGet 0 (s.core core).debt j ≠ 0 then s.setCore core ((s.core core).refresh j) else s

/-- REFRESH_SLOT (R155): a forced slot comes first (R158). -/
def execRefreshSlot (core bank : Nat) (s : State) : Host.Outcome State Fault Refusal :=
  let t := if tabGet [] (s.core core).refReq bank = [] then s else s.forceSlot core bank
  .next (t.setCore core ((t.core core).startRef bank))
/-- REFRESH_ACCRUAL (R152, R157). -/
def execRefreshAccrual (tier : Nat) (s : State) : Host.Outcome State Fault Refusal := .next (s.accrueTier tier)
/-- FORCED_REFRESH (R158). -/
def execForcedRefresh (core bank : Nat) (s : State) : Host.Outcome State Fault Refusal := .next (s.forceSlot core bank)
/-- SELF_REFRESH_SLOT (R156). -/
def execSelfRefreshSlot (core bank : Nat) (s : State) : Host.Outcome State Fault Refusal := .next (s.selfRefresh core bank)
/-- ROW_OPERATION_START (R148 to R150): a row operation takes its slot in the activation window. It costs time alone. -/
def execRowOperationStart (_core _bank : Nat) (s : State) : Host.Outcome State Fault Refusal := .next s

/-! Clock states. -/

/-- The refresh band of a temperature up to 105 °C (R152). -/
def bandOf (temp : Nat) : Nat := if temp ≤ 85 then 0 else if temp ≤ 95 then 1 else 2
/-- The thermal state that a temperature forces at once (R346). -/
def heatOf (temp : Nat) : Nat := if 105 < temp then 3 else if 101 ≤ temp then 2 else if 97 ≤ temp then 1 else 0

/-- The tier's resident streams. -/
def State.tierStreams (s : State) (t : Nat) : List Context := s.allCtxs.filter fun c => c.resident && decide (tierOf c.core = t)

/-- T3_ENTRY (R347): the streams are pre-empted first; the tier enters T3 once none is left. -/
def State.enterT3 (s : State) (t : Nat) : State :=
  let s1 := (s.tierStreams t).foldl (fun s c => s.preempt c.id) s
  if (s1.tierStreams t).isEmpty then s1.setTier t { s1.tier t with thermal := 3 }
  else s1

/-- A tier above 105 °C whose last streams could not stop yet enters T3 once they can (R347). -/
def State.finishT3 (s : State) : State :=
  ((s.tiers.filter fun e => decide (105 < e.2.temp) && decide (e.2.thermal ≠ 3) && e.2.online).map Prod.fst).foldl State.enterT3 s

/-- The sensor reads a temperature, and the tier heats at once (R346, R153): a hotter band ends the interval with an accrual. -/
def State.heat (s : State) (t temp : Nat) : State :=
  let r := s.tier t
  let band := max r.rband (bandOf temp)
  let s1 := s.setTier t { r with temp := temp, rband := band }
  let s2 := if r.rband < band then s1.accrueTier t else s1
  let h := heatOf temp
  let s3 := if r.thermal < h then (if h = 3 then (s2.setTier t { s2.tier t with thermal := max (s2.tier t).thermal 2 }).enterT3 t
    else s2.setTier t { s2.tier t with thermal := h }) else s2
  if 110 < temp ∧ r.thermal ≠ 3 then s2.offlineTier t
  else if s.clock t < s3.clock t then s3.skipTier t else s3

/-- The next cooler thermal state, when the reading has been in its range for 1 ms (R346). -/
def coolerState (thermal temp : Nat) : Nat :=
  match thermal with
  | 3 => if 95 ≤ temp then 3 else if 94 ≤ temp then 1 else 0
  | 2 => if temp < 98 then 1 else 2
  | 1 => if temp < 94 then 0 else 1
  | n => n

/-- T3_EXIT (R154): every debt of the tier is 0. -/
def State.leaveT3 (s : State) (t : Nat) : State :=
  (tierCores t).foldl (fun s k => s.setCore k { s.core k with debt := [] }) s

/-- The sensor reads a temperature 1 ms after it entered the range of a cooler state (R346). -/
def State.cool (s : State) (t temp : Nat) : State :=
  let r := s.tier t
  let h := coolerState r.thermal temp
  let s1 := s.setTier t { r with temp := temp, thermal := h }
  let s2 := if r.thermal = 3 ∧ h ≠ 3 then s1.leaveT3 t else s1
  if s.clock t ≠ s2.clock t then s2.skipTier t else s2

/-- THERMAL_HEATING (R346, R347, R153). -/
def execThermalHeating (tier temp : Nat) (s : State) : Host.Outcome State Fault Refusal :=
  .next (if (s.tier tier).online then s.heat tier (temp % 256) else s)
/-- THERMAL_COOLING (R346, R154). -/
def execThermalCooling (tier temp : Nat) (s : State) : Host.Outcome State Fault Refusal :=
  .next (if (s.tier tier).online then s.cool tier (temp % 256) else s)
/-- REFRESH_BAND_COOLING (R153): one band at a time. -/
def execRefreshBandCooling (tier : Nat) (s : State) : Host.Outcome State Fault Refusal :=
  let r := s.tier tier
  .next (if bandOf r.temp < r.rband then s.setTier tier { r with rband := r.rband - 1 } else s)

/-! The governor. -/

/-- A rational as the integer the register holds: the spec gives no rounding (LOG 24). -/
def roundOpen (now pos num den : Nat) : Nat :=
  num / den + (if num % den ≠ 0 ∧ Config.freeBit now 16 pos then 1 else 0)

/-- The allowance of a stack (R348), with 8 × base in b8 and 8 × surplus in s8: base, or what a qualifying stack gets. -/
def allowance (now pos b8 s8 k : Nat) (qualifies : Bool) : Nat :=
  if qualifies then
    if 13 * b8 * k ≤ 10 * (k * b8 + s8) then roundOpen now pos (13 * b8) 80 else roundOpen now pos (k * b8 + s8) (8 * k)
  else roundOpen now pos b8 8

/-- A power hold ends: the stream's instructions are ready from now on (R345, R344). -/
def Context.freed (c : Context) (now : Nat) : Context :=
  if c.pheld then { c with pheld := false, since := now, sib := c.sib.map fun b => { b with since := now } } else c

/-- A boundary of the governor's interval (R348 to R350, R401): the allowances of the next one; holds and throttles end. used gives
each stack's use in the interval that ends, hprev that of the hasp die and interposer. -/
def State.governInterval (s : State) (hprev : Nat) (used : List Nat) : State :=
  let budget := if s.brake then min s.pbudget 400 else s.pbudget
  let b8 := budget * 10 - hprev
  let u := fun i => used.getD i 0
  let ks := List.range Config.nStacks
  let s8 := ks.foldl (fun n i => n + (b8 - 8 * u i)) 0
  let qual := fun i => decide (19 * (s.stack i).allow ≤ 20 * u i)
  let k := (ks.filter qual).length
  let s1 := ks.foldl (fun s i =>
    s.setStack i { s.stack i with allow := allowance s.now i b8 s8 k (qual i), used := u i, holds := 0 }) s
  let s2 := (List.range Config.nTiers).foldl (fun s t => s.setTier t { s.tier t with pwr := false }) s1
  s2.mapCtxs fun c => { c.freed s.now with heldNow := false, heldLast := c.heldNow }

/-- The streams of a stack that can be held (R349). -/
def State.holdable (s : State) (stack : Nat) : List Context :=
  s.allCtxs.filter fun c => c.resident && decide (stackOf c.core = stack) && decide (c.energy ≠ 0) && !c.pheld && !c.heldLast

/-- The order of holds (R349): ENERGY 3 first, then lower PRIO, then the most recently placed. -/
def holdRank (c : Context) : Nat := ((3 - c.energy) * 8 + c.prio) * 2 ^ 64 + (2 ^ 64 - 1 - c.placedAt)

/-- A check of a stack whose projection is proj (R349, R350). HOLDS adds 1 for each hold, also of a stream held before in the interval: R351
does not say which (DESIGN CHOICE, LOG 98). -/
def State.governCheck (s : State) (stack proj hottest : Nat) : State :=
  let r := s.stack stack
  if proj ≤ r.allow then s
  else
    let xs := (s.holdable stack).foldr (insertBy holdRank) []
    let n := xs.length
    if n = 0 then
      let open_ := (List.range 16).map (fun i => 16 * stack + i) |>.filter fun t => (s.tier t).online && !(s.tier t).pwr
      if 21 * r.allow < 20 * proj ∧ open_.contains hottest ∧ open_.all fun t => decide ((s.tier t).temp ≤ (s.tier hottest).temp) then
        (s.setTier hottest { s.tier hottest with pwr := true }).skipTier hottest
      else s
    else
      let h := ((proj - r.allow) * n + proj - 1) / proj
      let ids := (xs.take h).map Context.id
      (s.setStack stack { r with holds := r.holds + ids.length }).mapCtxs fun c => if ids.contains c.id then { c with pheld := true, heldNow := true } else c

/-- GOVERNOR_INTERVAL (R348). -/
def execGovernorInterval (hprev : Nat) (used : List Nat) (s : State) : Host.Outcome State Fault Refusal :=
  .next (s.governInterval hprev used)
/-- GOVERNOR_CHECK (R349, R350). -/
def execGovernorCheck (stack proj hottest : Nat) (s : State) : Host.Outcome State Fault Refusal :=
  .next (if stack < Config.nStacks then s.governCheck stack proj hottest else s)
/-- POWER_BRAKE (R401): the governor reads the input at its next boundary. -/
def execPowerBrake (asserted : Bool) (s : State) : Host.Outcome State Fault Refusal := .next { s with brake := asserted }
/-- HASP_OVERHEAT (R401): every context ends as by tier loss, the device stays in reset, and the event is reported over management; the
spec does not give the message (LOG 79). -/
def execHaspOverheat (s : State) : Host.Outcome State Fault Refusal :=
  let ids := (s.allCtxs.filter fun c => c.resident || c.saved).map Context.id
  .next { ids.foldl (fun s id => s.endContext id true) s with held := true, report := true, reply := [1] }

end Sys2Proof.Machine
end

