-- ==== Sys2Proof/Machine/Outside.lean ====
section
/-! DEFINITION. Accesses from outside the device, the turns of the hasp die and the activations of the endpoints (R303 to R310, R327,
R328, R397, R398, R400). -/

namespace Sys2Proof.Machine

/-! Atomics that reach an atomic unit from outside the streams (R310, R327). -/

/-- The grant of CLAIM on the 16 bytes (NEXT, LIM), for a request d (R224). -/
def claimNext (v d : Nat) : Nat :=
  let next := v % 2 ^ 64
  let lim := v / 2 ^ 64
  if lim ≤ next then next else (next + min d (lim - next)) % 2 ^ 64

/-- A read-modify-write of a peer at a device physical address, in either view (R220, R310): the old value is the answer; a marked sector
is left as it is. -/
def State.atomicHome (s : State) (op : AtomicOp) (n pa : Nat) (d new : Word) : State :=
  let w := 8 * n
  if pa % n = 0 ∧ spaceOf pa = .device ∧ s.backed false pa ∧ s.markCause (s.locOf pa) n = none then
    let old := s.readCells pa n
    let u := s.corrected (s.locOf pa) n
    let t := if op = .claim then u.writeCells pa 8 (claimNext old d.toNat)
      else u.writeCells pa n (atomicNew op w old (d.toNat % 2 ^ w) (new.toNat % 2 ^ w))
    { t with reply := (List.range n).map fun i => BitVec.ofNat 8 (old / 2 ^ (8 * i)) }
  else { s with reply := [] }

/-! Accesses from outside (R397, R398, R400). -/

/-- The byte a reader outside sees; that of a marked sector is open (LOG 1). -/
def State.outsideByte (s : State) (pa i : Nat) : Byte :=
  if (s.markCause (s.locOf (pa + i)) 1).isSome then BitVec.ofNat 8 (Config.freePick s.now 19 i)
  else BitVec.ofNat 8 (s.readCells (pa + i) 1)
def State.outsideBytes (s : State) (pa n : Nat) : List Byte := (List.range n).map (s.outsideByte pa)

/-- Some byte of an access is backed by nothing: the access fails (R286, R400). -/
def State.unbacked (s : State) (pa n : Nat) : Bool := (pieces pa n).any fun p => !s.backed false p.1

/-- Write n bytes at a device address, across the 512-byte pieces of the interleaved view. -/
def State.writeOutside (s : State) (pa n v : Nat) : State :=
  (pieces pa n).foldl (fun s p => s.writeCells p.1 p.2 (v / 2 ^ (8 * (p.1 - pa)) % 2 ^ (8 * p.2))) s

/-- The sectors of a read from outside that are corrected are counted (R370). -/
def State.correctedOver (s : State) (pa n : Nat) : State := (pieces pa n).foldl (fun s p => s.corrected (s.locOf p.1) p.2) s

/-- The endpoints of an access served the external class last (R304). -/
def State.servedOutside (s : State) (pa n : Nat) : State :=
  (pieces pa n).foldl (fun s p =>
    let k := coreOfLoc (s.locOf p.1)
    s.setCore k { s.core k with lastClass := 2 }) s

/-- An access of n bytes at a device physical address performs whole. -/
def State.external (s : State) (pa n : Nat) (data : Option Nat) : State :=
  match data with
  | none => (({ s with reply := s.outsideBytes pa n }).correctedOver pa n).servedOutside pa n
  | some v => (s.writeOutside pa n v).servedOutside pa n

def State.performExternal (s : State) (r : External) : State := match r.atomic with
  | some (op, d, new) => (s.atomicHome op r.n r.pa d new).servedOutside r.pa r.n
  | none => s.external r.pa r.n r.data

/-- A read from outside has found these bytes, as a number. -/
def State.found (s : State) (pa n : Nat) : Nat := (List.range n).foldr (fun i acc => acc + (s.outsideByte pa i).toNat * 2 ^ (8 * i)) 0

/-- One piece of the k-th access from outside performs; the last one ends the access. One that nothing backs any more fails the access. -/
def State.performPiece (s : State) (k : Nat) (r : External) (p : Nat × Nat) : State :=
  let gone : State := { s with externals := s.externals.eraseIdx k }
  if s.unbacked p.1 p.2 then { gone with reply := [] }
  else
    let r1 := { r with todo := r.todo.erase p }
    let left : State := if r1.todo = [] then gone else { s with externals := s.externals.set k r1 }
    match r.atomic with
    | some (op, d, new) => left.atomicHome op r.n r.pa d new
    | none => match r.data with
      | some v => left.writeOutside p.1 p.2 (v / 2 ^ (8 * (p.1 - r.pa)))
      | none =>
        let got := r.got + s.found p.1 p.2 * 2 ^ (8 * (p.1 - r.pa))
        if r1.todo = [] then { gone with reply := (List.range r.n).map fun i => BitVec.ofNat 8 (got / 2 ^ (8 * i)) }.correctedOver p.1 p.2
        else { s with externals := s.externals.set k { r1 with got := got } }.correctedOver p.1 p.2

/-- Nothing is queued that an access from outside would have to share an endpoint or the hasp die with. -/
def State.quiet (s : State) : Bool := s.externals.isEmpty && s.posted.isEmpty && s.allSlots.all fun q => decide (q.2.2.state ≠ 1)

/-- The pieces an access performs in: all its bytes at once for an atomic and for a write to the launch window (R398), otherwise those of
each row (R278, R304). -/
def External.split (r : External) : List (Nat × Nat) :=
  if r.atomic.isSome || (r.data.isSome && inLaunchWindow r.pa) then [(r.pa, r.n)] else pieces r.pa r.n

/-- An access from outside arrives (R304, R308, R328). One whose bytes nothing backs fails; the others join the queue of their source, and
perform whole at once if nothing else waits and nothing holds them. -/
def State.arrive (s : State) (r : External) : State :=
  if r.n = 0 ∨ 2 ^ 40 < r.pa + r.n ∨ s.unbacked r.pa r.n then { s with reply := [] }
  else if s.quiet && !(pieces r.pa r.n).any fun p => s.blocked p.1 p.2 then s.performExternal r
  else { s with externals := s.externals ++ [{ r with todo := r.split }] }

/-- Flits of an access: those of its data, or one of its request. -/
def flitsOf (n : Nat) (data : Option Nat) : Nat := match data with
  | some _ => max 1 ((n + 255) / 256)
  | none => 1

/-! The hasp die (R308). -/

/-- The requests of a context are changed; what waits is tried again. -/
def State.changeRequests (s : State) (id : Nat) (f : Request → Request) : State :=
  s.updCtx id fun c =>
    let c1 : Context := { c with asking := c.asking.map f, sib := c.sib.map fun b => { b with asking := b.asking.map f } }
    c1.restart s.now

/-- A copy unit of a stack moves a piece that leaves the stack: a landing, or else a source read. -/
def State.hubCopy (s : State) (stack : Nat) : Option State :=
  s.cores.findSome? fun e =>
    if stackOf e.1 ≠ stack then none
    else
      let goes := fun (pa : Nat) => s.crosses e.1 pa && s.classTurn 1 pa
      match (s.copyTurn e.1).filter fun n => ((s.slot e.1 n).landAddr).any goes with
      | some n => some (s.landNow e.1 n)
      | none => ((s.readTurn e.1).filter fun n => (s.readAt e.1 n).any goes).map fun n => s.readPieceNow e.1 n

/-- A flit of a store crosses; the last one of its data brings it over. -/
def Posted.pass (p : Posted) : Posted := { p with passed := p.passed + 1, crossed := decide (p.n ≤ 256 * (p.passed + 1)) }

/-- The first of some requests that is to cross does. -/
def crossFirst (waits : Request → Bool) : List Request → List Request
  | [] => []
  | r :: t => if waits r then { r with crossed := true } :: t else r :: crossFirst waits t

/-- The first request of a context that has to leave its stack crosses the hasp die; what waits is tried again. -/
def State.crossRequest (s : State) (c : Context) : State :=
  s.updCtx c.id fun x =>
    let y : Context := if x.asking.any (s.requestCrosses x) then { x with asking := crossFirst (s.requestCrosses x) x.asking }
      else { x with sib := x.sib.map fun b => { b with asking := crossFirst (s.requestCrosses x) b.asking } }
    y.restart s.now

/-- What the hub link of a stack sends over the hasp die in its turn: a flit of a store, a request that waits, or a piece of a copy. -/
def State.hubFlit (s : State) (stack : Nat) : Option State :=
  match s.posted.findIdx? fun p => decide (stackOf p.core = stack) && s.storeCrosses p with
  | some k => some { s with posted := s.posted.modify k Posted.pass }
  | none => match s.allCtxs.find? fun c => c.resident && decide (stackOf c.core = stack) && c.requests.any (s.requestCrosses c) with
    | some c => some (s.crossRequest c)
    | none => s.hubCopy stack

/-- What a source of the hasp die sends when its turn comes: a flit of an access from outside, or the traffic of a hub link. -/
def State.haspFlit (s : State) (src : Nat) : Option State :=
  if src < 10 then
    (s.externals.findIdx? fun r => decide (r.src = src ∧ 0 < r.flits)).map fun k =>
      { s with externals := s.externals.modify k fun r => { r with flits := r.flits - 1 } }
  else s.hubFlit (src - 10)

/-- One 256-byte flit crosses the hasp die, of the first source after the one served last that has traffic waiting (R308, R328); none when
nothing can cross. -/
def State.passFlit (s : State) : Option State :=
  (List.range haspSources).findSome? fun i =>
    let src := (s.haspTurn + 1 + i) % haspSources
    (s.haspFlit src).map fun t => { t with haspTurn := src }

/-- Something has to take its turn on the hasp die: a flit, or copies of several stacks. -/
def State.haspBusy (s : State) : Bool :=
  (List.range haspSources).any s.haspTraffic || decide (1 < ((List.range Config.nStacks).filter s.hubCopies).length)

/-- Flits cross while some wait, n of them at most. -/
def State.passFlits (s : State) : Nat → State
  | 0 => s
  | n + 1 => if s.haspBusy then (match s.passFlit with
      | some t => t.passFlits n
      | none => s) else s

/-! Endpoints (R304). -/

/-- The stores whose row is activated perform. -/
def State.rowStores (s : State) (core row : Nat) : Nat → State
  | 0 => s
  | n + 1 =>
    match s.posted.zipIdx.find? fun p => s.atCore core p.1.pa && decide (s.rowOf p.1.pa = row) && s.homeReady p.2 p.1 with
    | none => s
    | some (p, k) => ((s.performAt k p).sendWaiting).rowStores core row n

/-- The requests of instructions that wait for the row get their turn. -/
def State.rowRequests (s : State) (core row : Nat) : State :=
  s.allCtxs.foldl (fun t c =>
    let rs := (s.turnWaits core c).filter fun r => decide (s.rowOf r.pa = row)
    if rs = [] then t else t.changeRequests c.id fun r => if rs.contains r then { r with turn := true } else r) s

/-- The pieces of accesses from outside that lie in the row perform. -/
def State.rowPieces (s : State) (core row : Nat) : Nat → State
  | 0 => s
  | n + 1 =>
    match s.externals.zipIdx.findSome? fun r =>
        ((s.piecesAt core r.2 r.1).find? fun p => decide (s.rowOf p.1 = row)).map fun p => (r.2, r.1, p) with
    | none => s
    | some (k, r, p) => (s.performPiece k r p).rowPieces core row n

/-- Every queued request to a row is served (R304). -/
def State.serveRow (s : State) (core row : Nat) : State :=
  let s1 := (s.rowStores core row s.posted.length).rowRequests core row
  let s2 := (s1.landingsAt core).foldl (fun s q => if q.2.2.2 = row then s.landNow q.1 q.2.1 else s) s1
  let s3 := (s2.readsAt core).foldl (fun s q => if q.2.2.2 = row then s.readPieceNow q.1 q.2.1 else s) s2
  s3.rowPieces core row (s3.externals.foldl (fun n r => n + r.todo.length) 0)

/-- ENDPOINT_ACTIVATION (R304, R328): the class that follows the one served last and has a request, the oldest of it, and every other
request to its row. -/
def State.activate (s : State) (core : Nat) : State :=
  match (s.core core).classes.findSome? fun cls => (s.queued core cls).head?.map fun row => (cls, row) with
  | none => s
  | some (cls, row) =>
    let t := s.serveRow core row
    t.setCore core { t.core core with lastClass := cls }

/-- Flits cross the hasp die, and every endpoint where an access from outside or an instruction waits has an activation. -/
def State.runEndpoints (s : State) : State :=
  let asked := s.allCtxs.flatMap Context.requests
  let t := s.passFlits (s.externals.foldl (fun n r => n + r.flits) 0 + s.posted.foldl (fun n p => n + (p.n + 255) / 256) 0 + asked.length +
    haspSources)
  if s.externals = [] ∧ asked = [] then t
  else
    (((t.externals.flatMap fun r => r.todo.map Prod.fst) ++ asked.map Request.pa).filter (fun pa => decide (spaceOf pa = .device)) |>.map fun pa => coreOfLoc (t.locOf pa)).eraseDups.foldl State.activate t

/-- The endpoint of a core comes to a request of a class for a row that arrives now, behind what its turns bring first: n activations at
most (R304). -/
def State.turnTo (s : State) (core cls row : Nat) : Nat → State
  | 0 => s
  | n + 1 =>
    if s.mayServe core cls && (s.arrivals core cls).all fun q => decide (q.2 = row) then s
    else (s.activate core).turnTo core cls row n

/-- The requests that wait at a core's endpoint. -/
def State.waitingAt (s : State) (core : Nat) : Nat := (List.range 3).foldl (fun n cls => n + (s.arrivals core cls).length) 0

/-- An access of a class to a device location takes its turn at the endpoint, with what waits for its row (R304). -/
def State.takeTurn (s : State) (cls loc : Nat) : State :=
  if loc < 2 ^ 39 then
    let k := coreOfLoc loc
    let t := (s.turnTo k cls (loc / 2 ^ 13) (s.waitingAt k + 3)).serveRow k (loc / 2 ^ 13)
    t.setCore k { t.core k with lastClass := cls }
  else s

end Sys2Proof.Machine
end

