-- ==== Sys2Proof/Machine/Debug.lean ====
section
/-! DEFINITION. Debug queues: packets and their operations, and halts (R373 to R380). -/

namespace Sys2Proof.Machine

/-- A debug packet (R374). -/
structure Packet where
  ok    : Bool
  op    : Nat
  flags : Nat
  tseq  : Nat
  tl    : Nat
  owner : Word
  addr  : Word
  len   : Nat
  donea : Word
  donev : Word
  respa : Word
  data  : Nat

/-- The fields of a packet; ok says that LEN, VER and the reserved bytes are right. -/
def parsePacket (b : Nat) : Packet :=
  let u := fun o n => fieldOf b (8 * o) (8 * n)
  { ok := decide (u 0 2 = 256 ∧ u 2 1 = 1 ∧ u 4 4 / 2 ^ 5 = 0 ∧ u 55 1 = 0 ∧ u 71 1 = 0 ∧ u 80 160 = 0 ∧ u 248 8 = 0)
    op := u 3 1, flags := u 4 4, tseq := u 8 8, tl := u 16 8, owner := BitVec.ofNat 64 (u 24 8), addr := BitVec.ofNat 64 (u 32 8)
    len := u 40 8, donea := BitVec.ofNat 64 (u 48 7), donev := BitVec.ofNat 64 (u 56 8), respa := BitVec.ofNat 64 (u 64 7)
    data := u 72 8 }

def Packet.wake (p : Packet) : Bool := p.flags.testBit 0
def Packet.strip (p : Packet) : Bool := p.flags.testBit 1
def Packet.step (p : Packet) : Bool := p.flags.testBit 2
def Packet.dbk (p : Packet) : Bool := p.flags.testBit 3
def Packet.trc (p : Packet) : Bool := p.flags.testBit 4

/-- What an operation ends in (R378): a status and HALTR, a packet that waits for a halt, or a retry after a wait. -/
inductive Reply where
  | done (status haltr : Nat) (s : State)
  | pending (s : State)
  | retry

/-- DSTAT (R378). -/
def dstat (state status haltr : Nat) : Nat := state + status * 2 ^ 8 + haltr * 2 ^ 16

/-! Bytes of the target and of the response. -/

/-- The physical pieces of n bytes of a token's space at va (R374). -/
def State.debugPieces (s : State) (token va : Word) (n : Nat) (kind : AccessKind) : Except Stop (List (Nat × Nat)) :=
  (pieces va.toNat n).foldr (fun p acc => do
    require (decide (p.1 < 2 ^ 56)) 0x0C va
    let (pa, _) ← s.translateAs token true false (BitVec.ofNat 64 p.1) kind 1
    let ps ← acc
    return (pa, p.2) :: ps) (.ok [])

/-- Reaching these locations costs a wake: some lie in a tier in T3 (R376). -/
def State.reachAsleep (s : State) (locs : List Nat) : Bool :=
  locs.any fun l => decide (l < 2 ^ 39) && decide ((s.tier (tierOfLoc l)).thermal = 3)
/-- A tier among them is too hot to wake (R376). -/
def State.reachHot (s : State) (locs : List Nat) : Bool :=
  locs.any fun l => decide (l < 2 ^ 39) && decide ((s.tier (tierOfLoc l)).thermal = 3) && decide (108 < (s.tier (tierOfLoc l)).temp)

/-- A poisoned sector lies among n bytes of a location (R368). -/
def State.poisonedIn (s : State) (loc n : Nat) : Bool :=
  s.marks.any fun e => decide (loc < 32 * (e.1 + 1) ∧ 32 * e.1 < loc + n ∧ e.2 = .poisoned)

/-- Read pieces of locations as one number, and whether a poisoned sector was among them (R375). -/
def State.readPieces (s : State) : List (Nat × Nat) → Nat × Bool
  | [] => (0, false)
  | (loc, n) :: t =>
    let r := s.readPieces t
    (s.readLoc loc n + r.1 * 2 ^ (8 * n), s.poisonedIn loc n || r.2)

/-- The reads of a debug packet take their turns at the endpoints, in the external class (R304, R328), and what they correct is counted. -/
def State.debugTurns (s : State) (src : List (Nat × Nat)) : State :=
  src.foldl (fun s d => (s.takeTurn 2 d.1).corrected d.1 d.2) s

/-- Write a number over physical pieces. -/
def State.writePieces (s : State) (v : Nat) : List (Nat × Nat) → State
  | [] => s
  | (pa, n) :: t => (s.writeCells pa n (v % 2 ^ (8 * n))).writePieces (v / 2 ^ (8 * n)) t

/-- Copy source locations to RESPA (R375, R376): status 1, 6, 8, 9 or 0. waits: the read waits behind detents, as every column access
but READMEM's (R243, R375). -/
def State.respond (s : State) (token : Word) (p : Packet) (src : List (Nat × Nat)) (n haltr : Nat) (waits : Bool) : Reply :=
  match s.debugPieces token p.respa n .write with
  | .error .wait => .retry
  | .error (.trap _ _ _) => .done 6 haltr s
  | .ok dst =>
    let locs := src.map Prod.fst ++ dst.map fun d => s.locOf d.1
    if s.reachAsleep locs ∧ p.wake = false then .done 1 haltr s
    else if s.reachHot locs then .done 8 haltr s
    else if (dst.any fun d => s.touches d.1 d.2) || (waits && src.any fun d => s.touches d.1 d.2) then .retry
    else
      let t := s.debugTurns src
      let (v, bad) := t.readPieces src
      .done (if bad then 9 else 0) haltr (t.writePieces v dst)

/-! The context image (R375). -/

/-- Bytes of the image of a context. -/
def Context.imageSize (c : Context) : Nat := 4096 + 196608 * (bankList c.allBanks).length

/-- The location of image byte o ≥ 4096. -/
def Context.imageLoc (c : Context) (o : Nat) : Nat :=
  let r := (o - 4096) % 196608
  placedRow c.core ((bankList c.allBanks).getD ((o - 4096) / 196608) 0) (r % 65536 / 8192) (511 - r / 65536 - 3 * c.saveset) + r % 8192

/-- The pieces of an image range: the context block's are physical addresses of its pool. -/
def State.imagePieces (s : State) (c : Context) (o n : Nat) : List (Nat × Nat) :=
  (pieces o n).map fun p =>
    (if p.1 < 4096 then s.locOf (c.block - 1 + p.1) else c.imageLoc p.1, p.2)

/-- An offset WRITECTX refuses (R375). -/
def refusedOffset (o : Nat) : Bool :=
  decide (o < 32) || decide (4096 ≤ o ∧ (o - 4096) % 196608 / 8 = (131072 + 39008) / 8)

/-! The operations. -/

/-- The target of a packet (R374). -/
def State.target (s : State) (p : Packet) : Option Context :=
  s.allCtxs.find? fun c => (c.resident || c.saved) && decide (c.seq = p.tseq) && decide (c.l = p.tl)

/-- A field of ATTACH with TRC = 1 (R375). -/
def Packet.bufferOk (p : Packet) : Bool :=
  !p.trc || (decide (4096 ≤ p.len ∧ p.len ≤ 2 ^ 30 ∧ 2 ^ log2 p.len = p.len) && decide (p.addr.toNat % p.len = 0))

/-- ATTACH (R375). -/
def State.opAttach (s : State) (token : Word) (p : Packet) : Reply :=
  match tabFind s.launches p.tseq with
  | none => .done 2 0 s
  | some l =>
    if l.record.owner ≠ token ∨ l.record.streams ≤ p.tl then .done 2 0 s
    else if p.bufferOk = false then .done 4 0 s
    else match s.target p with
      | some c => .done 0 0 (s.updCtx c.id fun c => { c with dbk := p.dbk, trc := p.trc, trcBuf := p.addr.toNat, trcLen := p.len })
      | none =>
        if l.started.contains p.tl then .done 7 0 s
        else
          let a : Attached := { l := p.tl, dbk := p.dbk, trc := p.trc, buf := p.addr.toNat, len := p.len }
          .done 0 0 { s with launches := tabPut s.launches p.tseq { l with attached := a :: l.attached } }

/-- DETACH (R375). -/
def State.opDetach (s : State) (c : Context) : Reply :=
  .done 0 0 (s.updCtx c.id fun c => { c with dbk := false, trc := false })

/-- The halt a HALT leaves due (R377): one whose point is reached at the next boundary stays as it is. A HALT with STRIP = 0 halts a target
that stands at a strip start, and waits there for the interval to close, at the next boundary. -/
def Context.haltAfter (c : Context) (strip : Bool) : Option Nat := match c.haltReq with
  | some 1 => some 1
  | some 3 => some 3
  | some 4 => some (if strip then 4 else 1)
  | _ => some (if strip then 2 else 1)

/-- HALT (R377). -/
def State.opHalt (s : State) (p : Packet) (c : Context) : Reply :=
  match c.place with
  | .halted r => .done 0 r s
  | .away => .done 0 1 (s.updCtx c.id fun c => { c with place := .halted 1, claims := false })
  | _ => .pending (s.updCtx c.id fun c => { c with haltReq := c.haltAfter p.strip })

/-- A packet ends (R378): DSTAT, then the completion write. -/
def State.packetDone (s : State) (q slot state status haltr : Nat) (donea donev : Word) : Except Stop State :=
  let t := s.putStatus q slot 240 (dstat state status haltr)
  if t.statusWaits q slot then .error .wait else t.completionWrite (s.queue q).token donea donev

/-- The packets that waited for a context that has halted or ended are done (R377). -/
def State.answerHalts (s : State) : State :=
  s.halts.foldl (fun s w =>
    let answer := match s.findCtx w.ctx with
      | none => some (7, 0)
      | some c => match c.place with
        | .halted r => some (0, r)
        | .resident | .away => none
        | .ended | .absent => some (7, 0)
    match answer with
    | none => s
    | some (status, r) =>
      match s.packetDone w.queue w.slot 4 status r w.donea w.donev with
      | .error _ => s
      | .ok t => { t with halts := t.halts.filter fun (x : HaltWait) => decide (x ≠ w) }.setQueue w.queue
          { t.queue w.queue with busy := false }) s

/-- RESUME (R375). The HALTs of other queues that waited for the target are answered first, since it has halted (R377). -/
def State.opResume (s0 : State) (p : Packet) (c : Context) : Reply :=
  let s := s0.answerHalts
  match c.place with
  | .halted _ =>
    if s.halts.any fun w => decide (w.ctx = c.id) then .retry else
    let t := s.updCtx c.id fun c => { c with place := .away, stepOnce := p.step, haltReq := none }
    if p.step then .pending t else .done 0 0 t
  | _ => .done 5 0 s0

/-- READMEM (R375). -/
def State.opReadmem (s : State) (token : Word) (p : Packet) : Reply :=
  if p.len = 0 ∨ 65536 < p.len then .done 4 0 s
  else match s.debugPieces token p.addr p.len .read with
    | .error .wait => .retry
    | .error (.trap _ _ _) => .done 6 0 s
    | .ok src => s.respond token p (src.map fun d => (s.locOf d.1, d.2)) p.len 0 false

/-- WRITEMEM (R375). -/
def State.opWritemem (s : State) (token : Word) (p : Packet) : Reply :=
  if !(decide (p.len = 1 ∨ p.len = 2 ∨ p.len = 4 ∨ p.len = 8)) || decide (p.addr.toNat % p.len ≠ 0) then .done 4 0 s
  else match s.storeAs token p.addr p.len (p.data % 2 ^ (8 * p.len)) with
    | .error .wait => .retry
    | .error (.trap _ _ _) => .done 6 0 s
    | .ok t => .done 0 0 t

/-- The halt reason of a context. -/
def Context.haltr (c : Context) : Option Nat := match c.place with
  | .halted r => some r
  | _ => none

/-- READCTX (R375). The image stands where the block says (R355, R360). A context without a block shows what its block would hold
(LOG 17). -/
def State.opReadctx (s : State) (token : Word) (p : Packet) (c0 : Context) : Reply :=
  match c0.haltr with
  | none => .done 5 0 s
  | some r =>
    let c := s.whereIs c0
    let o := p.addr.toNat
    if p.len = 0 ∨ c.imageSize < o + p.len then .done 4 r s
    else if c.block = 0 ∧ o < 4096 then
      let v := c.blockImage (s.ownedSlots c.core c.id) c.saveset
      let n := min p.len (4096 - o)
      let rest := s.imagePieces c 4096 (p.len - n)
      match s.debugPieces token p.respa p.len .write with
      | .error .wait => .retry
      | .error (.trap _ _ _) => .done 6 r s
      | .ok dst =>
        let locs := rest.map Prod.fst ++ dst.map fun d => s.locOf d.1
        if s.reachAsleep locs ∧ p.wake = false then .done 1 r s
        else if s.reachHot locs then .done 8 r s
        else if (dst.any fun d => s.touches d.1 d.2) || (rest.any fun d => s.touches d.1 d.2) then .retry
        else
          let t := s.debugTurns rest
          let (w, bad) := t.readPieces rest
          .done (if bad then 9 else 0) r (t.writePieces (fieldOf v (8 * o) (8 * n) + w * 2 ^ (8 * n)) dst)
    else s.respond token p (s.imagePieces c o p.len) p.len r true

/-- WRITECTX (R375), likewise: a store that waits behind detents (R243). -/
def State.opWritectx (s : State) (p : Packet) (c0 : Context) : Reply :=
  match c0.haltr with
  | none => .done 5 0 s
  | some _ =>
    let c := s.whereIs c0
    let o := p.addr.toNat
    if o % 8 ≠ 0 ∨ c.imageSize < o + 8 ∨ refusedOffset o then .done 4 0 s
    else if c.block = 0 ∧ o < 4096 then
      let v := c.blockImage (s.ownedSlots c.core c.id) c.saveset
      let v1 := v - fieldOf v (8 * o) 64 * 2 ^ (8 * o) + p.data * 2 ^ (8 * o)
      .done 0 0 (s.updCtx c0.id fun c => c.ofBlock v1)
    else
      let ps := s.imagePieces c o 8
      let locs := ps.map Prod.fst
      if s.reachAsleep locs ∧ p.wake = false then .done 1 0 s
      else if s.reachHot locs then .done 8 0 s
      else match ps with
        | (loc, _) :: _ => if s.touches loc 8 then .retry else .done 0 0 (s.writeBytes loc 8 p.data)
        | [] => .done 0 0 s

/-- READSLIP (R380). -/
def State.opReadslip (s : State) (token : Word) (p : Packet) (c : Context) : Reply :=
  let x := if c.resident then c.charge s.now else c
  let t := s.updCtx c.id fun _ => x
  let js := bankList x.allBanks
  let v := (js.zipIdx).foldl (fun n (j, i) =>
    (List.range 7).foldl (fun n k => n + (tabGet 0 (x.bank j).slip k).toNat * 2 ^ (8 * (56 * i + 8 * k))) n) 0
  match t.debugPieces token p.respa (56 * js.length) .write with
  | .error .wait => .retry
  | .error (.trap _ _ _) => .done 6 0 t
  | .ok dst => if dst.any fun d => t.blocked d.1 d.2 then .retry else .done 0 0 (t.writePieces v dst)

/-- The operation of a packet (R375, R378): every one but ATTACH, READMEM and WRITEMEM needs its target, of the queue's owner. -/
def State.packetOp (s : State) (token : Word) (p : Packet) : Reply :=
  let on := fun (f : Context → Reply) => match s.target p with
    | none => Reply.done 2 0 s
    | some c => if c.owner ≠ token then .done 3 0 s else f c
  match p.op with
  | 1 => s.opAttach token p
  | 2 => on s.opDetach
  | 3 => on (s.opHalt p)
  | 4 => on (s.opResume p)
  | 5 => s.opReadmem token p
  | 6 => s.opWritemem token p
  | 7 => on (s.opReadctx token p)
  | 8 => on (s.opWritectx p)
  | 9 => on (s.opReadslip token p)
  | _ => .done 4 0 s

/-- The packet in the head slot of a debug queue (R373), which is read to parse it. op selects the operation the step is about; a packet with no operation of
its own is dealt with by any. -/
def State.packet (s : State) (q op : Nat) : State :=
  let r := s.queue q
  if s.monitorSees q && r.dbg && !r.busy then
    let p := parsePacket (s.slotBytes q r.head)
    let ends := fun (t : State) (state status haltr : Nat) =>
      match t.packetDone q r.head state status haltr p.donea p.donev with
      | .ok u => u.setQueue q (u.queue q).next
      | .error _ => s
    if p.ok = false then ends (s.slotRead q r.head) 0x80 4 0
    else if p.owner ≠ 0 ∧ p.owner ≠ r.token then ends (s.slotRead q r.head) 0x80 3 0
    else if p.op ≠ op ∧ 1 ≤ p.op ∧ p.op ≤ 9 then s
    else match (s.slotRead q r.head).packetOp r.token p with
      | .done status haltr t => ends t 4 status haltr
      | .retry => s
      | .pending t =>
        let w : HaltWait := { queue := q, slot := r.head, ctx := ((s.target p).map Context.id).getD 0, step := p.step
                              donea := p.donea, donev := p.donev }
        ({ t with halts := t.halts ++ [w] }.putStatus q r.head 240 (dstat 1 0 0)).setQueue q { r.next with busy := true }
  else s

/-- ATTACH (R375). -/
def execAttach (queue : Nat) (s : State) : Host.Outcome State Fault Refusal := .next (s.packet queue 1)
/-- DETACH (R375). -/
def execDetach (queue : Nat) (s : State) : Host.Outcome State Fault Refusal := .next (s.packet queue 2)
/-- HALT (R375, R377). -/
def execHalt (queue : Nat) (s : State) : Host.Outcome State Fault Refusal := .next (s.packet queue 3)
/-- RESUME (R375). -/
def execResume (queue : Nat) (s : State) : Host.Outcome State Fault Refusal := .next (s.packet queue 4)
/-- READMEM (R375, R376). -/
def execReadmem (queue : Nat) (s : State) : Host.Outcome State Fault Refusal := .next (s.packet queue 5)
/-- WRITEMEM (R375). -/
def execWritemem (queue : Nat) (s : State) : Host.Outcome State Fault Refusal := .next (s.packet queue 6)
/-- READCTX (R375, R376). -/
def execReadctx (queue : Nat) (s : State) : Host.Outcome State Fault Refusal := .next (s.packet queue 7)
/-- WRITECTX (R375, R376). -/
def execWritectx (queue : Nat) (s : State) : Host.Outcome State Fault Refusal := .next (s.packet queue 8)
/-- READSLIP (R380). -/
def execReadslip (queue : Nat) (s : State) : Host.Outcome State Fault Refusal := .next (s.packet queue 9)

/-! Halts. -/

/-- Make a context the running one; the one that ran joins the others. -/
def State.focus (s : State) (id : Nat) : State :=
  if s.ctx.id = id then s
  else match tabFind s.others id with
    | none => s
    | some c =>
      let o := tabErase s.others id
      { s with
        ctx := c
        others := match s.ctx.place with
          | .absent | .ended => o
          | _ => tabPut o s.ctx.id s.ctx }

/-- The running context halts if it has reached its halt point (R377). A HALT at a strip start waits for the bank class and for
the interval's stores. -/
def State.haltPoint (s : State) : State :=
  let c := s.ctx
  if c.stoppable && !s.haltWaits then
    match c.haltReq with
    | some 1 => (({ s with ctx := { c with haltReq := none } } : State).haltNow 1).stopRelay c
    | some 3 => (({ s with ctx := { c with haltReq := none } } : State).haltNow 3).stopRelay c
    | some 4 =>
      if s.postedBefore c.id || c.working then s
      else
        let t := s.drained
        ({ t with ctx := { t.ctx with haltReq := none } } : State).haltNow 2
    | _ => s
  else s

/-- HALT_POINT_REACHED (R377): the context halts, and the packet that waited for it completes. -/
def execHaltPointReached (id : Nat) (s : State) : Host.Outcome State Fault Refusal :=
  .next (((s.focus id).haltPoint.focus s.ctx.id).answerHalts)

end Sys2Proof.Machine
end

