-- ==== Sys2Proof/Machine/Fabric.lean ====
section
/-! DEFINITION. The steps of the memory system, the links and the control space that no instruction of a stream makes: stores and
atomics at their homes, wakes, invalidations, page walks and requests, hinges and tiers, host and peer accesses (R127, R138, R214,
R283 to R292, R303, R304, R310, R311, R326, R327, R361, R370, R396 to R400). -/

namespace Sys2Proof.Machine

/-! Hinges (R326). -/

/-- The link from a core to the core above it fails: both lose the hinge, and MMFs whose block spans the link end (R274). -/
def State.hingeFails (s : State) (core : Nat) : State :=
  let up := core + 8
  let spans := fun (c : Context) => c.inBlockOf core && c.inBlockOf up
  let s1 := (s.allCtxs.filter spans).foldl (fun s c => s.failFold c.id (BitVec.ofNat 64 (2 ^ 17))) s
  let s2 := s1.setCore core { s1.core core with hup := false }
  s2.setCore up { s2.core up with hdn := false }

/-! What the control cores do (R402). -/

/-- A control core reaches for a target: the access filter lets it, or the access does not complete and is counted. -/
def State.controlCore (s : State) (t : FilterTarget) (f : State → State) : State :=
  if s.keyholder.filter.allows t then f s
  else { s with keyholder := { s.keyholder with denied := s.keyholder.denied + 1 } }

/-- The runtime, or a stream in supervisor mode, writes a control-space register; in recovery neither runs (R402, R406). The write stands
for one of the control cores, behind the filter (DEDUCED, LOG 92). -/
def State.controlStore (s : State) (off : Nat) (v : Word) : State :=
  if s.keyholder.recovery then s else s.controlCore .control fun t => t.storeControl off v

/-- The target of an access of a control core, by its address (R402). -/
def filterTarget (pa : Nat) : FilterTarget := match spaceOf pa with
  | .device => .device
  | .control => .control
  | _ => .windows

/-- The party as which the control cores reach memory: no port and no link (LOG 92). -/
def controlParty : Nat := haspSources

/-- A control core reads or writes (R402): in control space an 8-byte word, elsewhere as an access from outside the stacks, which waits
behind detents (R243). The filter lets device memory, control space and the windows through; in recovery the cores do not run (R406). What
class such an access has at an endpoint the spec does not say: the external one (DEDUCED, LOG 92). -/
def State.controlReach (s : State) (pa n : Nat) (data : Option Nat) : State :=
  if s.keyholder.recovery then { s with reply := [] }
  else s.controlCore (filterTarget pa) fun t =>
    match spaceOf pa with
    | .control =>
      if controlWord (pa % 2 ^ 48) ∧ pa % 8 = 0 ∧ n = 8 then match data with
        | none => { t with reply := bytesOf 8 (t.readControl (pa % 2 ^ 48)) }
        | some v => t.storeControl (pa % 2 ^ 48) (BitVec.ofNat 64 v)
      else { t with reply := [] }
    | .device => t.arrive { src := controlParty, pa := pa, n := n, todo := [], got := 0, data := data, atomic := none, flits := 0 }
    | _ =>
      if t.unbacked pa n then { t with reply := [] }
      else match data with
        | none => { t with reply := t.outsideBytes pa n }
        | some v => t.writeOutside pa n v

/-- A configuration request at a port (R406): until step 4 of a cold reset ends it is answered with a retry status, which carries no data; then
with a register of the configuration space, whose contents the spec does not give (LOG 105). A port that is not trained answers nothing. In
recovery the ports have their configuration space still. -/
def State.configRequest (s : State) (port : Nat) : State :=
  { s with reply := if (s.port port).up && !s.retry then bytesOf 4 (Config.freePick s.now 55 port) else [] }

/-! Links and ports (R327, R396, R399, R407). -/

/-- Stores on their way through a window are lost with it, and so are the requests that came through it (R214, R327, R407). -/
def State.dropPosted (s : State) (window : Space) : State :=
  let src := match window with
    | .host p => p
    | .druthes l => 2 + l
    | _ => haspSources
  { s with posted := s.posted.filter (fun p => decide (spaceOf p.pa ≠ window)), externals := s.externals.filter fun r => decide (r.src ≠ src) }

/-! The steps. -/

/-- INVALIDATION_ARRIVAL (R138, R251). -/
def execInvalidationArrival (core : Nat) (sel : InvSel) (s : State) : Host.Outcome State Fault Refusal :=
  .next (s.invalidateCore core sel)

/-- The entries that the walk of an address reads (R283), up to one that waits behind a detent or a tier in T3. -/
def State.walkPath (s : State) (va : Nat) : Nat → Nat → List Nat
  | 0, _ => []
  | n + 1, table =>
    let pa := table + 8 * walkIndex va n
    if spaceOf pa ≠ .device ∨ s.backed false pa = false ∨ s.blocked pa 8 then []
    else
      let e := s.readCells pa 8
      pa :: if e % 2 = 0 ∨ malformed n e ∨ e.testBit 1 then [] else s.walkPath va n (e / 2 ^ 8 % 2 ^ 44 * 2 ^ 8)

/-- PAGE_WALK (R283, R287, R304): the walker's reads take their turns at the endpoints, in the scalar class. What the walk fills, the model
holds as the set of entries a translation may still use: no value changes. -/
def execPageWalk (asid va : Nat) (s : State) : Host.Outcome State Fault Refusal :=
  .next ((s.walkPath va 4 ((s.asid asid).root.toNat * 2 ^ 20)).foldl (fun s pa =>
    (s.takeTurn 0 (s.locOf pa)).corrected (s.locOf pa) 8) s)

/-- PAGE_REQUEST (R288): for a page of an address space that is not present. -/
def execPageRequest (asid va : Nat) (s : State) : Host.Outcome State Fault Refusal :=
  let e := s.asid asid
  .next (if e.v ∧ va < 2 ^ 56 then
      match s.walk e.token asid va 4 (e.root.toNat * 2 ^ 20) with
      | .error (.trap 0x08 _ _) => s.postRequest asid (va / 2 ^ 16)
      | _ => s
    else s)

/-- SLOT_GRANT (R292): stores of the core that waited for a slot get one, and its streams' other requests are tried again; the grant goes
by age. -/
def execSlotGrant (core : Nat) (s : State) : Host.Outcome State Fault Refusal :=
  .next (s.sendWaiting.mapCtxs fun c => if c.resident ∧ c.core = core then c.restart s.now else c)

/-- ENDPOINT_ACTIVATION (R304). -/
def execEndpointActivation (core : Nat) (s : State) : Host.Outcome State Fault Refusal := .next (s.activate core)

/-- LOAD_RESPONSE (R214): the stream that held issue goes on. -/
def execLoadResponse (id : Nat) (s : State) : Host.Outcome State Fault Refusal :=
  .next (s.updCtx id fun c => c.restart s.now)

/-- STORE_AT_HOME (R214). -/
def execStoreAtHome (k : Nat) (s : State) : Host.Outcome State Fault Refusal := .next (s.storeHome k)

/-- ATOMIC_AT_HOME (R310, R400): an atomic of the peer on a link at a word of this device; with ACC = 0 it fails. -/
def execAtomicAtHome (link : Nat) (kind : PeerAtomic) (pa : Nat) (d new : BitVec 64) (s : State) :
    Host.Outcome State Fault Refusal :=
  let n := if kind.op = .claim then 16 else if kind.w32 then 4 else 8
  .next (if (s.link link).up ∧ (s.link link).acc ∧ s.keyholder.recovery = false then
      s.arrive { src := 2 + link, pa := pa, n := n, todo := [], got := 0, data := none, atomic := some (kind.op, d, new), flits := 1 }
    else { s with reply := [] })

/-- WAITW_WRITE_WAKE (R311): every parked WAITW of the core reads again. -/
def execWaitwWriteWake (core : Nat) (s : State) : Host.Outcome State Fault Refusal :=
  .next (s.mapCtxs fun c => if c.core = core then c.wakeIf s.now fun _ => true else c)

/-- WAITW_TIMER_WAKE (R127). -/
def execWaitwTimerWake (id : Nat) (s : State) : Host.Outcome State Fault Refusal :=
  .next (s.updCtx id fun c => c.wakeIf s.now fun _ => true)

/-- HINGE_RETRY (R326): a flit is sent again; only time passes. -/
def execHingeRetry (_core : Nat) (s : State) : Host.Outcome State Fault Refusal := .next s

/-- HINGE_LINK_FAIL (R326): the link above a core. -/
def execHingeLinkFail (core : Nat) (s : State) : Host.Outcome State Fault Refusal :=
  .next (if tierInStack core < 15 ∧ core < Config.nCores then s.hingeFails core else s)

/-- TIER_OFFLINE (R371). -/
def execTierOffline (tier : Nat) (s : State) : Host.Outcome State Fault Refusal := .next (s.offlineTier tier)
/-- OFFREQ (R370). -/
def execOffreq (tier : Nat) (s : State) : Host.Outcome State Fault Refusal :=
  .next (s.controlStore (0x40000 + 16 * tier + 8) 0x8000000000000000)

/-- REGION_TABLE_WRITE (R281, R282): word w of entry i. -/
def execRegionTableWrite (i word : Nat) (v : BitVec 64) (s : State) : Host.Outcome State Fault Refusal :=
  .next (if i < 16 ∧ word < 16 then s.controlStore (128 * i + 8 * word) v else s)
/-- PBUDGET_WRITE (R351). -/
def execPbudgetWrite (v : BitVec 64) (s : State) : Host.Outcome State Fault Refusal := .next (s.controlStore 0x50200 v)
/-- SAVESETS_WRITE (R351). -/
def execSavesetsWrite (v : BitVec 64) (s : State) : Host.Outcome State Fault Refusal := .next (s.controlStore 0x50208 v)
/-- SREQ_WRITE (R384). -/
def execSreqWrite (core : Nat) (v : BitVec 64) (s : State) : Host.Outcome State Fault Refusal :=
  .next (if core < Config.nCores then s.controlStore (0x30000 + 16 * core + 8) v else s)
/-- CONTROL_SPACE_WRITE (R281, R402). -/
def execControlSpaceWrite (off : Nat) (v : BitVec 64) (s : State) : Host.Outcome State Fault Refusal :=
  .next (if controlWord off ∧ off % 8 = 0 then s.controlStore off v else s)

/-- The device address that an offset of the host's ranges names (R397): an offset of the 1 TiB range; the 1 MiB beyond it stands for
BAR0, which aliases the launch window in the PCIe modes. -/
def PortRec.hostPa (r : PortRec) (off : Nat) : Nat :=
  if 2 ^ 40 ≤ off ∧ 2 ≤ r.mode.toNat then off - 2 ^ 39 else off

/-- HOST_ACCESS (R397): offset off of the host's ranges, a write when data is given. Until step 4 of a cold reset has ended the port
answers with a retry status (R406). -/
def execHostAccess (port off n : Nat) (data : Option Nat) (s : State) : Host.Outcome State Fault Refusal :=
  let r := s.port port
  .next (if r.up ∧ s.keyholder.recovery = false ∧ s.retry = false ∧ (off < 2 ^ 40 ∨ off + n ≤ 2 ^ 40 + 2 ^ 20) then
      s.arrive { src := port, pa := r.hostPa off, n := n, todo := [], got := 0, data := data, atomic := none, flits := flitsOf n data }
    else { s with reply := [] })

/-- PEER_ACCESS (R400): served while ACC is set; otherwise the peer sees 0x0C. In recovery no link is trained (R406). -/
def execPeerAccess (link addr n : Nat) (data : Option Nat) (s : State) : Host.Outcome State Fault Refusal :=
  .next (if (s.link link).up ∧ (s.link link).acc ∧ s.keyholder.recovery = false then
      s.arrive { src := 2 + link, pa := addr, n := n, todo := [], got := 0, data := data, atomic := none, flits := flitsOf n data }
    else { s with reply := [] })

/-- LINK_RETRAIN (R399): at ×4; the link is not down. -/
def execLinkRetrain (link : Nat) (s : State) : Host.Outcome State Fault Refusal :=
  .next (if (s.link link).up then s.setLink link { s.link link with lanes := 4 } else s)

/-- LINK_DOWN (R327): its window is no longer backed. UP is cleared; what GEN, LANES and PEER, or MODE and WIDTH, read afterwards the spec
does not say: they keep what was trained (DESIGN CHOICE, LOG 93). -/
def execLinkDown (host : Bool) (i : Nat) (s : State) : Host.Outcome State Fault Refusal :=
  .next (if host then (s.setPort i { s.port i with up := false }).dropPosted (.host i)
    else (s.setLink i { s.link i with up := false }).dropPosted (.druthes i))

/-- HOST_PORT_TRAINING (R396): a port that cannot train to ×4 stays down. -/
def execHostPortTraining (port mode width : Nat) (s : State) : Host.Outcome State Fault Refusal :=
  .next (if port < 2 ∧ mode < 4 ∧ (width = 4 ∨ width = 8 ∨ width = 16) then
      s.setPort port { s.port port with up := true, mode := BitVec.ofNat 2 mode, width := BitVec.ofNat 5 width }
    else s)

/-- HOST_PORT_HOT_RESET (R407): the port's requests in flight are dropped. -/
def execHostPortHotReset (port : Nat) (s : State) : Host.Outcome State Fault Refusal := .next (s.dropPosted (.host port))

/-- DRUTHES_LINK_TRAINED (R399): at a generation, 1 or 2, and a width, with the number the peer announces; the runtime,
which trains them, does not run in recovery (R406). -/
def execDruthesLinkTrained (link gen lanes peer : Nat) (s : State) : Host.Outcome State Fault Refusal :=
  .next (if s.keyholder.recovery = false ∧ link < 8 ∧ (gen = 1 ∨ gen = 2) ∧ (lanes = 4 ∨ lanes = 8) then
      s.setLink link { s.link link with up := true, gen := decide (gen = 2), lanes := BitVec.ofNat 4 lanes, peer := BitVec.ofNat 8 peer }
    else s)

/-- DRUTHES_FLIT_RETRY (R327): a flit is sent again; only time passes. -/
def execDruthesFlitRetry (_link : Nat) (s : State) : Host.Outcome State Fault Refusal := .next s

/-- MATRIX_SLICE_FAILURE (R360): MAT stays 0 until device reset. -/
def execMatrixSliceFailure (core : Nat) (s : State) : Host.Outcome State Fault Refusal :=
  .next (s.setCore core { s.core core with mat := false })

end Sys2Proof.Machine
end

