-- ==== Sys2Proof/Machine/Mgmt.lean ====
section
/-! DEFINITION. The keyholder, resets and the management interface (R402 to R407), and soft errors (R368, R369). -/

namespace Sys2Proof.Machine

/-- What the model keeps of the world outside the device through a reset. -/
def State.outsideOf (s : State) : State :=
  { State.reset with
    mem := s.mem.filter fun e => decide (2 ^ 39 ≤ e.1)
    now := s.now, eager := s.eager, inputs := s.inputs, brake := s.brake, runtimeTvec := s.runtimeTvec }

/-- The self-test of tiers and cores (R406 step 3): a tier that was not online before passes or fails, and so do a core's matrix slice and
the hinge link above it; the outcome is free (LOG 4). A core of a tier that stays offline has no feature. -/
def State.selfTested (s : State) (online : Nat → Bool) : State :=
  let up := fun (t : Nat) => online t || Config.freeBit s.now 50 t
  let hinge := fun (k : Nat) => up (tierOf k) && up (tierOf k + 1) && Config.freeBit s.now 52 k
  { s with
    tiers := (List.range Config.nTiers).foldl (fun m t =>
      if up t then m else tabSet TierRec.reset m t { tabGet TierRec.reset m t with online := false }) s.tiers
    cores := (List.range Config.nCores).foldl (fun m k =>
      let r := CoreRec.reset k
      let mine := up (tierOf k)
      tabSet r m k { r with
        mat := mine && Config.freeBit s.now 51 k, hup := r.hup && hinge k, hdn := r.hdn && hinge (k - 8), online := mine }) [] }

/-- A cold reset (R406): firmware is verified, the access filter is programmed and the measurements are recorded; cores are tested; cells
are zeros. Until this fill ends, the ports answer with a retry status. No QTOKEN is set. A device whose firmware fails stays in recovery,
with the control cores not released and the filter closed. -/
def State.coldStart (s : State) (patch runtime : Image) : State :=
  let k := s.keyholder
  let good := imageAccepted patch 1 k.minPatch.toNat && imageAccepted runtime 2 k.minRuntime.toNat
  let k' : Keyholder := { Keyholder.reset with minPatch := k.minPatch, minRuntime := k.minRuntime }
  if good then
    let t := s.outsideOf.selfTested fun _ => false
    { t with
      retry := true
      keyholder := ({ k' with patch := some patch, runtime := some runtime, reported := some runtime } : Keyholder).record [1, 2, 3, 4, 5] }
  else { s.outsideOf with keyholder := { k' with filter := .closed, recovery := true } }

/-- A tier keeps its cells through a device reset when it was online (R407). -/
def State.keeps (s : State) (loc : Nat) : Bool := decide (2 ^ 39 ≤ loc) || (s.tier (tierOfLoc loc)).online

/-- A device reset (R407): contexts, launches, copies and detents end; DRAM keeps content and poison; offlined tiers are tested again, and
one that returns online starts with zeros. A runtime that waits to be released counts as released by it, since the runtime starts anew: the
spec does not say (DESIGN CHOICE, LOG 102). -/
def State.deviceStart (s : State) : State :=
  let t : State := { s.outsideOf with
    tiers := (s.tiers.map fun e => (e.1, { TierRec.reset with temp := e.2.temp })).filter fun e => decide (e.2 ≠ TierRec.reset) }
  let u := t.selfTested fun i => (s.tier i).online
  { u with
    mem := s.mem.filter fun e => s.keeps e.1
    marks := s.marks.filter fun e => s.keeps (32 * e.1)
    keyholder := s.keyholder.release }

/-- COLD_RESET (R406). -/
def execColdReset (patch runtime : Image) (s : State) : Host.Outcome State Fault Refusal := .next (s.coldStart patch runtime)

/-- DEVICE_RESET (R405, R407): only inside a session. -/
def execDeviceReset (session : Bool) (s : State) : Host.Outcome State Fault Refusal :=
  .next (if session ∧ s.keyholder.recovery = false then s.deviceStart else s)

/-- SPDM_MESSAGE (R404). -/
def execSpdmMessage (index : Nat) (s : State) : Host.Outcome State Fault Refusal :=
  .next { s with reply := s.keyholder.answer s.now index }

/-- An offset of the tier, core or stack tables (R405). -/
def tableOffset (off : Nat) : Bool :=
  decide ((0x30000 ≤ off ∧ off < 0x34000) ∨ (0x40000 ≤ off ∧ off < 0x40800) ∨ (0x50000 ≤ off ∧ off < 0x50200))

/-- MGMT_READ_TABLES (R405). How much one read returns the spec does not say: the model answers with the aligned 8-byte word that holds the
offset (DESIGN CHOICE, LOG 104). -/
def execMgmtReadTables (off : Nat) (s : State) : Host.Outcome State Fault Refusal :=
  .next (if tableOffset off ∧ s.keyholder.recovery = false then { s with reply := bytesOf 8 (s.readControl (off / 8 * 8)) }
    else { s with reply := [] })

/-- MGMT_WRITE_PBUDGET (R405). -/
def execMgmtWritePbudget (session : Bool) (v : BitVec 64) (s : State) : Host.Outcome State Fault Refusal :=
  .next (if session ∧ s.keyholder.recovery = false then s.storeControl 0x50200 v else s)

/-- MGMT_WRITE_OFFREQ (R405). -/
def execMgmtWriteOffreq (session : Bool) (tier : Nat) (s : State) : Host.Outcome State Fault Refusal :=
  .next (if session ∧ s.keyholder.recovery = false then s.offlineTier tier else s)

/-- MGMT_LOAD_IMAGE (R403, R404): a runtime restarts the control cores, and launch acceptance pauses until they are released. What becomes of
a device in recovery that takes an image (R406) the spec does not say: the image is kept, and the device stays in recovery until a cold
reset (DESIGN CHOICE, LOG 103). -/
def execMgmtLoadImage (session : Bool) (img : Image) (s : State) : Host.Outcome State Fault Refusal :=
  let k := s.keyholder
  .next (if session = false then s
    else if imageAccepted img 1 k.minPatch.toNat then { s with keyholder := ({ k with patch := some img } : Keyholder).record [2] }
    else if imageAccepted img 2 k.minRuntime.toNat then { s with keyholder := { k with runtime := some img, paused := true } }
    else s)

/-- What the access filter protects (R402). -/
def protectedTargets : List FilterTarget := [.keyholder, .fuses, .patch, .itself, .log]

/-- ACCESS_FILTER_DENIAL (R402): a control core reaches for something protected; which is free. The access does not complete, and is
counted. -/
def execAccessFilterDenial (s : State) : Host.Outcome State Fault Refusal :=
  .next (s.controlCore (protectedTargets.getD (Config.freePick s.now 54 0 % 5) .keyholder) id)

/-! Soft errors. -/

/-- CE or UE of a tier counts, saturating (R370). -/
def TierRec.count (r : TierRec) (corrected : Bool) : TierRec :=
  if corrected then r.correct 1
  else { r with ue := if r.ue = BitVec.allOnes 16 then r.ue else r.ue + 1, ueSeen := r.ueSeen + 1 }

def State.countError (s : State) (tier : Nat) (corrected : Bool) : State := s.setTier tier ((s.tier tier).count corrected)

/-- A tier with 256 uncorrectable events is offlined when they fell within one second, which is free here (R371, LOG 80). -/
def State.tooManyErrors (s : State) (tier : Nat) : State :=
  if 256 ≤ (s.tier tier).ueSeen ∧ Config.freeBit s.now 26 tier then s.offlineTier tier else s

/-- Both lane words of 64-bit word w of a register are marked 0x0D (R369). -/
def RowReg.strike (r : RowReg) (w : Nat) : RowReg :=
  { r with fm := r.fm ||| BitVec.ofNat 16384 (3 * 2 ^ (2 * w)), fmc := if r.fm = 0 then 0x0D else r.fmc }
def KeepRow.strike (r : KeepRow) (w : Nat) : KeepRow :=
  { r with fm := r.fm ||| BitVec.ofNat 2048 (3 * 2 ^ (2 * w)), fmc := if r.fm = 0 then 0x0D else r.fmc }

/-- A soft error strikes (R368, R369). One that a read corrects stays in the cells until their sector is written, and each read counts it; in a
register it is counted at once, for the read, and gone (LOG 80; DEDUCED, LOG 90). -/
def State.softError (s : State) (site : ErrorSite) (corrected : Bool) : State :=
  let onCtx := fun (id : Nat) (f : Context → Context) => match s.findCtx id with
    | none => s
    | some c =>
      let s1 := s.countError (tierOf c.core) corrected
      if corrected then s1 else (s1.updCtx id f).tooManyErrors (tierOf c.core)
  match site with
  | .cell loc =>
    if loc < 2 ^ 39 then
      if corrected then
        if tabGet SectorMark.clean s.marks (loc / 32) = .clean then { s with marks := tabPut s.marks (loc / 32) .latent } else s
      else
        let s1 := s.countError (tierOfLoc loc) false
        { s1 with marks := tabPut s1.marks (loc / 32) .poisoned }.tooManyErrors (tierOfLoc loc)
    else s
  | .latch id j n w => onCtx id fun c =>
      let b := c.bank j
      if (b.row n).st = .closed then c else c.setBank j (b.setRow n ((b.row n).strike w))
  | .keep id j n w => onCtx id fun c =>
      let b := c.bank j
      match b.bound n with
      | none => c
      | some r => c.setBank j (b.setPool r ((b.poolRow r).strike w))
  | .scalar id i => onCtx id fun c => { c with bad := tabPut c.bad (i % 256) true }
  | .control id i => onCtx id fun c => { c with bad := tabPut c.bad (256 + i % 128) true }
  | .pred id j p w => onCtx id fun c => { c with bad := tabPut c.bad (512 + 2048 * (j % 16) + 256 * (p % 8) + w % 256) true }

end Sys2Proof.Machine
end

