-- ==== Sys2Proof/Machine/Engine.lean ====
section
/-! DEFINITION. What happens between instructions: asynchronous entries and fetch (R38, R44, R75, R212, R272), the engines' own
progress, the choice of the next stream (R344), and what the outside world supplies. -/

namespace Sys2Proof.Machine

/-! Entries at a boundary. -/

/-- The running sub-gang holds the lowest bank still in the stream (R212). -/
def Context.isLowest (c : Context) : Bool := match c.sib with
  | none => true
  | some b => decide (lowBank c.gmBanks < lowBank b.banks)

/-- The lowest slot with a pending copy fault (R248). -/
def Context.faultedSlot (c : Context) : Option Nat := (List.range 16).find? fun n => c.pend11.getLsbD n

/-- TVAL of 0x11 (R248). -/
def State.copyFaultVal (s : State) (n : Nat) : Word :=
  let q := s.slot s.ctx.core n
  BitVec.ofNat 64 (q.faultVa % 2 ^ 56 + n * 2 ^ 56 + boolNat q.faultSrc * 2 ^ 60)

/-- The banks of the running sub-gang with DEBT at or above TH, as a mask (R157). -/
def State.lateMask (s : State) : Nat := (s.lateBanks s.ctx s.ctx.gmBanks).foldl (fun m j => m + 2 ^ j) 0

/-- An asynchronous cause the running sub-gang takes now, with its TVAL, BANK and the context after its withdrawal (R44, R367). A held 0x10
for which no bank of the gang is late any more gives the lowest bank and an empty mask (DESIGN CHOICE, LOG 96). -/
def State.asyncCause (s : State) : Option (Nat × Word × Nat × Context) :=
  let c := s.ctx
  if c.ad then none
  else match (if c.isLowest then c.pend30 else none) with
  | some v => some (0x30, v, lowBank c.gmBanks, { c with pend30 := none })
  | none =>
    if c.pend10 then
      let late := s.lateBanks c c.gmBanks
      some (0x10, BitVec.ofNat 64 s.lateMask, late.headD (lowBank c.gmBanks), { c with pend10 := false })
    else match (if c.isLowest then c.faultedSlot else none) with
      | some n => some (0x11, s.copyFaultVal n, lowBank c.gmBanks, c.withdraw n)
      | none => none

/-- A parked sibling takes a cause of its own: it becomes the running sub-gang, at its GJOIN (R212). -/
def State.turned (s : State) : State :=
  match s.ctx.sib with
  | some b =>
    let t := s.withCtx s.ctx.swap
    if b.parked && !s.ctx.sibHeld && s.asyncCause.isNone && t.asyncCause.isSome then t else s
  | none => s

/-- ASYNC_TRAP_ENTRY (R38, R43): the trap of a marked MMF operand (R272) first, then the pending causes. TCAUSE.BANK of the former is
the lowest bank of the sub-gang that runs, which after a GSPLIT need not be the matrix bank that TVAL names (DESIGN CHOICE, LOG 82). -/
def execAsyncTrapEntry (s : State) : Host.Outcome State Fault Refusal :=
  match s.ctx.markTrap with
  | some (k, v) => .next ((s.withCtx { s.ctx with markTrap := none }).takeTrap k.toNat v none)
  | none =>
    let t := s.turned
    match t.asyncCause with
    | some (k, v, j, c) => .next ((t.withCtx c).takeTrap k v (some j))
    | none => .next s

/-- The word has the code of BRK (R70): major 0x1E, fn 6, B = 4. -/
def isBreakWord (w : BitVec 32) : Bool := decide (w.toNat / 2 ^ 23 = 0x1E * 8 + 6 ∧ w.toNat % 128 = 4)

/-- ILLEGAL_INSTRUCTION (R73): TVAL is the word, zero-extended. A BRK comes before the check of reserved bits (R44, R73). -/
def execIllegalInstruction (w : BitVec 32) (s : State) : Host.Outcome State Fault Refusal :=
  if isBreakWord w then execBrk s else s.finish (trapS 0x01 (w.setWidth 64))

/-- INSTRUCTION_FETCH_FAULT (R75): the trap of the fetch at the pc. -/
def execInstructionFetchFault (s : State) : Host.Outcome State Fault Refusal :=
  match s.fetchWord s.ctx.pc with
  | .error e => s.finish (.error e)
  | .ok _ => .next s

/-- A forced refresh slot holds the lanes of a bank, and with them those of a cross-bank instruction that runs in several, and of the
banks that go on in lockstep with it (R32, R158). -/
def State.lanesHeld (s : State) (bank : Nat) : Bool :=
  let due := fun (j : Nat) => decide (tabGet 0 (s.core s.ctx.core).debt j = 8)
  (s.ctx.lockstep bank).any fun j => due j || match s.ctx.nextReady [] (s.ctx.bank j).slots with
    | some (_, q) => (match slotForm q.instr with
      | some f => f.cross && (s.ctx.crossBanks q).any due
      | none => false)
    | none => false

/-- ELEMENT_GROUP (R165): the lanes of a bank process a group, and under SLIP 0 those of the banks level with it in the same cycle,
unless SLIP (R32) or a forced refresh slot (R158) stops them. -/
def execElementGroup (bank : Nat) (s : State) : Host.Outcome State Fault Refusal :=
  .next (if s.ctx.slipBound bank || s.lanesHeld bank then s
    else s.withCtx ((s.ctx.lockstep bank).foldl (fun c j => c.laneStep s.now j) s.ctx))

/-! The engines. -/

/-- The lanes of every resident stream finish what is in their slots, behind the forced slots of their banks (R158). -/
def State.runLanes (s : State) : State :=
  let t := s.allCtxs.foldl (fun t c =>
    if c.resident then ((bankList c.allBanks).filter fun j => decide ((c.bank j).slots ≠ [])).foldl (fun t j => t.forceSlot c.core j) t else t) s
  t.mapCtxs fun c => if c.resident then c.drain t.now (bankList c.allBanks) else c

/-- A bank in no resident gang performs every slot it owes (R156). -/
def State.selfRefreshes (s : State) (core j : Nat) : State :=
  if (s.bankOwner core j).isNone then s.setCore core ((s.core core).refreshes j (tabGet 0 (s.core core).debt j)) else s

/-- Refresh: forced slots, those REF has asked for, and those of banks that no stream holds (R155, R156, R158). -/
def State.runRefresh (s : State) : State :=
  s.cores.foldl (fun s e =>
    let t := (e.2.debt.filter fun d => decide (d.2 = 8)).foldl (fun s d => s.forceSlot e.1 d.1) s
    let u := t.serveRefs e.1 (e.2.refReq.map Prod.fst)
    (e.2.debt.map Prod.fst).foldl (fun s j => s.selfRefreshes e.1 j) u) s

/-- Every copy unit takes its turns of reading and of landing, up to an element of 8 KiB for each slot; records are expanded, and detents
follow (R239 to R241, R313, R317, R318, R323). -/
def State.runCopies (s : State) : State :=
  let s0 := s.cores.foldl (fun s e => s.readTurns e.1 (32 * e.2.slots.length)) s
  let s1 := s0.allSlots.foldl (fun s q => s.expand q.1 q.2.1) s0
  let s2 := s1.cores.foldl (fun s e => s.copyTurns e.1 (32 * e.2.slots.length)) s1
  s2.allSlots.foldl (fun s q => (q.2.2.cores.foldl (fun s k => s.passWm q.1 q.2.1 k) s).freeDetents q.1 q.2.1) s2

/-- The slices: crews, some groups of their own chunks and of those they have received, some rows of the chain from the top down,
completions (R262 to R267). How many
groups and rows a step holds is open (LOG 18). -/
def State.runFolds (s : State) : State :=
  let ks := (s.cores.filter fun e => e.2.slice.isSome).map Prod.fst
  let s1 := ks.foldl (fun s k => s.formCrew k) s
  let s2 := s1.mapCtxs fun c => if c.resident then c.ownChunk s.now (Config.freePick s.now 41 c.id + 1) else c
  let s3 := ks.reverse.foldl (fun s k => if s.chunkDone k then (s.relayRows k (Config.freePick s.now 44 k + 1)).releaseRows k (Config.freePick s.now 42 k % 64 + 1) else s) s2
  ks.foldl (fun s k => if s.chunkDone k then (s.relayRows k (Config.freePick s.now 44 k + 1)).completeRows k (Config.freePick s.now 43 k % 64 + 1) else s) s3

/-- The launch unit, the debug queues and the hub schedulers (R330 to R343, R373). -/
def State.runLaunches (s : State) : State :=
  let s1 := s.queues.foldl (fun s e =>
    (List.range 9).foldl (fun s i => s.packet e.1 (i + 1)) (s.monitor e.1)) s
  let s2 := s1.launches.foldl (fun s e => s.readHead e.1) s1
  let s3 := s2.dispatch.schedule walkFuel
  s3.launches.foldl (fun s e => s.complete e.1) s3

/-- Halts that are due (R377). -/
def State.runHalts (s : State) : State :=
  let s1 := (s.allCtxs.filter fun c => c.haltReq.isSome).foldl (fun t c => ((t.focus c.id).haltPoint).focus s.ctx.id) s
  if s1.halts = [] then s1 else s1.answerHalts

/-- An engine has something to do. -/
def State.busy (s : State) : Bool :=
  !(s.cores.all fun e => e.2.slots.isEmpty && e.2.refReq.isEmpty && e.2.slice.isNone && e.2.debt.isEmpty) ||
    !s.posted.isEmpty || !s.traces.isEmpty || !s.pokes.isEmpty || !s.externals.isEmpty || (s.tiers.any fun e => decide (105 < e.2.temp)) || !s.queues.isEmpty || !s.launches.isEmpty || !s.halts.isEmpty ||
    (s.others.any fun e => e.2.stall || e.2.sib.any Sibling.stall) || s.ctx.sib.any Sibling.stall ||
    s.allCtxs.any fun c => c.haltReq.isSome || c.leaving || decide (c.place = .away) || c.banks.any fun b => !b.2.slots.isEmpty

/-- An engine gets its turn beside an instruction, or not: the spec fixes no pace (LOG 1). -/
def State.perhaps (s : State) (k : Nat) (f : State → State) : State := if Config.freeBit s.now 20 k then f s else s

/-- Posted stores, stores to blocks of saved contexts and trace records that wait (R214, R243, R292, R381). -/
def State.runStores (s : State) : State := ((s.sendWaiting.storesHome s.posted.length).flushPokes).flushTraces

/-- Progress of the engines beside a running stream; what waits may be tried again. -/
def State.beside (s : State) : State :=
  if s.busy then
    ((((((((((s.perhaps 1 State.runRefresh).perhaps 0 State.runLanes).perhaps 2 State.runStores).perhaps 3
      State.runCopies).perhaps 7 State.runEndpoints).perhaps 4 State.runFolds).perhaps 8 State.giveWays).perhaps 5 State.runLaunches).perhaps 6
        State.runHalts).perhaps 9 State.restarted).finishT3.finishLeaving
  else s

/-- Progress of the engines while no stream can issue; every wait is then tried again. The fill of a cold reset ends (R406). -/
def State.background (s0 : State) : State :=
  let s := { s0 with retry := false }
  let t := if s.busy then
      (((((s.runRefresh.runLanes.runStores.runCopies.runEndpoints).runFolds).giveWays).runLaunches).runHalts).finishT3.finishLeaving
    else s
  t.mapCtxs fun c => ((c.restart s.now).wakeIf s.now fun _ => true).unyield s.now

/-! The choice of the next stream. -/

/-- The stream is to stop at this boundary: a HALT or STEP has reached its point (R377), or a pre-emption waits (R352). -/
def Context.stopDue (c : Context) : Bool :=
  c.leaving || decide (c.haltReq = some 1 ∨ c.haltReq = some 3 ∨ c.haltReq = some 4)

/-- The running sub-gang of a stream can be offered to the selector (R344): one that is to stop only while its own TLBINV is waited out
(R352). -/
def Context.runnable (c : Context) : Bool :=
  c.resident && !c.stall && c.parked.isNone && !c.yielding && !c.pheld && (c.inv || !c.stopDue)

/-- A trap of a marked operand or an asynchronous cause is due at this boundary (R43, R272, R367); a TLBINV is waited out (R352), and
a stop that has reached its point comes first (R377: a halt at a strip start stands at SBEG + 4). The entry strikes a wait (R246,
R127). -/
def State.entryDue (s : State) : Bool :=
  s.ctx.resident && !s.ctx.pheld && !s.ctx.stopDue && (s.ctx.markTrap.isSome || s.turned.asyncCause.isSome) && !s.ctx.invalidating

/-- An older request of the stream's other sub-gang waits for a slot (R292). -/
def State.sibUnsent (s : State) : Bool := s.ctx.sib.any fun b => b.asking.any fun r =>
  !r.held && decide (r.at_ < s.askedAt) && !s.slotFreeTo s.ctx.core r.at_ r.dest

/-- The running sub-gang of the running stream can issue, or take an entry: no request of the stream waits for a slot (R292). -/
def State.canIssue (s : State) : Bool := s.entryDue || (s.ctx.runnable && !s.unsent s.ctx.id && !s.sibUnsent)

/-- A word of a bank-class code (R83). -/
def bankClassWord (w : BitVec 32) : Bool :=
  let m := w.toNat / 2 ^ 26
  decide ((0x08 ≤ m ∧ m ≤ 0x0F) ∨ m = 0x12 ∨ (0x14 ≤ m ∧ m ≤ 0x1A) ∨ m = 0x36) ||
    (decide (m = 0x35) && match decode w with
      | some (.vcfg _) | some (.vshape _ _) | some (.vshapeImm _ _) => true
      | _ => false)

/-- The next instruction of the running stream is of the bank class (R344). -/
def State.nextIsBank (s : State) : Bool :=
  !s.entryDue && match s.fetchWord s.ctx.pc with
    | .ok w => bankClassWord (BitVec.ofNat 32 w)
    | .error _ => false

/-- A split stream's sub-gangs as the turn of a class offers them (R208, R344): false stands for the one with the lowest bank. -/
def Context.inTurn (c : Context) (turn : Bool) : List Context := match c.sib with
  | none => [c]
  | some b =>
    if b.parked || c.sibHeld then [c]
    else if decide (lowBank c.gmBanks < lowBank b.banks) ≠ turn then [c, c.swap] else [c.swap, c]

/-- The candidate of a stream in a class (R344): the sub-gang whose turn it is, or else its sibling, with its next instruction ready. -/
def State.candidate (s : State) (bank : Bool) (c : Context) : Option Context :=
  (c.inTurn (if bank then c.turnBank else c.turnScalar)).find? fun x =>
    let t := s.withCtx x
    t.canIssue && decide (t.nextIsBank = bank)

/-- A candidate has waited 256 cycles, counted as steps (R344, LOG 26). -/
def State.urgent (s : State) (c : Context) : Bool := decide (256 ≤ s.now - c.since)

/-- The rank of a candidate (R344): since, then the stream number after the one picked last in the class. -/
def State.turnRank (s : State) (bank : Bool) (c : Context) : Nat :=
  let r := s.core c.core
  c.since * 16 + (c.num + 15 - (if bank then r.lastBank else r.lastPick)) % 16

/-- What a core's sequencer picks in a class (R344). -/
def State.pick (s : State) (core : Nat) (bank : Bool) : Option Context :=
  let cs := (s.residents core).filterMap (s.candidate bank)
  let late := cs.filter s.urgent
  let top := cs.foldl (fun p c => max p c.prio) 0
  lowestBy (s.turnRank bank) (if late = [] then cs.filter fun c => decide (c.prio = top) else late)

/-- The next stream to issue, its sub-gang that issues as the running one: of what the cores pick, the one ready longest (LOG 26). -/
def State.nextTurn (s : State) : Option Context :=
  let ks := ((s.allCtxs.filter Context.resident).map Context.core).eraseDups
  lowestBy Context.since (ks.flatMap fun k => (s.pick k false).toList ++ (s.pick k true).toList)

/-- Streams that have ended leave the list. -/
def State.swept (s : State) : State :=
  if s.others.any fun e => decide (e.2.place = .ended) then
    { s with others := s.others.filter fun e => decide (e.2.place ≠ .ended) }
  else s

/-- The next stream comes to the front, with the sub-gang that issues. -/
def State.turn (s : State) : State :=
  if s.others.isEmpty && s.ctx.sib.isNone then s
  else
    let t := s.swept
    match t.nextTurn with
    | some c => (if c.id = t.ctx.id then t else t.focus c.id).withCtx c
    | none => t

/-- The running stream has just entered its handler. -/
def Context.entered (c before : Context) : Bool :=
  decide (c.pc = before.tvec.setWidth 64 ∧ c.tpc = before.pc.setWidth 56 ∧ c.sup ∧ c.ad)

/-- The issue of an instruction of a class by the running stream (R344): the next one is ready from now on, the core notes its pick, and
a step is over (R377). A trap entry is no issue; an attempt that had to wait was not ready, and an asynchronous entry is no instruction:
neither is a pick. A member that has halted stops the relay of its chunk, as a pre-empted one does (R264). -/
def State.issuedBy (s : State) (bank : Bool) (before : Context) : State :=
  let c := s.ctx
  if c.id = before.id ∧ c.resident then
    let waits := c.stall || c.parked.isSome
    let entered := c.entered before
    let other := c.sib.isSome && before.sib.isSome && decide (c.gmBanks ≠ before.gmBanks)
    let c1 := { c with
      since := if waits || other then c.since else s.now
      stepOnce := c.stepOnce && (waits || entered)
      haltReq := if c.stepOnce && !(waits || entered) then some 3 else c.haltReq }
    let s1 := s.withCtx c1
    let r := s1.core c.core
    if c.stall ∨ (entered ∧ c.tcause.getLsbD 12) ∨ c.num = (if bank then r.lastBank else r.lastPick) then s1
    else s1.setCore c.core (if bank then { r with lastBank := c.num } else { r with lastPick := c.num })
  else if c.id = before.id then s.stopRelay before
  else s

/-- A step is over. -/
def State.tock (s : State) : State := { s with now := s.now + 1 }

/-- The turn of each class passes to the other sub-gang of a split stream, whichever issued (R208, R344). -/
def State.passTurns (s : State) : State :=
  s.mapCtxs fun c => if c.resident && c.sib.isSome then { c with turnBank := !c.turnBank, turnScalar := !c.turnScalar } else c

/-- What follows an instruction of a class, of the stream that was running (R344). -/
def State.settle (s : State) (bank : Bool) (before : Context) : State := ((((s.issuedBy bank before).beside).passTurns).turn).tock

/-! What a step does. -/

/-- What the running stream does next: an entry, a fault of its fetch, an undefined word, or the instruction at its pc; nothing
while it cannot issue. -/
def State.nextInstr (s : State) : Option Instr :=
  if s.canIssue then
    if s.entryDue then some .asyncTrapEntry
    else match s.fetchWord s.ctx.pc with
      | .error .wait => none
      | .error (.trap _ _ _) => some .instructionFetchFault
      | .ok w => match decode (BitVec.ofNat 32 w) with
        | none => some (.illegalInstruction (BitVec.ofNat 32 w))
        | some i => some i
  else none

/-- The outside world acts on the state (an event of the table is left to the step). -/
def State.supplied (s : State) : Input → State
  | .event _ => s
  | .outside pa n v => match spaceOf pa with
    | .host _ | .druthes _ => s.writeCells pa n v
    | _ => s
  | .lanes e => { s with eager := e }
  | .softError site k => s.softError site k
  | .control pa n data => s.controlReach pa n data
  | .config port => s.configRequest port
  | .turn id => match s.findCtx id with
    | some c => match ((s.pick c.core false).toList ++ (s.pick c.core true).toList).find? fun x => decide (x.id = id) with
      | some x => (s.focus id).withCtx x
      | none => s
    | none => s

/-- What still happens while the device is held in reset (R401): resets, the keyholder's management, and the memory of others. -/
def Input.reachesHeld : Input → Bool
  | .event (.coldReset _ _) => true
  | .event (.deviceReset _) => true
  | .event (.spdmMessage _) => true
  | .event (.mgmtReadTables _) => true
  | .event (.mgmtLoadImage _ _) => true
  | .outside _ _ _ => true
  | _ => false

/-- The device is held in reset and what is supplied next does not reach it there. -/
def State.stopped (s : State) : Bool := s.held && !((s.inputs.head?.map Input.reachesHeld).getD false)

/-- A step in which no stream issues: the engines go on, and the turn passes. -/
def State.idle (s : State) : State := s.background.passTurns.turn.tock

end Sys2Proof.Machine
end

