-- ==== Sys2Proof/Machine/ScalarFp.lean ====
section
/-! DEFINITION. Scalar floating-point instructions (R103 to R107). -/

namespace Sys2Proof.Machine

/-- A two-operand code of major 0x06 or 0x07 (R104). -/
def floatBinary (op : ScalarFp) (f : Fmt) (d a b : NameF) (s : State) : Host.Outcome State Fault Refusal :=
  floatOp d a s [(clsS, b)] (if op = .fma then [d, a, b] else [a, b]) fun c =>
    op.eval f (RMode.ofBits c.rm.toNat) c.fz (c.read a) (c.read b) (c.read d)

/-- The format a one-operand code selects (R77). -/
def fmtOf (dbl : Bool) : Fmt := if dbl then .f64 else .f32

/-- FADD.s (R104). -/
def execFaddS (d a b : NameF) (s : State) : Host.Outcome State Fault Refusal := floatBinary .add .f32 d a b s

/-- FSUB.s (R104). -/
def execFsubS (d a b : NameF) (s : State) : Host.Outcome State Fault Refusal := floatBinary .sub .f32 d a b s

/-- FMUL.s (R104). -/
def execFmulS (d a b : NameF) (s : State) : Host.Outcome State Fault Refusal := floatBinary .mul .f32 d a b s

/-- FDIV.s (R104). -/
def execFdivS (d a b : NameF) (s : State) : Host.Outcome State Fault Refusal := floatBinary .div .f32 d a b s

/-- FMIN.s (R104). -/
def execFminS (d a b : NameF) (s : State) : Host.Outcome State Fault Refusal := floatBinary .min .f32 d a b s

/-- FMAX.s (R104). -/
def execFmaxS (d a b : NameF) (s : State) : Host.Outcome State Fault Refusal := floatBinary .max .f32 d a b s

/-- FCMP.s (R104). -/
def execFcmpS (d a b : NameF) (s : State) : Host.Outcome State Fault Refusal := floatBinary .cmp .f32 d a b s

/-- FFMA.s (R104). -/
def execFfmaS (d a b : NameF) (s : State) : Host.Outcome State Fault Refusal := floatBinary .fma .f32 d a b s

/-- FADD.d (R104). -/
def execFaddD (d a b : NameF) (s : State) : Host.Outcome State Fault Refusal := floatBinary .add .f64 d a b s

/-- FSUB.d (R104). -/
def execFsubD (d a b : NameF) (s : State) : Host.Outcome State Fault Refusal := floatBinary .sub .f64 d a b s

/-- FMUL.d (R104). -/
def execFmulD (d a b : NameF) (s : State) : Host.Outcome State Fault Refusal := floatBinary .mul .f64 d a b s

/-- FDIV.d (R104). -/
def execFdivD (d a b : NameF) (s : State) : Host.Outcome State Fault Refusal := floatBinary .div .f64 d a b s

/-- FMIN.d (R104). -/
def execFminD (d a b : NameF) (s : State) : Host.Outcome State Fault Refusal := floatBinary .min .f64 d a b s

/-- FMAX.d (R104). -/
def execFmaxD (d a b : NameF) (s : State) : Host.Outcome State Fault Refusal := floatBinary .max .f64 d a b s

/-- FCMP.d (R104). -/
def execFcmpD (d a b : NameF) (s : State) : Host.Outcome State Fault Refusal := floatBinary .cmp .f64 d a b s

/-- FFMA.d (R104). -/
def execFfmaD (d a b : NameF) (s : State) : Host.Outcome State Fault Refusal := floatBinary .fma .f64 d a b s

/-- FSQRT (R106). -/
def execFsqrt (d a : NameF) (dbl : Bool) (s : State) : Host.Outcome State Fault Refusal :=
  floatOp d a s [] [a] fun c => sqrtScalar (fmtOf dbl) (RMode.ofBits c.rm.toNat) c.fz (c.read a)

/-- FRSQE (R106). -/
def execFrsqe (d a : NameF) (dbl : Bool) (s : State) : Host.Outcome State Fault Refusal :=
  floatOp d a s [] [a] fun c => rsqeScalar (fmtOf dbl) c.fz (c.read a)

/-- FRCPE (R106). -/
def execFrcpe (d a : NameF) (dbl : Bool) (s : State) : Host.Outcome State Fault Refusal :=
  floatOp d a s [] [a] fun c => rcpeScalar (fmtOf dbl) c.fz (c.read a)

/-- FCLASS (R106, R107). -/
def execFclass (d a : NameF) (dbl : Bool) (s : State) : Host.Outcome State Fault Refusal :=
  unaryOp d a s fun a => classScalar (fmtOf dbl) a

/-- FCVT (R106). -/
def execFcvt (d a : NameF) (sel : BitVec 4) (s : State) : Host.Outcome State Fault Refusal :=
  floatOp d a s [] [a] fun c => convertScalar sel.toNat (RMode.ofBits c.rm.toNat) c.fz (c.read a)

end Sys2Proof.Machine
end

