-- ==== Sys2Proof/Machine/ScalarInt.lean ====
section
/-! DEFINITION. Scalar integer instructions (R97 to R102). -/

namespace Sys2Proof.Machine

/-- a with byte i moved to byte 7 - i (R99). -/
def byteSwap (a : Word) : Word :=
  BitVec.ofNat 64 ((List.range 8).foldl (fun acc i => acc + bitsOf a (8 * i) 8 * 2 ^ (8 * (7 - i))) 0)

/-- Position and width of the field BFX and BFI act on (R100). -/
def fieldPos (b : Word) : Nat := b.toNat % 64
def fieldLen (b : Word) : Nat := min (min (bitsOf b 8 7) 64) (64 - fieldPos b)

/-- BFX (R100). -/
def extractField (a b : Word) : Word := BitVec.ofNat 64 (bitsOf a (fieldPos b) (fieldLen b))

/-- BFI (R100). -/
def insertField (d a b : Word) : Word := putBits d (fieldPos b) (fieldLen b) a.toNat

/-- ADD (R99). -/
def execAdd (d a b : NameF) (s : State) : Host.Outcome State Fault Refusal :=
  binaryOp d a b s fun a b => a + b

/-- SUB (R99). -/
def execSub (d a b : NameF) (s : State) : Host.Outcome State Fault Refusal :=
  binaryOp d a b s fun a b => a - b

/-- AND (R99). -/
def execAnd (d a b : NameF) (s : State) : Host.Outcome State Fault Refusal :=
  binaryOp d a b s fun a b => a &&& b

/-- OR (R99). -/
def execOr (d a b : NameF) (s : State) : Host.Outcome State Fault Refusal :=
  binaryOp d a b s fun a b => a ||| b

/-- XOR (R99). -/
def execXor (d a b : NameF) (s : State) : Host.Outcome State Fault Refusal :=
  binaryOp d a b s fun a b => a ^^^ b

/-- ANDN (R99). -/
def execAndn (d a b : NameF) (s : State) : Host.Outcome State Fault Refusal :=
  binaryOp d a b s fun a b => a &&& ~~~b

/-- SHL (R99). -/
def execShl (d a b : NameF) (s : State) : Host.Outcome State Fault Refusal :=
  binaryOp d a b s fun a b => a <<< (b.toNat % 64)

/-- SHR (R99). -/
def execShr (d a b : NameF) (s : State) : Host.Outcome State Fault Refusal :=
  binaryOp d a b s fun a b => a >>> (b.toNat % 64)

/-- SAR (R99). -/
def execSar (d a b : NameF) (s : State) : Host.Outcome State Fault Refusal :=
  binaryOp d a b s fun a b => a.sshiftRight (b.toNat % 64)

/-- ROL (R99). -/
def execRol (d a b : NameF) (s : State) : Host.Outcome State Fault Refusal :=
  binaryOp d a b s fun a b => a.rotateLeft (b.toNat % 64)

/-- MUL (R99). -/
def execMul (d a b : NameF) (s : State) : Host.Outcome State Fault Refusal :=
  binaryOp d a b s fun a b => a * b

/-- MULHS (R99). -/
def execMulhs (d a b : NameF) (s : State) : Host.Outcome State Fault Refusal :=
  binaryOp d a b s fun a b => BitVec.ofInt 64 (a.toInt * b.toInt / 2 ^ 64)

/-- MULHN (R99). -/
def execMulhn (d a b : NameF) (s : State) : Host.Outcome State Fault Refusal :=
  binaryOp d a b s fun a b => BitVec.ofNat 64 (a.toNat * b.toNat / 2 ^ 64)

/-- DIVS (R99). -/
def execDivs (d a b : NameF) (s : State) : Host.Outcome State Fault Refusal :=
  binaryOp d a b s fun a b => BitVec.ofInt 64 (divSigned a.toInt b.toInt)

/-- DIVN (R99). -/
def execDivn (d a b : NameF) (s : State) : Host.Outcome State Fault Refusal :=
  binaryOp d a b s fun a b => BitVec.ofNat 64 (divUnsigned 64 a.toNat b.toNat)

/-- REMS (R99). -/
def execRems (d a b : NameF) (s : State) : Host.Outcome State Fault Refusal :=
  binaryOp d a b s fun a b => BitVec.ofInt 64 (remSigned a.toInt b.toInt)

/-- REMN (R99). -/
def execRemn (d a b : NameF) (s : State) : Host.Outcome State Fault Refusal :=
  binaryOp d a b s fun a b => BitVec.ofNat 64 (remUnsigned a.toNat b.toNat)

/-- MINS (R99). -/
def execMins (d a b : NameF) (s : State) : Host.Outcome State Fault Refusal :=
  binaryOp d a b s fun a b => if a.toInt ≤ b.toInt then a else b

/-- MAXS (R99). -/
def execMaxs (d a b : NameF) (s : State) : Host.Outcome State Fault Refusal :=
  binaryOp d a b s fun a b => if a.toInt ≤ b.toInt then b else a

/-- MINN (R99). -/
def execMinn (d a b : NameF) (s : State) : Host.Outcome State Fault Refusal :=
  binaryOp d a b s fun a b => if a.toNat ≤ b.toNat then a else b

/-- MAXN (R99). -/
def execMaxn (d a b : NameF) (s : State) : Host.Outcome State Fault Refusal :=
  binaryOp d a b s fun a b => if a.toNat ≤ b.toNat then b else a

/-- SEQ (R99). -/
def execSeq (d a b : NameF) (s : State) : Host.Outcome State Fault Refusal :=
  binaryOp d a b s fun a b => if a = b then 1 else 0

/-- SNE (R99). -/
def execSne (d a b : NameF) (s : State) : Host.Outcome State Fault Refusal :=
  binaryOp d a b s fun a b => if a = b then 0 else 1

/-- SLTS (R99). -/
def execSlts (d a b : NameF) (s : State) : Host.Outcome State Fault Refusal :=
  binaryOp d a b s fun a b => if a.toInt < b.toInt then 1 else 0

/-- SLTN (R99). -/
def execSltn (d a b : NameF) (s : State) : Host.Outcome State Fault Refusal :=
  binaryOp d a b s fun a b => if a.toNat < b.toNat then 1 else 0

/-- SLES (R99). -/
def execSles (d a b : NameF) (s : State) : Host.Outcome State Fault Refusal :=
  binaryOp d a b s fun a b => if a.toInt ≤ b.toInt then 1 else 0

/-- SLEN (R99). -/
def execSlen (d a b : NameF) (s : State) : Host.Outcome State Fault Refusal :=
  binaryOp d a b s fun a b => if a.toNat ≤ b.toNat then 1 else 0

/-- CLZ (R99). -/
def execClz (d a : NameF) (s : State) : Host.Outcome State Fault Refusal :=
  unaryOp d a s fun a => BitVec.ofNat 64 (clz 64 a.toNat)

/-- CTZ (R99). -/
def execCtz (d a : NameF) (s : State) : Host.Outcome State Fault Refusal :=
  unaryOp d a s fun a => BitVec.ofNat 64 (ctz 64 a.toNat)

/-- POPC (R99). -/
def execPopc (d a : NameF) (s : State) : Host.Outcome State Fault Refusal :=
  unaryOp d a s fun a => BitVec.ofNat 64 (popCount 64 a.toNat)

/-- BSWAP (R99). -/
def execBswap (d a : NameF) (s : State) : Host.Outcome State Fault Refusal :=
  unaryOp d a s fun a => byteSwap a

/-- EXTSX8 (R99). -/
def execExtsX8 (d a : NameF) (s : State) : Host.Outcome State Fault Refusal :=
  unaryOp d a s fun a => sext64 8 a.toNat

/-- EXTSX16 (R99). -/
def execExtsX16 (d a : NameF) (s : State) : Host.Outcome State Fault Refusal :=
  unaryOp d a s fun a => sext64 16 a.toNat

/-- EXTSX32 (R99). -/
def execExtsX32 (d a : NameF) (s : State) : Host.Outcome State Fault Refusal :=
  unaryOp d a s fun a => sext64 32 a.toNat

/-- EXTZN8 (R99). -/
def execExtzN8 (d a : NameF) (s : State) : Host.Outcome State Fault Refusal :=
  unaryOp d a s fun a => BitVec.ofNat 64 (a.toNat % 2 ^ 8)

/-- EXTZN16 (R99). -/
def execExtzN16 (d a : NameF) (s : State) : Host.Outcome State Fault Refusal :=
  unaryOp d a s fun a => BitVec.ofNat 64 (a.toNat % 2 ^ 16)

/-- EXTZN32 (R99). -/
def execExtzN32 (d a : NameF) (s : State) : Host.Outcome State Fault Refusal :=
  unaryOp d a s fun a => BitVec.ofNat 64 (a.toNat % 2 ^ 32)

/-- SEL (R99): D is the condition and the destination. -/
def execSel (d a b : NameF) (s : State) : Host.Outcome State Fault Refusal :=
  ternaryOp d a b s fun d a b => if d ≠ 0 then a else b

/-- BFX (R100). -/
def execBfx (d a b : NameF) (s : State) : Host.Outcome State Fault Refusal := binaryOp d a b s extractField

/-- BFI (R100). -/
def execBfi (d a b : NameF) (s : State) : Host.Outcome State Fault Refusal := ternaryOp d a b s insertField

/-- ADDI (R101). -/
def execAddi (d a : NameF) (i : BitVec 12) (s : State) : Host.Outcome State Fault Refusal :=
  unaryOp d a s fun a => a + sext64 12 i.toNat

/-- ANDI (R101). -/
def execAndi (d a : NameF) (i : BitVec 12) (s : State) : Host.Outcome State Fault Refusal :=
  unaryOp d a s fun a => a &&& i.setWidth 64

/-- ORI (R101). -/
def execOri (d a : NameF) (i : BitVec 12) (s : State) : Host.Outcome State Fault Refusal :=
  unaryOp d a s fun a => a ||| i.setWidth 64

/-- XORI (R101). -/
def execXori (d a : NameF) (i : BitVec 12) (s : State) : Host.Outcome State Fault Refusal :=
  unaryOp d a s fun a => a ^^^ i.setWidth 64

/-- SHLI (R101). -/
def execShli (d a : NameF) (i : BitVec 6) (s : State) : Host.Outcome State Fault Refusal :=
  unaryOp d a s fun a => a <<< i.toNat

/-- SHRI (R101). -/
def execShri (d a : NameF) (i : BitVec 6) (s : State) : Host.Outcome State Fault Refusal :=
  unaryOp d a s fun a => a >>> i.toNat

/-- SARI (R101). -/
def execSari (d a : NameF) (i : BitVec 6) (s : State) : Host.Outcome State Fault Refusal :=
  unaryOp d a s fun a => a.sshiftRight i.toNat

/-- SLTSI (R101). -/
def execSltsi (d a : NameF) (i : BitVec 12) (s : State) : Host.Outcome State Fault Refusal :=
  unaryOp d a s fun a => if a.toInt < (sext64 12 i.toNat).toInt then 1 else 0

/-- SLTNI (R101). -/
def execSltni (d a : NameF) (i : BitVec 12) (s : State) : Host.Outcome State Fault Refusal :=
  unaryOp d a s fun a => if a.toNat < (sext64 12 i.toNat).toNat then 1 else 0

/-- An immediate form that reads no scalar (R81). -/
def constOp (d : NameF) (s : State) (f : Context → Word) : Host.Outcome State Fault Refusal :=
  scalarOp s [(clsS, d)] [] [] fun c => c.write d (f c)

/-- MOVI (R81). -/
def execMovi (d : NameF) (i : BitVec 17) (s : State) : Host.Outcome State Fault Refusal :=
  constOp d s fun _ => sext64 17 i.toNat

/-- LUI (R81). -/
def execLui (d : NameF) (i : BitVec 17) (s : State) : Host.Outcome State Fault Refusal :=
  constOp d s fun _ => sext64 17 i.toNat <<< 12

/-- ADDPC (R81). -/
def execAddpc (d : NameF) (i : BitVec 17) (s : State) : Host.Outcome State Fault Refusal :=
  constOp d s fun c => c.pc + sext64 17 i.toNat <<< 12

end Sys2Proof.Machine
end

