-- ==== Sys2Proof/Machine/Dispatch.lean ====
section
/-! DEFINITION. One meaning for each constructor of Instr. -/

namespace Sys2Proof.Machine

def exec (i : Instr) (s : State) : Host.Outcome State Fault Refusal :=
  match i with
  | .add d a b => Sys2Proof.Machine.execAdd d a b s
  | .sub d a b => Sys2Proof.Machine.execSub d a b s
  | .and d a b => Sys2Proof.Machine.execAnd d a b s
  | .or d a b => Sys2Proof.Machine.execOr d a b s
  | .xor d a b => Sys2Proof.Machine.execXor d a b s
  | .andn d a b => Sys2Proof.Machine.execAndn d a b s
  | .shl d a b => Sys2Proof.Machine.execShl d a b s
  | .shr d a b => Sys2Proof.Machine.execShr d a b s
  | .sar d a b => Sys2Proof.Machine.execSar d a b s
  | .rol d a b => Sys2Proof.Machine.execRol d a b s
  | .mul d a b => Sys2Proof.Machine.execMul d a b s
  | .mulhs d a b => Sys2Proof.Machine.execMulhs d a b s
  | .mulhn d a b => Sys2Proof.Machine.execMulhn d a b s
  | .divs d a b => Sys2Proof.Machine.execDivs d a b s
  | .divn d a b => Sys2Proof.Machine.execDivn d a b s
  | .rems d a b => Sys2Proof.Machine.execRems d a b s
  | .remn d a b => Sys2Proof.Machine.execRemn d a b s
  | .mins d a b => Sys2Proof.Machine.execMins d a b s
  | .maxs d a b => Sys2Proof.Machine.execMaxs d a b s
  | .minn d a b => Sys2Proof.Machine.execMinn d a b s
  | .maxn d a b => Sys2Proof.Machine.execMaxn d a b s
  | .clz d a => Sys2Proof.Machine.execClz d a s
  | .ctz d a => Sys2Proof.Machine.execCtz d a s
  | .popc d a => Sys2Proof.Machine.execPopc d a s
  | .bswap d a => Sys2Proof.Machine.execBswap d a s
  | .seq d a b => Sys2Proof.Machine.execSeq d a b s
  | .sne d a b => Sys2Proof.Machine.execSne d a b s
  | .slts d a b => Sys2Proof.Machine.execSlts d a b s
  | .sltn d a b => Sys2Proof.Machine.execSltn d a b s
  | .sles d a b => Sys2Proof.Machine.execSles d a b s
  | .slen d a b => Sys2Proof.Machine.execSlen d a b s
  | .sel d a b => Sys2Proof.Machine.execSel d a b s
  | .extsX8 d a => Sys2Proof.Machine.execExtsX8 d a s
  | .extsX16 d a => Sys2Proof.Machine.execExtsX16 d a s
  | .extsX32 d a => Sys2Proof.Machine.execExtsX32 d a s
  | .extzN8 d a => Sys2Proof.Machine.execExtzN8 d a s
  | .extzN16 d a => Sys2Proof.Machine.execExtzN16 d a s
  | .extzN32 d a => Sys2Proof.Machine.execExtzN32 d a s
  | .bfx d a b => Sys2Proof.Machine.execBfx d a b s
  | .bfi d a b => Sys2Proof.Machine.execBfi d a b s
  | .faddS d a b => Sys2Proof.Machine.execFaddS d a b s
  | .fsubS d a b => Sys2Proof.Machine.execFsubS d a b s
  | .fmulS d a b => Sys2Proof.Machine.execFmulS d a b s
  | .fdivS d a b => Sys2Proof.Machine.execFdivS d a b s
  | .fminS d a b => Sys2Proof.Machine.execFminS d a b s
  | .fmaxS d a b => Sys2Proof.Machine.execFmaxS d a b s
  | .fcmpS d a b => Sys2Proof.Machine.execFcmpS d a b s
  | .ffmaS d a b => Sys2Proof.Machine.execFfmaS d a b s
  | .faddD d a b => Sys2Proof.Machine.execFaddD d a b s
  | .fsubD d a b => Sys2Proof.Machine.execFsubD d a b s
  | .fmulD d a b => Sys2Proof.Machine.execFmulD d a b s
  | .fdivD d a b => Sys2Proof.Machine.execFdivD d a b s
  | .fminD d a b => Sys2Proof.Machine.execFminD d a b s
  | .fmaxD d a b => Sys2Proof.Machine.execFmaxD d a b s
  | .fcmpD d a b => Sys2Proof.Machine.execFcmpD d a b s
  | .ffmaD d a b => Sys2Proof.Machine.execFfmaD d a b s
  | .fsqrt d a dbl => Sys2Proof.Machine.execFsqrt d a dbl s
  | .frsqe d a dbl => Sys2Proof.Machine.execFrsqe d a dbl s
  | .frcpe d a dbl => Sys2Proof.Machine.execFrcpe d a dbl s
  | .fclass d a dbl => Sys2Proof.Machine.execFclass d a dbl s
  | .fcvt d a x => Sys2Proof.Machine.execFcvt d a x s
  | .addi d a imm => Sys2Proof.Machine.execAddi d a imm s
  | .andi d a imm => Sys2Proof.Machine.execAndi d a imm s
  | .ori d a imm => Sys2Proof.Machine.execOri d a imm s
  | .xori d a imm => Sys2Proof.Machine.execXori d a imm s
  | .shli d a imm => Sys2Proof.Machine.execShli d a imm s
  | .shri d a imm => Sys2Proof.Machine.execShri d a imm s
  | .sari d a imm => Sys2Proof.Machine.execSari d a imm s
  | .sltsi d a imm => Sys2Proof.Machine.execSltsi d a imm s
  | .sltni d a imm => Sys2Proof.Machine.execSltni d a imm s
  | .movi d imm => Sys2Proof.Machine.execMovi d imm s
  | .lui d imm => Sys2Proof.Machine.execLui d imm s
  | .addpc d imm => Sys2Proof.Machine.execAddpc d imm s
  | .call d imm => Sys2Proof.Machine.execCall d imm s
  | .bEqz a o => Sys2Proof.Machine.execBEqz a o s
  | .bNez a o => Sys2Proof.Machine.execBNez a o s
  | .bLtz a o => Sys2Proof.Machine.execBLtz a o s
  | .bGez a o => Sys2Proof.Machine.execBGez a o s
  | .bGtz a o => Sys2Proof.Machine.execBGtz a o s
  | .bLez a o => Sys2Proof.Machine.execBLez a o s
  | .bAny a o => Sys2Proof.Machine.execBAny a o s
  | .bAll a o => Sys2Proof.Machine.execBAll a o s
  | .br o => Sys2Proof.Machine.execBr o s
  | .loop a l => Sys2Proof.Machine.execLoop a l s
  | .sloop d a l => Sys2Proof.Machine.execSloop d a l s
  | .swin n => Sys2Proof.Machine.execSwin n s
  | .vcfg c => Sys2Proof.Machine.execVcfg c s
  | .vshapeImm j imm => Sys2Proof.Machine.execVshapeImm j imm s
  | .act d a t => Sys2Proof.Machine.execAct d a t s
  | .actz d a t => Sys2Proof.Machine.execActz d a t s
  | .refImm n => Sys2Proof.Machine.execRefImm n s
  | .ld d a f imm => Sys2Proof.Machine.execLd d a f imm s
  | .st d a f imm => Sys2Proof.Machine.execSt d a f imm s
  | .stRel d a f imm => Sys2Proof.Machine.execStRel d a f imm s
  | .ldAcq d a f imm => Sys2Proof.Machine.execLdAcq d a f imm s
  | .ldc d a imm => Sys2Proof.Machine.execLdc d a imm s
  | .pfetch d a imm => Sys2Proof.Machine.execPfetch d a imm s
  | .vadd lastA lastB d a b => Sys2Proof.Machine.execVadd lastA lastB d a b s
  | .vsub lastA lastB d a b => Sys2Proof.Machine.execVsub lastA lastB d a b s
  | .vmul lastA lastB d a b => Sys2Proof.Machine.execVmul lastA lastB d a b s
  | .vfma lastA lastB d a b => Sys2Proof.Machine.execVfma lastA lastB d a b s
  | .vfms lastA lastB d a b => Sys2Proof.Machine.execVfms lastA lastB d a b s
  | .vfnma lastA lastB d a b => Sys2Proof.Machine.execVfnma lastA lastB d a b s
  | .vabs lastA d a => Sys2Proof.Machine.execVabs lastA d a s
  | .vneg lastA d a => Sys2Proof.Machine.execVneg lastA d a s
  | .vand lastA lastB d a b => Sys2Proof.Machine.execVand lastA lastB d a b s
  | .vor lastA lastB d a b => Sys2Proof.Machine.execVor lastA lastB d a b s
  | .vxor lastA lastB d a b => Sys2Proof.Machine.execVxor lastA lastB d a b s
  | .vandn lastA lastB d a b => Sys2Proof.Machine.execVandn lastA lastB d a b s
  | .vshl lastA lastB d a b => Sys2Proof.Machine.execVshl lastA lastB d a b s
  | .vshr lastA lastB d a b => Sys2Proof.Machine.execVshr lastA lastB d a b s
  | .vsar lastA lastB d a b => Sys2Proof.Machine.execVsar lastA lastB d a b s
  | .vsel lastA lastB d a b => Sys2Proof.Machine.execVsel lastA lastB d a b s
  | .vmin lastA lastB d a b => Sys2Proof.Machine.execVmin lastA lastB d a b s
  | .vminX lastA lastB d a b => Sys2Proof.Machine.execVminX lastA lastB d a b s
  | .vminN lastA lastB d a b => Sys2Proof.Machine.execVminN lastA lastB d a b s
  | .vmax lastA lastB d a b => Sys2Proof.Machine.execVmax lastA lastB d a b s
  | .vmaxX lastA lastB d a b => Sys2Proof.Machine.execVmaxX lastA lastB d a b s
  | .vmaxN lastA lastB d a b => Sys2Proof.Machine.execVmaxN lastA lastB d a b s
  | .vmulw lastA lastB d a b => Sys2Proof.Machine.execVmulw lastA lastB d a b s
  | .vmulwX lastA lastB d a b => Sys2Proof.Machine.execVmulwX lastA lastB d a b s
  | .vmulwN lastA lastB d a b => Sys2Proof.Machine.execVmulwN lastA lastB d a b s
  | .vmerge lastA d a b => Sys2Proof.Machine.execVmerge lastA d a b s
  | .vrsqe lastA d a => Sys2Proof.Machine.execVrsqe lastA d a s
  | .vrcpe lastA d a => Sys2Proof.Machine.execVrcpe lastA d a s
  | .vexp2e lastA d a => Sys2Proof.Machine.execVexp2e lastA d a s
  | .viota lastA d a => Sys2Proof.Machine.execViota lastA d a s
  | .vbcast lastA d a b => Sys2Proof.Machine.execVbcast lastA d a b s
  | .vclr lastA d a => Sys2Proof.Machine.execVclr lastA d a s
  | .vins d a b => Sys2Proof.Machine.execVins d a b s
  | .vext lastA d a b => Sys2Proof.Machine.execVext lastA d a b s
  | .vslideUp lastA d a b => Sys2Proof.Machine.execVslideUp lastA d a b s
  | .vslideDn lastA d a b => Sys2Proof.Machine.execVslideDn lastA d a b s
  | .vperm lastA lastB d a b => Sys2Proof.Machine.execVperm lastA lastB d a b s
  | .vcopy lastA d a => Sys2Proof.Machine.execVcopy lastA d a s
  | .vshape a b => Sys2Proof.Machine.execVshape a b s
  | .pmovs d a b => Sys2Proof.Machine.execPmovs d a b s
  | .vred lastA d a x => Sys2Proof.Machine.execVred lastA d a x s
  | .vcmpEq lastA lastB d a b => Sys2Proof.Machine.execVcmpEq lastA lastB d a b s
  | .vcmpNe lastA lastB d a b => Sys2Proof.Machine.execVcmpNe lastA lastB d a b s
  | .vcmpLt lastA lastB d a b => Sys2Proof.Machine.execVcmpLt lastA lastB d a b s
  | .vcmpLe lastA lastB d a b => Sys2Proof.Machine.execVcmpLe lastA lastB d a b s
  | .vcmpUn lastA lastB d a b => Sys2Proof.Machine.execVcmpUn lastA lastB d a b s
  | .vcmpLtX lastA lastB d a b => Sys2Proof.Machine.execVcmpLtX lastA lastB d a b s
  | .vcmpLeX lastA lastB d a b => Sys2Proof.Machine.execVcmpLeX lastA lastB d a b s
  | .vcmpLtN lastA lastB d a b => Sys2Proof.Machine.execVcmpLtN lastA lastB d a b s
  | .vcmpLeN lastA lastB d a b => Sys2Proof.Machine.execVcmpLeN lastA lastB d a b s
  | .vcvt lastA d a r t => Sys2Proof.Machine.execVcvt lastA d a r t s
  | .vcvtX lastA d a r t => Sys2Proof.Machine.execVcvtX lastA d a r t s
  | .vcvtN lastA d a r t => Sys2Proof.Machine.execVcvtN lastA d a r t s
  | .vscl lastA d a b => Sys2Proof.Machine.execVscl lastA d a b s
  | .pand d a b => Sys2Proof.Machine.execPand d a b s
  | .por d a b => Sys2Proof.Machine.execPor d a b s
  | .pxor d a b => Sys2Proof.Machine.execPxor d a b s
  | .pandn d a b => Sys2Proof.Machine.execPandn d a b s
  | .pnot d a => Sys2Proof.Machine.execPnot d a s
  | .pcnt d a => Sys2Proof.Machine.execPcnt d a s
  | .pfirst d a => Sys2Proof.Machine.execPfirst d a s
  | .pset d a => Sys2Proof.Machine.execPset d a s
  | .shuf lastA d a b => Sys2Proof.Machine.execShuf lastA d a b s
  | .shufx lastA d a b => Sys2Proof.Machine.execShufx lastA d a b s
  | .gbcast lastA d a b => Sys2Proof.Machine.execGbcast lastA d a b s
  | .gbar => Sys2Proof.Machine.execGbar s
  | .gsplit a b => Sys2Proof.Machine.execGsplit a b s
  | .gjoin => Sys2Proof.Machine.execGjoin s
  | .gsync => Sys2Proof.Machine.execGsync s
  | .gred lastA d a x => Sys2Proof.Machine.execGred lastA d a x s
  | .wb d => Sys2Proof.Machine.execWb d s
  | .pre d => Sys2Proof.Machine.execPre d s
  | .rcopy d a => Sys2Proof.Machine.execRcopy d a s
  | .tag d t => Sys2Proof.Machine.execTag d t s
  | .saverow d a b => Sys2Proof.Machine.execSaverow d a b s
  | .loadrow d a b => Sys2Proof.Machine.execLoadrow d a b s
  | .refScalar a => Sys2Proof.Machine.execRefScalar a s
  | .mshape d a => Sys2Proof.Machine.execMshape d a s
  | .mzero d => Sys2Proof.Machine.execMzero d s
  | .mmf lastA lastB d a b => Sys2Proof.Machine.execMmf lastA lastB d a b s
  | .mmfO lastA lastB d a b => Sys2Proof.Machine.execMmfO lastA lastB d a b s
  | .mwait => Sys2Proof.Machine.execMwait s
  | .mstat d a => Sys2Proof.Machine.execMstat d a s
  | .cset a x => Sys2Proof.Machine.execCset a x s
  | .cgo d => Sys2Proof.Machine.execCgo d s
  | .cwait d a => Sys2Proof.Machine.execCwait d a s
  | .cstat d a => Sys2Proof.Machine.execCstat d a s
  | .ccancel a => Sys2Proof.Machine.execCcancel a s
  | .cresume a => Sys2Proof.Machine.execCresume a s
  | .aadd d a w32 o c => Sys2Proof.Machine.execAadd d a w32 o c s
  | .ainc d a w32 o c => Sys2Proof.Machine.execAinc d a w32 o c s
  | .amins d a w32 o c => Sys2Proof.Machine.execAmins d a w32 o c s
  | .amaxs d a w32 o c => Sys2Proof.Machine.execAmaxs d a w32 o c s
  | .aminn d a w32 o c => Sys2Proof.Machine.execAminn d a w32 o c s
  | .amaxn d a w32 o c => Sys2Proof.Machine.execAmaxn d a w32 o c s
  | .aand d a w32 o c => Sys2Proof.Machine.execAand d a w32 o c s
  | .aor d a w32 o c => Sys2Proof.Machine.execAor d a w32 o c s
  | .axor d a w32 o c => Sys2Proof.Machine.execAxor d a w32 o c s
  | .axchg d a w32 o c => Sys2Proof.Machine.execAxchg d a w32 o c s
  | .acas d a w32 o c => Sys2Proof.Machine.execAcas d a w32 o c s
  | .fence x => Sys2Proof.Machine.execFence x s
  | .fenceC x => Sys2Proof.Machine.execFenceC x s
  | .claim d a b => Sys2Proof.Machine.execClaim d a b s
  | .mfc d c => Sys2Proof.Machine.execMfc d c s
  | .mtc a c => Sys2Proof.Machine.execMtc a c s
  | .trap c => Sys2Proof.Machine.execTrap c s
  | .eret => Sys2Proof.Machine.execEret s
  | .tlbinvVa a => Sys2Proof.Machine.execTlbinvVa a s
  | .tlbinvTok a => Sys2Proof.Machine.execTlbinvTok a s
  | .tlbinvAll => Sys2Proof.Machine.execTlbinvAll s
  | .trace a => Sys2Proof.Machine.execTrace a s
  | .jr a => Sys2Proof.Machine.execJr a s
  | .exit => Sys2Proof.Machine.execExit s
  | .yield => Sys2Proof.Machine.execYield s
  | .nop => Sys2Proof.Machine.execNop s
  | .brk => Sys2Proof.Machine.execBrk s
  | .waitwEq d a => Sys2Proof.Machine.execWaitwEq d a s
  | .waitwNe d a => Sys2Proof.Machine.execWaitwNe d a s
  | .waitwGe d a => Sys2Proof.Machine.execWaitwGe d a s
  | .illegalInstruction w => Sys2Proof.Machine.execIllegalInstruction w s
  | .asyncTrapEntry => Sys2Proof.Machine.execAsyncTrapEntry s
  | .yieldExpiry id => Sys2Proof.Machine.execYieldExpiry id s
  | .elementGroup bank => Sys2Proof.Machine.execElementGroup bank s
  | .rowOperationStart core bank => Sys2Proof.Machine.execRowOperationStart core bank s
  | .refreshSlot core bank => Sys2Proof.Machine.execRefreshSlot core bank s
  | .refreshAccrual tier => Sys2Proof.Machine.execRefreshAccrual tier s
  | .forcedRefresh core bank => Sys2Proof.Machine.execForcedRefresh core bank s
  | .selfRefreshSlot core bank => Sys2Proof.Machine.execSelfRefreshSlot core bank s
  | .refreshBandCooling tier => Sys2Proof.Machine.execRefreshBandCooling tier s
  | .thermalHeating tier temp => Sys2Proof.Machine.execThermalHeating tier temp s
  | .thermalCooling tier temp => Sys2Proof.Machine.execThermalCooling tier temp s
  | .governorInterval hprev used => Sys2Proof.Machine.execGovernorInterval hprev used s
  | .governorCheck stack proj hottest => Sys2Proof.Machine.execGovernorCheck stack proj hottest s
  | .powerBrake asserted => Sys2Proof.Machine.execPowerBrake asserted s
  | .haspOverheat => Sys2Proof.Machine.execHaspOverheat s
  | .launchRecord queue => Sys2Proof.Machine.execLaunchRecord queue s
  | .prerequisiteWake seq => Sys2Proof.Machine.execPrerequisiteWake seq s
  | .launchDispatch => Sys2Proof.Machine.execLaunchDispatch s
  | .launchCompletion seq => Sys2Proof.Machine.execLaunchCompletion seq s
  | .streamPlacement => Sys2Proof.Machine.execStreamPlacement s
  | .preemption id => Sys2Proof.Machine.execPreemption id s
  | .equalPrioPreempt id => Sys2Proof.Machine.execEqualPrioPreempt id s
  | .waitersGiveWay id => Sys2Proof.Machine.execWaitersGiveWay id s
  | .invalidationArrival core sel => Sys2Proof.Machine.execInvalidationArrival core sel s
  | .pageWalk asid va => Sys2Proof.Machine.execPageWalk asid va s
  | .pageRequest asid va => Sys2Proof.Machine.execPageRequest asid va s
  | .slotGrant core => Sys2Proof.Machine.execSlotGrant core s
  | .endpointActivation core => Sys2Proof.Machine.execEndpointActivation core s
  | .loadResponse id => Sys2Proof.Machine.execLoadResponse id s
  | .storeAtHome k => Sys2Proof.Machine.execStoreAtHome k s
  | .atomicAtHome link kind pa d new => Sys2Proof.Machine.execAtomicAtHome link kind pa d new s
  | .waitwWriteWake core => Sys2Proof.Machine.execWaitwWriteWake core s
  | .waitwTimerWake id => Sys2Proof.Machine.execWaitwTimerWake id s
  | .detentInstall id => Sys2Proof.Machine.execDetentInstall id s
  | .copySourceRead core slot => Sys2Proof.Machine.execCopySourceRead core slot s
  | .recordDecompress core slot => Sys2Proof.Machine.execRecordDecompress core slot s
  | .copyLanding core slot => Sys2Proof.Machine.execCopyLanding core slot s
  | .detentWmUpdate core detent => Sys2Proof.Machine.execDetentWmUpdate core detent s
  | .detentFree core slot => Sys2Proof.Machine.execDetentFree core slot s
  | .crewForm core => Sys2Proof.Machine.execCrewForm core s
  | .mmfRelease core => Sys2Proof.Machine.execMmfRelease core s
  | .mmfComplete core => Sys2Proof.Machine.execMmfComplete core s
  | .hingeRetry core => Sys2Proof.Machine.execHingeRetry core s
  | .hingeLinkFail core => Sys2Proof.Machine.execHingeLinkFail core s
  | .tierOffline tier => Sys2Proof.Machine.execTierOffline tier s
  | .offreq tier => Sys2Proof.Machine.execOffreq tier s
  | .regionTableWrite imm word v => Sys2Proof.Machine.execRegionTableWrite imm word v s
  | .pbudgetWrite v => Sys2Proof.Machine.execPbudgetWrite v s
  | .savesetsWrite v => Sys2Proof.Machine.execSavesetsWrite v s
  | .sreqWrite core v => Sys2Proof.Machine.execSreqWrite core v s
  | .controlSpaceWrite off v => Sys2Proof.Machine.execControlSpaceWrite off v s
  | .hostAccess port off n data => Sys2Proof.Machine.execHostAccess port off n data s
  | .peerAccess link addr n data => Sys2Proof.Machine.execPeerAccess link addr n data s
  | .linkRetrain link => Sys2Proof.Machine.execLinkRetrain link s
  | .linkDown host imm => Sys2Proof.Machine.execLinkDown host imm s
  | .hostPortTraining port mode width => Sys2Proof.Machine.execHostPortTraining port mode width s
  | .hostPortHotReset port => Sys2Proof.Machine.execHostPortHotReset port s
  | .coldReset patch runtime => Sys2Proof.Machine.execColdReset patch runtime s
  | .deviceReset session => Sys2Proof.Machine.execDeviceReset session s
  | .spdmMessage index => Sys2Proof.Machine.execSpdmMessage index s
  | .mgmtReadTables off => Sys2Proof.Machine.execMgmtReadTables off s
  | .mgmtWritePbudget session v => Sys2Proof.Machine.execMgmtWritePbudget session v s
  | .mgmtWriteOffreq session tier => Sys2Proof.Machine.execMgmtWriteOffreq session tier s
  | .mgmtLoadImage session img => Sys2Proof.Machine.execMgmtLoadImage session img s
  | .accessFilterDenial => Sys2Proof.Machine.execAccessFilterDenial s
  | .attach queue => Sys2Proof.Machine.execAttach queue s
  | .detach queue => Sys2Proof.Machine.execDetach queue s
  | .halt queue => Sys2Proof.Machine.execHalt queue s
  | .haltPointReached id => Sys2Proof.Machine.execHaltPointReached id s
  | .resume queue => Sys2Proof.Machine.execResume queue s
  | .readmem queue => Sys2Proof.Machine.execReadmem queue s
  | .writemem queue => Sys2Proof.Machine.execWritemem queue s
  | .readctx queue => Sys2Proof.Machine.execReadctx queue s
  | .writectx queue => Sys2Proof.Machine.execWritectx queue s
  | .readslip queue => Sys2Proof.Machine.execReadslip queue s
  | .instructionFetchFault => Sys2Proof.Machine.execInstructionFetchFault s
  | .matrixSliceFailure core => Sys2Proof.Machine.execMatrixSliceFailure core s
  | .druthesLinkTrained link gen lanes peer => Sys2Proof.Machine.execDruthesLinkTrained link gen lanes peer s
  | .druthesFlitRetry link => Sys2Proof.Machine.execDruthesFlitRetry link s
  | .runtimeRelease => Sys2Proof.Machine.execRuntimeRelease s
  | .runtimeEndsContext id => Sys2Proof.Machine.execRuntimeEndsContext id s

end Sys2Proof.Machine
end

