-- ==== Sys2Proof/Machine/Step.lean ====
section
/-! DEFINITION. One step of the device, and the placing of an instruction where it is fetched next. -/

namespace Sys2Proof.Machine

/-- What follows an event of the outside world: the state, one step on. -/
def outcomeTock (o : Host.Outcome State Fault Refusal) : Host.Outcome State Fault Refusal :=
  match o with
  | .next t => .next (t.turn.tock)
  | .fault f => .fault f
  | .refused r => .refused r

/-- What follows an instruction of the running stream. -/
def outcomeSettle (bank : Bool) (before : Context) (o : Host.Outcome State Fault Refusal) : Host.Outcome State Fault Refusal :=
  match o with
  | .next t => .next (t.settle bank before)
  | .fault f => .fault f
  | .refused r => .refused r

/-- One step: what the outside world supplies next; else what the running stream does next; else the engines go on. -/
def step (s : State) : Host.Outcome State Fault Refusal :=
  if s.stopped then .fault .heldInReset
  else match s.inputs with
    | x :: rest =>
      let t := { s with inputs := rest }
      match x with
      | .event i => outcomeTock (exec i t)
      | x => .next ((t.supplied x).tock)
    | [] => match s.nextInstr with
      | some i => outcomeSettle s.nextIsBank s.ctx (exec i s)
      | none => .next s.idle

/-- The running stream made ready to issue: resident, nothing pending, and nothing supplied from outside. One that no launch has
placed yet gets an ENTRY of 0x10000 (LOG 27). -/
def State.placed (s : State) : State :=
  let c := s.ctx
  let pc : Word := if c.place = .absent then 0x10000 else c.pc
  { s with
    held := false
    inputs := []
    writes := []
    oldBinds := []
    posted := s.posted.map fun p => { p with sent := true }
    ctx := { c with
      place := .resident, stall := false, parked := none, asking := [], detentWait := none, inv := false, haltReq := none
      yielding := false, pheld := false, markTrap := none
      pend10 := false, pend11 := 0, pend30 := none, sib := none
      pc := if pc.toNat % 4 = 0 ∧ pc.toNat < 2 ^ 56 then pc else 0
      gmBanks := if c.gmBanks = 0 then 1 else c.gmBanks } }

/-- An address space of one 1 GiB page of device memory around the pc: tables at 0 and 1 MiB, the frame at 1 GiB (LOG 27). -/
def State.mapped (s : State) : State :=
  let va := s.ctx.pc.toNat
  let m1 := memWrite s.mem (8 * walkIndex va 3) 8 0x100001
  let m2 := memWrite m1 (0x100000 + 8 * walkIndex va 2) 8 0x4000003F
  { s with mem := m2, asids := tabPut s.asids 0 { token := s.ctx.owner, v := true, root := 0 } }

/-- The state with an instruction stored where step fetches its next one. -/
def State.withFetchWord (s : State) (nbits w : Nat) : State :=
  let t := s.placed
  let word := w % 2 ^ min nbits 32
  let put := fun (u : State) (pa : Nat) => { u with mem := memWrite u.mem (u.locOf pa) 4 word }
  match t.translate false t.ctx.pc .exec 4 with
  | .ok (pa, _) => put t pa
  | .error _ => put t.mapped (0x40000000 + t.ctx.pc.toNat % 2 ^ 30)

end Sys2Proof.Machine
end

