-- ==== Sys2Proof/Safety.lean ====
section
/-! DEFINITION. The terms that statements about the machine are made in: which operands are ready, what a completed instruction
leads to, what it leaves alone, and the invariants that every step keeps. -/

namespace Sys2Proof.Machine

/-! Names (R71). -/

/-- A scalar name. -/
abbrev isSName (n : NameF) : Prop := 32 ≤ n.toNat
/-- A scalar name or z. -/
abbrev isSz (n : NameF) : Prop := n.toNat = 24 ∨ 32 ≤ n.toNat
/-- A predicate name. -/
abbrev isPName (n : NameF) : Prop := 16 ≤ n.toNat ∧ n.toNat < 24
/-- A keep-row name. -/
abbrev isKName (n : NameF) : Prop := 8 ≤ n.toNat ∧ n.toNat < 16
/-- A row-register name of the configuration (R12). -/
abbrev Context.isVName (c : Context) (n : NameF) : Prop := n.toNat < c.nNames

/-! Operands that read without a soft error (R369). -/

/-- No register an instruction uses holds a double-bit error: no scalar among the names it reads, no control register among the
indexes, not WIN where one of its names, read or (dst) written, is a scalar's, and no loop register at a loop's end word. -/
abbrev Context.intact (c : Context) (names : List NameF) (ctl : List Nat) (dst : List NameF := []) : Prop :=
  (∀ n ∈ names, 32 ≤ n.toNat → tabGet false c.bad (c.physical n) = false) ∧
    (∀ i ∈ ctl, tabGet false c.bad (256 + i) = false) ∧
    ((∃ n ∈ names ++ dst, 32 ≤ n.toNat) → tabGet false c.bad 258 = false) ∧ c.loopError = none

/-- No predicate among the names holds a double-bit error in a word below VL, in any bank of the gang. -/
abbrev Context.predsIntact (c : Context) (ps : List NameF) : Prop :=
  ∀ j ∈ bankList c.gmBanks, ∀ p ∈ ps, ∀ w < (c.vl + 63) / 64, tabGet false c.bad (512 + 2048 * j + 256 * (p.toNat - 16) + w) = false

/-! What a completed instruction leads to. -/

/-- D takes a value and the stream goes on, through the iteration boundary (R115). -/
def State.wrote (s : State) (d : NameF) (v : Word) : State := (s.withCtx (s.ctx.write d v)).advance

/-- D takes a result, its flags are ORed into FPSR, and the stream goes on (R103). -/
def State.wroteFp (s : State) (d : NameF) (r : Word × FpFlags) : State :=
  (s.withCtx ((s.ctx.write d r.1).orFlags r.2)).advance

/-- The stream goes on at an address outside every loop's boundary. -/
def State.wentTo (s : State) (pc : Word) : State := s.withCtx { s.ctx with pc := pc, stall := false }

/-! Bank-class instructions. -/

/-- A bank-class instruction may issue: no GBAR holds it for an MMF of its gang (R205). -/
abbrev State.mayIssue (s : State) : Prop := s.ctx.gbar = false ∨ s.ctx.workingHere = false

/-- The state a row operation acts on: the work before it is done in its banks, and their pending refresh slots (R150). -/
def State.rowReadied (s : State) : State := s.readied.serveRefs s.readied.ctx.core (bankList s.readied.ctx.gmBanks)

/-- The state a slot-taking instruction acts on (R164): the work before it is complete where it needs that, and else in flight. -/
def SlotForm.primed (f : SlotForm) (s : State) : State :=
  if s.eager || f.waits || s.ctx.freeing (bankList s.ctx.gmBanks) then s.readied else s.begun

/-- A check of every bank of the gang finds nothing (R408). -/
abbrev State.allPass (s : State) (check : Nat → List (Nat × Word)) : Prop := ∀ j ∈ bankList s.ctx.gmBanks, check j = []

/-- The name fields of an elementwise instruction with the classes they accept (R171). -/
def laneNames : Instr → List (List NameClass × NameF)
  | .vabs _ d a | .vneg _ d a | .vrsqe _ d a | .vrcpe _ d a | .vexp2e _ d a | .vcopy _ d a => [(clsVz, d), (clsVz, a)]
  | .viota _ d a | .vclr _ d a => [(clsV, d), (clsV, a)]
  | .vcvt _ d a _ _ | .vcvtX _ d a _ _ | .vcvtN _ d a _ _ => [(clsVz, d), (clsV, a)]
  | .vbcast _ d a b => [(clsV, d), (clsV, a), (clsS, b)]
  | .vscl _ d a b => [(clsVz, d), (clsVz, a), (clsS, b)]
  | .vsel _ _ d a b => [(clsV, d), (clsVz, a), (clsVzs, b)]
  | .vadd _ _ d a b | .vsub _ _ d a b | .vmul _ _ d a b | .vfma _ _ d a b | .vfms _ _ d a b | .vfnma _ _ d a b
  | .vand _ _ d a b | .vor _ _ d a b | .vxor _ _ d a b | .vandn _ _ d a b | .vshl _ _ d a b | .vshr _ _ d a b
  | .vsar _ _ d a b | .vmin _ _ d a b | .vminX _ _ d a b | .vminN _ _ d a b | .vmax _ _ d a b | .vmaxX _ _ d a b
  | .vmaxN _ _ d a b | .vmulw _ _ d a b | .vmulwX _ _ d a b | .vmulwN _ _ d a b =>
    [(clsVz, d), (clsVz, a), (clsVzs, b)]
  | _ => []

/-- The name fields of a slot-taking instruction with the classes they accept (R171). -/
def SlotForm.names (f : SlotForm) (i : Instr) : List (List NameClass × NameF) := match f with
  | .lane _ => laneNames i
  | .cmp _ _ g p => [(clsP, p), (clsVz, g.a), (clsVzs, g.b.getD 24)]
  | .merge _ d a p => [(clsV, d), (clsVz, a), (clsP, p)]
  | .ins d a b => [(clsV, d), (clsS, a), (clsS, b)]
  | .slide _ _ d a b => [(clsVz, d), (clsVz, a), (clsS, b)]
  | .perm _ _ d a b => [(clsVz, d), (clsVz, a), (clsV, b)]
  | .red _ _ d a | .gred _ _ d a => [(clsVz, d), (clsV, a)]
  | .move k _ d a b => [(clsVz, d), (clsVz, a), (if k = .shufx then clsS1 else clsS, b)]

/-- The scalars it reads. -/
def SlotForm.reads : SlotForm → List NameF
  | .lane f | .cmp _ _ f _ => [f.b.getD 24]
  | .ins _ a b => [a, b]
  | .slide _ _ _ _ b | .move _ _ _ _ b => [b]
  | _ => []

/-- The failures of its checks in one bank (R58, R132, R160, R172). -/
def SlotForm.faults (f : SlotForm) (s : State) (j : Nat) : List (Nat × Word) := match f with
  | .lane g | .cmp _ _ g _ => g.fails s.ctx s.now (s.ctx.bank j)
  | .merge _ d a p => mergeFails s d a p j
  | .ins d _ b => insFails d b s j
  | .slide _ _ d a _ => slideFails d a s j
  | .perm _ _ d a b => permFails d a b s j
  | .red r _ d a => redFails r d a s j
  | .move _ _ d a _ => gangFails s d a id (fun _ => true) j
  | .gred r _ d a => gangFails s d a r.tagR r.accepts j

/-- Nothing else holds it: no lock (R261, R267), and no MMF of its gang that a cross-bank one has to wait for (R197). -/
abbrev SlotForm.unheld (f : SlotForm) (i : Instr) (s : State) : Prop :=
  (s.ctx.passes fun j => f.touches s.ctx (f.issue i s.ctx s.now j)) = true ∧ (f.cross = true → s.ctx.workingHere = false)

/-- Every name of a list is of a class it may have, a v name within the configuration. -/
abbrev Context.acceptsAll (c : Context) (names : List (List NameClass × NameF)) : Prop :=
  ∀ p ∈ names, c.accepts p.1 p.2 = true

/-- A row register of one bank is open with a tag. -/
abbrev Bank.openWith (b : Bank) (n : Nat) (t : TagBits) : Prop := (b.row n).st = .opened ∧ (b.row n).tag = t

/-- No two keep names of a bank are bound to one pool row (R18). -/
abbrev Bank.rowsApart (b : Bank) : Prop := ∀ m n r, b.bound m = some r → b.bound n = some r → m = n

/-- Elements lo to hi - 1, in groups of unit from 0 to total: put is applied to one group after the other (R165). -/
def inGroups (unit total : Nat) (put : Nat → Nat → Bank → Bank) (b : Bank) : Bank :=
  (List.range ((total + unit - 1) / unit)).foldl (fun b k => put (k * unit) (min total (k * unit + unit)) b) b

/-- What a vector of total elements with tag t leaves in a bank at name d, bound if it was not, in groups of unit; els gives the
elements from lo to hi - 1 with their marks, and the scale bytes of their blocks (R161, R165). Nothing for z. -/
def Context.putVec (c : Context) (now : Nat) (d : NameF) (t : TagBits) (unit total : Nat)
    (els : Nat → Nat → List (Nat × Option Nat) × List (Nat × Option Nat)) (b : Bank) : Bank :=
  inGroups unit total (fun lo hi b => c.putFrom b d t lo total (els lo hi).1 (els lo hi).2)
    (if isReg d then c.bindGroup b now d.toNat t total else b)

/-- No cross-bank instruction in flight in a bank outside the gang runs in one of its banks too: the gang's work can be done without
theirs (R197, R209). -/
abbrev Context.apart (c : Context) : Prop :=
  ∀ x, x ∉ bankList c.gmBanks → ∀ q ∈ (c.bank x).slots, ∀ j ∈ bankList c.gmBanks, ∀ y ∈ (c.bank j).slots, y.isOne q = false

/-! Frames. -/

/-- The stream goes on at the next word, outside every loop's boundary, and waits for nothing. -/
def State.wentOn (s : State) : State :=
  s.withCtx { s.ctx with pc := s.ctx.pc + 4, stall := false, parked := none, asking := [], detentWait := none, inv := false }

/-- Nothing changes but a scalar name's register, its soft error, FPSR, and the pc, which goes to the next word. -/
def State.onlyScalar (s t : State) (d : NameF) : Prop :=
  t = s.wentOn.withCtx { s.wentOn.ctx with scalars := t.ctx.scalars, bad := t.ctx.bad, fpsr := t.ctx.fpsr } ∧
    (∀ p, (32 ≤ d.toNat → p ≠ s.ctx.physical d) → tabGet 0 t.ctx.scalars p = tabGet 0 s.ctx.scalars p) ∧
    ∀ a, memByte t.mem a = memByte s.mem a

/-- The scalar destination of an instruction of R99 to R107 (R81 for MOVI, LUI and ADDPC). -/
def scalarDest : Instr → Option NameF
  | .add d _ _ | .sub d _ _ | .and d _ _ | .or d _ _ | .xor d _ _ | .andn d _ _ | .shl d _ _ | .shr d _ _ | .sar d _ _
  | .rol d _ _ | .mul d _ _ | .mulhs d _ _ | .mulhn d _ _ | .divs d _ _ | .divn d _ _ | .rems d _ _ | .remn d _ _
  | .mins d _ _ | .maxs d _ _ | .minn d _ _ | .maxn d _ _ | .clz d _ | .ctz d _ | .popc d _ | .bswap d _
  | .seq d _ _ | .sne d _ _ | .slts d _ _ | .sltn d _ _ | .sles d _ _ | .slen d _ _ | .sel d _ _
  | .extsX8 d _ | .extsX16 d _ | .extsX32 d _ | .extzN8 d _ | .extzN16 d _ | .extzN32 d _ | .bfx d _ _ | .bfi d _ _
  | .addi d _ _ | .andi d _ _ | .ori d _ _ | .xori d _ _ | .shli d _ _ | .shri d _ _ | .sari d _ _ | .sltsi d _ _
  | .sltni d _ _ | .movi d _ | .lui d _ | .addpc d _ | .fclass d _ _ => some d
  | .faddS d _ _ | .fsubS d _ _ | .fmulS d _ _ | .fdivS d _ _ | .fminS d _ _ | .fmaxS d _ _ | .fcmpS d _ _ | .ffmaS d _ _
  | .faddD d _ _ | .fsubD d _ _ | .fmulD d _ _ | .fdivD d _ _ | .fminD d _ _ | .fmaxD d _ _ | .fcmpD d _ _ | .ffmaD d _ _
  | .fsqrt d _ _ | .frsqe d _ _ | .frcpe d _ _ | .fcvt d _ _ => some d
  | _ => none

/-- A code of R103: it may set FPSR flags. -/
def setsFlags : Instr → Bool
  | .faddS _ _ _ | .fsubS _ _ _ | .fmulS _ _ _ | .fdivS _ _ _ | .fminS _ _ _ | .fmaxS _ _ _ | .fcmpS _ _ _ | .ffmaS _ _ _
  | .faddD _ _ _ | .fsubD _ _ _ | .fmulD _ _ _ | .fdivD _ _ _ | .fminD _ _ _ | .fmaxD _ _ _ | .fcmpD _ _ _ | .ffmaD _ _ _
  | .fsqrt _ _ _ | .frsqe _ _ _ | .frcpe _ _ _ | .fcvt _ _ _ => true
  | _ => false

/-- The steps of the table that an instruction word encodes: a stream executes no other. -/
def isWord (i : Instr) : Bool := (encode i).isSome

/-! Memory instructions. -/

/-- A load of n bytes at pa goes on: nothing it waits for (R213, R215, R243, R291), and no marked sector. -/
abbrev State.loadable (s : State) (pa n : Nat) : Prop :=
  s.mayAccess pa n = true ∧ s.blocked pa n = false ∧ s.markCause (s.locOf pa) n = none

/-- A scalar access of n bytes at pa has read them: the serving core counts it (R384), and an error it read is corrected (R368). -/
def State.hasRead (s : State) (pa n : Nat) : State := (s.serve pa).corrected (s.locOf pa) n

/-- A plain store of n bytes at pa performs at once: a slot is free, no detent, sleeping tier or own earlier store holds it, and it is its
turn on the way, and at its home where it is the oldest or for the oldest's row (R304, R308). -/
abbrev State.storable (s : State) (pa n : Nat) : Prop :=
  s.slotFree pa = true ∧ s.postedBefore s.ctx.id = false ∧
    s.blocked pa n = false ∧ s.postedOver s.ctx.id pa n = false ∧ s.mayReach s.ctx.core 0 pa = true ∧
    s.oldestAt 0 s.askedAt pa = true

/-- No copy holds an element it has read: nothing lands, and nothing in flight is left open, when an invalidation is acknowledged (R251,
R289). -/
abbrev State.still (s : State) : Prop := (s.allSlots.all fun q => decide (q.2.2.ahead = [])) = true

/-! The operands of the scalar class. -/

/-- The scalar name fields of a code of the scalar class, in the order D, A, B, with the classes they accept (R71, R73, R81, R97). -/
def scalarNames : Instr → List (List NameClass × NameF)
  | .add d a b | .sub d a b | .and d a b | .or d a b | .xor d a b | .andn d a b | .shl d a b | .shr d a b | .sar d a b
  | .rol d a b | .mul d a b | .mulhs d a b | .mulhn d a b | .divs d a b | .divn d a b | .rems d a b | .remn d a b
  | .mins d a b | .maxs d a b | .minn d a b | .maxn d a b | .seq d a b | .sne d a b | .slts d a b | .sltn d a b | .sles d a b
  | .slen d a b | .sel d a b | .bfx d a b | .bfi d a b
  | .faddS d a b | .fsubS d a b | .fmulS d a b | .fdivS d a b | .fminS d a b | .fmaxS d a b | .fcmpS d a b | .ffmaS d a b
  | .faddD d a b | .fsubD d a b | .fmulD d a b | .fdivD d a b | .fminD d a b | .fmaxD d a b | .fcmpD d a b | .ffmaD d a b =>
    [(clsS, d), (clsS, a), (clsS, b)]
  | .clz d a | .ctz d a | .popc d a | .bswap d a | .extsX8 d a | .extsX16 d a | .extsX32 d a | .extzN8 d a | .extzN16 d a
  | .extzN32 d a | .addi d a _ | .andi d a _ | .ori d a _ | .xori d a _ | .shli d a _ | .shri d a _ | .sari d a _
  | .sltsi d a _ | .sltni d a _ | .fclass d a _ | .fsqrt d a _ | .frsqe d a _ | .frcpe d a _ | .fcvt d a _
  | .ld d a _ _ | .ldAcq d a _ _ | .st d a _ _ | .stRel d a _ _ | .ldc d a _ | .pfetch d a _ | .sloop d a _ =>
    [(clsS, d), (clsS, a)]
  | .movi d _ | .lui d _ | .addpc d _ | .mfc d _ | .call d _ => [(clsS, d)]
  | .mtc a _ | .bEqz a _ | .bNez a _ | .bLtz a _ | .bGez a _ | .bGtz a _ | .bLez a _ | .jr a | .loop a _ => [(clsS, a)]
  | .aadd d a _ _ _ | .ainc d a _ _ _ | .amins d a _ _ _ | .amaxs d a _ _ _ | .aminn d a _ _ _ | .amaxn d a _ _ _
  | .aand d a _ _ _ | .aor d a _ _ _ | .axor d a _ _ _ | .axchg d a _ _ _ | .waitwEq d a | .waitwNe d a | .waitwGe d a =>
    [(clsS, d), (clsS1, a)]
  | .acas d a _ _ _ => [(if d = 127 then [] else clsS1, d), (clsS1, a)]
  | .claim d a b => [(clsS, d), (clsS1, a), (clsS1, b)]
  | .trace a | .tlbinvVa a | .tlbinvTok a => [(clsS1, a)]
  | _ => []

/-- The scalars such a code reads, in the order D, A, B; ACAS reads the scalar after D too (R221). -/
def scalarReads : Instr → List NameF
  | .sel d a b | .bfi d a b | .ffmaS d a b | .ffmaD d a b => [d, a, b]
  | .st d a _ _ | .stRel d a _ _ | .pfetch d a _ | .sloop d a _
  | .aadd d a _ _ _ | .ainc d a _ _ _ | .amins d a _ _ _ | .amaxs d a _ _ _ | .aminn d a _ _ _ | .amaxn d a _ _ _
  | .aand d a _ _ _ | .aor d a _ _ _ | .axor d a _ _ _ | .axchg d a _ _ _ | .waitwEq d a | .waitwNe d a | .waitwGe d a => [d, a]
  | .acas d a _ _ _ => [d, d + 1, a]
  | .movi _ _ | .lui _ _ | .addpc _ _ | .mfc _ _ | .call _ _ => []
  | .mtc a _ | .bEqz a _ | .bNez a _ | .bLtz a _ | .bGez a _ | .bGtz a _ | .bLez a _ | .jr a | .loop a _
  | .trace a | .tlbinvVa a | .tlbinvTok a => [a]
  | i => ((scalarNames i).drop 1).map Prod.snd

/-- Two bodies, first and last word addresses, are disjoint or nested (R114). -/
abbrev bodiesClear (a b x y : Nat) : Prop := y < a ∨ b < x ∨ (a ≤ x ∧ y ≤ b) ∨ (x ≤ a ∧ b ≤ y)

/-- LOOP may start a counted loop of l words; SLOOP a strip loop (R114, R208). -/
abbrev Context.mayLoop (c : Context) (l : BitVec 11) : Prop :=
  c.atLoopEnd = false ∧ c.counting = false ∧ c.gmSub = false ∧
    (c.stripping = true → bodiesClear (c.pc.toNat + 4) (c.pc.toNat + 4 * l.toNat) (c.sbeg.toNat + 4) c.send.toNat)
abbrev Context.mayStrip (c : Context) (l : BitVec 11) : Prop :=
  c.atLoopEnd = false ∧ c.stripping = false ∧ c.gmSub = false ∧
    (c.counting = true → bodiesClear (c.pc.toNat + 4) (c.pc.toNat + 4 * l.toNat) c.lbeg.toNat c.lend.toNat)

/-- No check of the place of an instruction, which comes before that of its names, fails (R114). -/
def Context.placed (c : Context) : Instr → Prop
  | .bEqz _ _ | .bNez _ _ | .bLtz _ _ | .bGez _ _ | .bGtz _ _ | .bLez _ _ | .call _ _ | .jr _ => c.atLoopEnd = false
  | .loop _ l => c.mayLoop l
  | .sloop _ _ l => c.mayStrip l
  | _ => True

/-- Its other checks pass: the mode, the register it names, the target (R25, R68, R110, R225, R228). MFC of a register it waits for is
not among them. -/
def Context.cleared (c : Context) : Instr → Prop
  | .mfc _ x => (c.sup = true ∨ ctlSupOnly x.toNat = false) ∧ ctlDrains x.toNat = false
  | .mtc _ x => ctlWritable c.sup x.toNat = true
  | .jr a => (c.read a).toNat % 4 = 0
  | .tlbinvVa _ | .tlbinvTok _ => c.sup = true
  | _ => True

/-- An access of a memory instruction: LD.x64 or ST.n64 (R281), the virtual address, the kind and the bytes. -/
structure Access where
  plain : Bool
  va : Word
  kind : AccessKind
  n : Nat

/-- The access an instruction of the scalar class makes (R216 to R224, R126). -/
def Context.accessOf (c : Context) : Instr → Option Access
  | .ld _ a f i => some ⟨decide (f.toNat = 6), c.read a + BitVec.ofInt 64 (i.toInt * loadSize f), .read, loadSize f⟩
  | .ldAcq _ a f i => some ⟨false, c.read a + BitVec.ofInt 64 (i.toInt * loadSize f), .read, loadSize f⟩
  | .st _ a f i => some ⟨decide (f.toNat = 3), c.read a + BitVec.ofInt 64 (i.toInt * storeSize f), .write, storeSize f⟩
  | .stRel _ a f i => some ⟨false, c.read a + BitVec.ofInt 64 (i.toInt * storeSize f), .write, storeSize f⟩
  | .ldc _ a i => some ⟨false, c.read a + BitVec.ofInt 64 (i.toInt * 8), .read, 8⟩
  | .aadd _ a w _ _ | .ainc _ a w _ _ | .amins _ a w _ _ | .amaxs _ a w _ _ | .aminn _ a w _ _ | .amaxn _ a w _ _
  | .aand _ a w _ _ | .aor _ a w _ _ | .axor _ a w _ _ | .axchg _ a w _ _ | .acas _ a w _ _ =>
    some ⟨false, c.read a, .write, if w then 4 else 8⟩
  | .claim _ a _ => some ⟨false, c.read a, .write, 16⟩
  | .waitwEq _ a | .waitwNe _ a | .waitwGe _ a => some ⟨false, c.read a, .read, 8⟩
  | _ => none

/-- An access to physical address pa goes on (R213, R215, R220, R243, R291): a store leaves its stream; an LDC reads anew, from the
constant cache's port; a releasing atomic has no own store before it. -/
def State.accessGoes (s : State) (i : Instr) (pa : Nat) (e : Page) (n : Nat) : Prop :=
  match i with
  | .st _ _ _ _ | .stRel _ _ _ _ => s.slotFree pa = true ∧ s.postedBefore s.ctx.id = false
  | .ldc _ _ _ => s.mayAccessTo cacheDest pa n = true ∧ s.blocked pa n = false ∧ s.cached pa e = none
  | .aadd _ _ _ o _ | .ainc _ _ _ o _ | .amins _ _ _ o _ | .amaxs _ _ _ o _ | .aminn _ _ _ o _ | .amaxn _ _ _ o _
  | .aand _ _ _ o _ | .aor _ _ _ o _ | .axor _ _ _ o _ | .axchg _ _ _ o _ | .acas _ _ _ o _ =>
    s.mayAccess pa n = true ∧ s.blocked pa n = false ∧ (2 ≤ o.toNat → s.postedBy s.ctx.id = false)
  | _ => s.mayAccess pa n = true ∧ s.blocked pa n = false

/-- The access of an instruction, if it makes one, goes on in device memory and meets no marked sector. -/
def State.accessed (s : State) (i : Instr) : Prop :=
  ∀ q, s.ctx.accessOf i = some q → ∃ pa e, s.translate q.plain q.va q.kind q.n = .ok (pa, e) ∧ spaceOf pa = .device ∧
    s.accessGoes i pa e q.n ∧ s.markCause (s.locOf pa) q.n = none

/-- A TLBINV, which no stop strikes once it has begun (R352). -/
def isInvalidation : Instr → Bool
  | .tlbinvVa _ | .tlbinvTok _ | .tlbinvAll => true
  | _ => false

/-- The instruction traps with nothing of it done: the state it traps in holds at most the request of its access (R291) and the mark of a
TLBINV that has begun (R352). -/
def State.traps (s : State) (i : Instr) (cause : Nat) (val : Word) (bank : Option Nat := none) : Prop :=
  ∃ asking : List Request, (s.ctx.accessOf i = none → asking = s.ctx.asking) ∧
    exec i s = .next
      ((s.withCtx { s.ctx with asking := asking, inv := s.ctx.inv || isInvalidation i }).takeTrap cause val bank)

/-! Invariants. -/

/-- Memory is in its canonical form: addresses rise, no listed byte reads as an unlisted one does. -/
abbrev State.memForm (s : State) : Prop := memWf s.mem = true

end Sys2Proof.Machine
end

