-- ==== Sys2Proof/Certificates/Slice0/Obligations.lean ====
section
/-! DEFINITION. The statements for the provers. Each docstring names the rules it rests on; "LOG n" is notes/assumptions/n.md. -/

open Sys2Proof Sys2Proof.Machine

/-! Encoding. -/

/-- Decoding the word of a well-formed instruction gives it back, with every operand (R69 to R81). -/
def Obligations.DecodeOfEncode : Prop :=
  ∀ (i : Instr) (w : Word32), i.wf = true → encode i = some w → decode w = some i

/-- A word the decoder accepts is the word of a well-formed instruction: every reserved bit is 0 (R73 steps 2 and 3). -/
def Obligations.EncodeOfDecode : Prop :=
  ∀ (w : Word32) (i : Instr), decode w = some i → i.wf = true ∧ encode i = some w

/-- Words that the spec writes out decode to what it says they are. -/
def Obligations.SpecWordsDecode : Prop :=
  decode 0xC1900005 = some (.movi 50 5) ∧ decode 0xC5800003 = some (.call 48 3) ∧
  decode 0x04091918 = some (.add 36 50 24) ∧ decode 0xD4000001 = some (.swin 1) ∧
  decode 0xD0022003 = some (.loop 34 3) ∧ decode 0x814A9001 = some (.addi 41 41 1) ∧
  decode 0x7B001800 = some (.jr 48) ∧ decode 0xD40008B0 = some (.vshapeImm 11 0) ∧
  decode 0xB52A6E00 = some (.stRel 37 38 3 0) ∧ decode 0xB93A6C01 = some (.ldAcq 39 38 6 1) ∧
  decode 0x70095314 = some (.aadd 37 38 false 2 4) ∧ decode 0x7509131C = some (.acas 36 38 false 3 4) ∧
  decode 0x7609D328 = some (.claim 39 38 40) ∧ decode 0x7B895301 = some (.waitwNe 37 38) ∧
  decode 0x2B000104 = some (.vmulw false false 0 2 4) ∧ decode 0x79000005 = some (.trap 5) ∧
  decode 0x7A001300 = some (.tlbinvVa 38) ∧ decode 0x7808C001 = some (.mfc 35 1)

/-- R74: a word whose major is 0x00 or 0x3F decodes to nothing, and a stream that reaches one traps with 0x01 and the word. -/
def Obligations.UnassignedMajorsTrap : Prop :=
  ∀ w : Word32, w.toNat / 2 ^ 26 = 0 ∨ w.toNat / 2 ^ 26 = 0x3F →
    decode w = none ∧
    ∀ s : State, s.held = false → s.inputs = [] → s.canIssue = true → s.entryDue = false →
      s.fetchWord s.ctx.pc = .ok w.toNat →
      step s = outcomeSettle s.nextIsBank s.ctx (.next (s.takeTrap 0x01 (w.setWidth 64) none))

/-! The step. -/

/-- The step runs the instruction that the four bytes at the pc decode to, little-endian (R68, R75): what it does is exec of that
instruction, then what follows an instruction of a stream. -/
def Obligations.StepRunsDecoded : Prop :=
  ∀ (s : State) (i : Instr) (pa : Nat) (e : Page) (rest : List Byte),
    s.held = false → s.inputs = [] → s.canIssue = true → s.entryDue = false →
    s.ctx.pc.toNat % 4 = 0 → s.translate false s.ctx.pc .exec 4 = .ok (pa, e) → s.blocked pa 4 = false →
    s.markCause (s.locOf pa) 4 = none → s.writes = [] → s.anyAhead = false →
    decodeBytes [memByte s.mem (s.locOf pa), memByte s.mem (s.locOf pa + 1), memByte s.mem (s.locOf pa + 2),
      memByte s.mem (s.locOf pa + 3)] = some (i, rest) →
    step s = outcomeSettle s.nextIsBank s.ctx (exec i s)

/-- R73, R75: a word that decodes to nothing traps with 0x01 and the word, but for a BRK with reserved bits set, which breaks first (R44,
R125); a fetch fault traps as the fetch says. What the outside
world supplies comes first: a step of the table without an encoding is executed and the step count goes on. While the device is
held in reset nothing runs (R401; LOG 29). What follows an instruction of a stream that runs alone on an idle device, and was the last its
core picked in that class: the step count and, unless it waits, the time since which its next instruction is ready (LOG 26); nothing else. -/
def Obligations.StepAround : Prop :=
  (∀ s : State, s.held = false → s.inputs = [] → s.canIssue = true → s.entryDue = false →
      (∀ w, s.fetchWord s.ctx.pc = .ok w → decode (BitVec.ofNat 32 w) = none →
        (isBreakWord (BitVec.ofNat 32 w) = false →
          step s = outcomeSettle s.nextIsBank s.ctx (.next (s.takeTrap 0x01 ((BitVec.ofNat 32 w).setWidth 64) none))) ∧
        (isBreakWord (BitVec.ofNat 32 w) = true → step s = outcomeSettle s.nextIsBank s.ctx (exec .brk s))) ∧
      (∀ k v b, s.fetchWord s.ctx.pc = .error (.trap k v b) →
        step s = outcomeSettle s.nextIsBank s.ctx (.next (s.takeTrap k v b)))) ∧
  (∀ (s : State) (i : Instr) (rest : List Input), s.held = false → s.inputs = .event i :: rest →
    step s = outcomeTock (exec i { s with inputs := rest })) ∧
  (∀ s : State, s.held = true → s.inputs = [] → step s = .fault .heldInReset) ∧
  ∀ (bank : Bool) (c : Context) (t : State), t.ctx.id = c.id → t.ctx.resident = true → t.ctx.stepOnce = false → t.ctx.sib = none →
    t.ctx.num = (if bank then (t.core t.ctx.core).lastBank else (t.core t.ctx.core).lastPick) → t.others = [] → t.busy = false →
    t.settle bank c = { t with
      ctx := { t.ctx with since := if t.ctx.stall ∨ t.ctx.parked ≠ none then t.ctx.since else t.now }
      now := t.now + 1 }

/-! Reset. -/

/-- R24, R27: the control registers of a stream at their reset values; the registers of R14, R18 and R21 closed, unbound and 0. -/
def Obligations.StreamStartRegisters : Prop :=
  ∀ (s : State) (seq l core base : Nat) (x : Launch),
    let c := s.newContext seq x l core base
    (∀ i ∈ [0x00, 0x01, 0x02, 0x05, 0x06, 0x07, 0x08, 0x09, 0x0A, 0x0B, 0x0C, 0x11, 0x12, 0x13, 0x15, 0x17, 0x18, 0x19, 0x1A, 0x1B,
      0x1C, 0x1E, 0x1F], c.held i = 0) ∧
    c.held 0x04 = 0x00400001 ∧ c.held 0x0D = 8 ∧ c.held 0x10 = 6 ∧ c.held 0x03 = x.record.vcode % 4 ∧
    c.held 0x14 = (x.record.wid l).toNat ∧ (x.record.tveca ≠ 0 → c.tvec = x.record.tveca.setWidth 56) ∧
    (∀ i, 0x40 ≤ i → i < 0x80 → c.held i = 0) ∧
    (∀ p, tabGet 0 c.scalars p = if p = 0 then x.record.args else if p = 1 then x.record.wid l else 0) ∧
    (∀ j n, ((c.bank j).row n).st = .closed ∧ (c.bank j).bound n = none ∧ (c.bank j).pred n = 0) ∧
    c.pc = x.record.entry

/-- R406, R351, R24: after a reset no byte is set, no stream runs, CYCLE is 0, PBUDGET is 1,600 W and SAVESETS 4, every core has
its features, no debt and no copy, and every tier is online in T0. Two points are the model's choices: that bytes outside device memory,
which R406 does not fill, read 0 (LOG 3), and that the self-test finds every core with its matrix slice and online (LOG 4). -/
def Obligations.ResetValues : Prop :=
  State.reset.memForm ∧ (∀ a, memByte State.reset.mem a = 0) ∧ State.reset.ctx.place = .absent ∧ State.reset.others = [] ∧
  State.reset.cycle = 0 ∧ State.reset.pbudget = 1600 ∧ State.reset.savesets = 4 ∧
  (∀ k, k < 1024 → (State.reset.core k).mat = true ∧ (State.reset.core k).online = true ∧ (State.reset.core k).debtWord = 0 ∧
    ∀ n, ((State.reset.core k).slot n).state = 0) ∧
  (∀ t, t < 128 → (State.reset.tier t).online = true ∧ State.reset.clock t = 0) ∧
  (∀ token, State.reset.boundNow token = none) ∧ ∀ q, (State.reset.queue q).token = 0 ∧ (State.reset.queue q).dbg = false

/-! Traps. -/

/-- R43, R37: trap entry saves the pc, the status, the cause and the value, enters supervisor mode with asynchronous causes
deferred, and goes to TVEC. Memory, scalars, the loop registers (R118), the shape and the window stay; memory also takes the record
of a traced stream (R381). An IRP entry takes, in slot order, the resume point of each instruction left in its bank's slots (R40, R168), told
for banks with no cross-bank one in flight; MPROG the progress of an MMF that the entry stops (R36, R273). R363's double fault, a synchronous
trap of the instruction at TVEC, halts the context with reason 5 and keeps the frame before it. The model's choices: the BANK of a cause of no
bank is the lowest of the gang (LOG 14), the double fault is taken in either mode (LOG 11), and while a part of the save would have to wait it
waits whole (LOG 17). -/
def Obligations.TrapEntry : Prop :=
  (∀ (s : State) (k : Nat) (v : Word) (b : Option Nat),
      (isAsync k = true ∨ s.ctx.pc ≠ s.ctx.tvec.setWidth 64) →
      let t := s.takeTrap k v b
      t.ctx.tpc = s.ctx.pc.setWidth 56 ∧
      t.ctx.tcause = BitVec.ofNat 13 (k + 256 * b.getD (lowBank s.ctx.gmBanks) + 4096 * (if k = 0x10 ∨ k = 0x11 ∨ k = 0x30 then 1 else 0)) ∧
      t.ctx.tval = v ∧
      t.ctx.tstat = BitVec.ofNat 3 (boolNat s.ctx.sup + 2 * boolNat s.ctx.ad + 4 * boolNat t.ctx.anyResume) ∧
      t.ctx.sup = true ∧ t.ctx.ad = true ∧ t.ctx.pc = s.ctx.tvec.setWidth 64 ∧
      t.ctx.scalars = s.ctx.scalars ∧ t.ctx.win = s.ctx.win ∧ t.ctx.tvec = s.ctx.tvec ∧ t.ctx.tscr = s.ctx.tscr ∧
      t.ctx.lc = s.ctx.lc ∧ t.ctx.lcPend = s.ctx.lcPend ∧ t.ctx.lcn = s.ctx.lcn ∧ t.ctx.lbeg = s.ctx.lbeg ∧ t.ctx.lend = s.ctx.lend ∧
      t.ctx.srem = s.ctx.srem ∧ t.ctx.smax = s.ctx.smax ∧ t.ctx.sord = s.ctx.sord ∧ t.ctx.sbeg = s.ctx.sbeg ∧ t.ctx.send = s.ctx.send ∧
      t.ctx.nrow = s.ctx.nrow ∧ t.ctx.ncol = s.ctx.ncol ∧ t.ctx.rm = s.ctx.rm ∧ t.ctx.fz = s.ctx.fz ∧ t.ctx.lt = s.ctx.lt ∧
      t.ctx.vcode = s.ctx.vcode ∧ t.ctx.gmBanks = s.ctx.gmBanks ∧ (s.ctx.trc = false → t.mem = s.mem ∧ t.others = s.others) ∧
      (s.ctx.sib = none → (∀ j ∈ bankList s.ctx.allBanks, ∀ q ∈ (s.ctx.bank j).slots, (slotForm q.instr).any SlotForm.cross = false) →
        ∀ j ∈ bankList s.ctx.gmBanks,
          let left := ((s.ctx.atStop s.now j (s.ctx.bank j).slots).filter fun e => !e.2).map Prod.fst
          ∀ i, (∀ q, left[i]? = some q →
              let e := if (slotForm q.instr).any SlotForm.whole then 0 else q.next
              tabGet 0 (t.ctx.bank j).irp i = BitVec.ofNat 64
                ((s.ctx.pc - q.pc).toNat / 4 % 2 ^ 32 * 2 ^ 32 + 2 ^ 31 + e / q.ncol * 2 ^ 16 + e % q.ncol)) ∧
            (left[i]? = none → tabGet 0 (t.ctx.bank j).irp i = 0)) ∧
      (∀ m, s.ctx.mmf = some m → m.released = false → m.stopped = false →
        let n := m.partialRow.1
        t.ctx.mprog.toNat = (n + (if n = grantKC m.mg then m.rows * 2 ^ 32 + grantN m.mg * 2 ^ 40 else 0) + 2 ^ 48) % 2 ^ 64 ∧
          ∃ x, t.ctx.mmf = some x ∧ x.stopped = true ∧ x.q = m.q ∧ x.mg = m.mg ∧ x.a = m.a ∧ x.b = m.b ∧ x.d = m.d) ∧
      ((s.ctx.mmf = none ∨ ∃ m, s.ctx.mmf = some m ∧ (m.released = true ∨ m.stopped = true)) →
        t.ctx.mprog = s.ctx.mprog ∧ t.ctx.mmf = s.ctx.mmf)) ∧
  ∀ (s : State) (k : Nat) (v : Word) (b : Option Nat), isAsync k = false → s.ctx.pc = s.ctx.tvec.setWidth 64 →
    let t := s.takeTrap k v b
    (s.haltWaits = false → t.ctx.place = .halted 5) ∧ (s.haltWaits = true → t = s.hold) ∧
      t.ctx.tpc = s.ctx.tpc ∧ t.ctx.tcause = s.ctx.tcause ∧ t.ctx.tval = s.ctx.tval ∧ t.ctx.tstat = s.ctx.tstat ∧ t.ctx.sup = s.ctx.sup

/-- R226, R125, R377: TRAP takes cause 0x20 at its own address, in either mode, with its code as TVAL; BRK takes breakpoint with
TVAL 0, or halts a context whose DBK is 1, once all of its save can perform (R356; that it waits whole is the model's choice, LOG 17). -/
def Obligations.SoftwareTraps : Prop :=
  ∀ (s : State) (x : BitVec 7),
    (s.ctx.pc ≠ s.ctx.tvec.setWidth 64 →
      ∃ t, exec (.trap x) s = .next t ∧ t.ctx.tcause.toNat % 256 = 0x20 ∧ t.ctx.tval = x.setWidth 64 ∧
        t.ctx.tpc = s.ctx.pc.setWidth 56 ∧ t.ctx.pc = s.ctx.tvec.setWidth 64 ∧ t.ctx.sup = true ∧ t.ctx.ad = true) ∧
    (s.ctx.dbk = false → exec .brk s = .next (s.takeTrap 0x21 0 none)) ∧
    (s.ctx.dbk = true → s.haltWaits = false → exec .brk s = .next (s.haltNow 4) ∧ (s.haltNow 4).ctx.place = .halted 4) ∧
    (s.ctx.dbk = true → s.haltWaits = true → exec .brk s = .next s.hold)

/-- R227, R84, R114: ERET restores the mode and the deferral from TSTAT, goes to TPC and clears V in the IRP entries of the gang (R169);
and where it traps, in the order of R44. It waits while an instruction that IRP names cannot be fetched yet. -/
def Obligations.EretResults : Prop :=
  (∀ s : State, s.ctx.atLoopEnd = false → s.ctx.sup = true → s.ctx.tpc.toNat % 4 = 0 →
      s.ctx.intact [] s.ctx.eretCtl → s.afterTrap.resumeWaits s.afterTrap.ctx = false →
      ∃ t, exec .eret s = .next t ∧ t.ctx.sup = s.ctx.tstat.getLsbD 0 ∧ t.ctx.ad = s.ctx.tstat.getLsbD 1 ∧
        t.ctx.pc = s.ctx.tpc.setWidth 64 ∧ (∀ j ∈ bankList s.ctx.gmBanks, ∀ q, q < 4 → (tabGet 0 (t.ctx.bank j).irp q).getLsbD 31 = false) ∧
        t.mem = s.mem ∧ t.ctx.scalars = s.ctx.scalars ∧ t.ctx.tvec = s.ctx.tvec ∧ t.ctx.tpc = s.ctx.tpc ∧
        t.ctx.tcause = s.ctx.tcause ∧ t.ctx.tval = s.ctx.tval ∧ t.ctx.tstat = s.ctx.tstat ∧ t.ctx.lc = s.ctx.lc ∧ t.ctx.send = s.ctx.send) ∧
  ∀ s : State,
    (s.ctx.atLoopEnd = true → exec .eret s = .next (s.takeTrap 0x01 0x79800000 none)) ∧
    (s.ctx.atLoopEnd = false → s.ctx.sup = false → exec .eret s = .next (s.takeTrap 0x05 0x79800000 none)) ∧
    (s.ctx.atLoopEnd = false → s.ctx.sup = true → s.ctx.tpc.toNat % 4 ≠ 0 →
      exec .eret s = .next (s.takeTrap 0x0F (s.ctx.tpc.setWidth 64) none)) ∧
    (s.ctx.atLoopEnd = false → s.ctx.sup = true → s.ctx.tpc.toNat % 4 = 0 → s.ctx.intact [] s.ctx.eretCtl →
      s.afterTrap.resumeWaits s.afterTrap.ctx = true → exec .eret s = .next s.hold)

/-- R38, R44: the asynchronous causes of a stream of one gang, taken at a boundary while AD is 0 in the order 0x30, 0x10, 0x11, and
not at all while AD is 1. Two clauses are the model's choices: the lowest bank of the gang as the BANK of 0x30 (LOG 14), and that bank
with mask 0 for a held 0x10 of which no bank is late any more (LOG 14, LOG 96). -/
def Obligations.AsyncEntry : Prop :=
  ∀ s : State, s.ctx.sib = none → s.ctx.markTrap = none →
    (s.ctx.ad = true → exec .asyncTrapEntry s = .next s) ∧
    (∀ v, s.ctx.ad = false → s.ctx.pend30 = some v →
      exec .asyncTrapEntry s = .next ((s.withCtx { s.ctx with pend30 := none }).takeTrap 0x30 v (some (lowBank s.ctx.gmBanks)))) ∧
    (s.ctx.ad = false → s.ctx.pend30 = none → s.ctx.pend10 = true →
      exec .asyncTrapEntry s = .next ((s.withCtx { s.ctx with pend10 := false }).takeTrap 0x10 (BitVec.ofNat 64 s.lateMask)
        (some ((s.lateBanks s.ctx s.ctx.gmBanks).headD (lowBank s.ctx.gmBanks))))) ∧
    (∀ n, s.ctx.ad = false → s.ctx.pend30 = none → s.ctx.pend10 = false → s.ctx.faultedSlot = some n →
      exec .asyncTrapEntry s = .next ((s.withCtx (s.ctx.withdraw n)).takeTrap 0x11 (s.copyFaultVal n) (some (lowBank s.ctx.gmBanks))))

/-! Control registers. -/

/-- R25, R225: user mode has no access to MPROG, TVEC, TPC, TCAUSE, TVAL, TSTAT, TSCR and IRP: MFC and MTC trap with 0x05. An MTC
to a register that the mode may read but not write traps with 0x02 and the index. -/
def Obligations.ControlAccessTraps : Prop :=
  ∀ (s : State) (n : NameF) (x : BitVec 7), isSz n →
    (s.ctx.sup = false → (x.toNat = 0x13 ∨ (0x16 ≤ x.toNat ∧ x.toNat ≤ 0x1B) ∨ 0x40 ≤ x.toNat) →
      exec (.mfc n x) s = .next (s.takeTrap 0x05 (wordOf (.mfc n x)) none) ∧
      exec (.mtc n x) s = .next (s.takeTrap 0x05 (wordOf (.mtc n x)) none)) ∧
    ((x.toNat ∈ [0x03, 0x04, 0x06, 0x07, 0x08, 0x09, 0x0B, 0x0C, 0x0E, 0x0F, 0x11, 0x12, 0x14, 0x1C, 0x1D, 0x1E] ∨
        (0x20 ≤ x.toNat ∧ x.toNat < 0x40) ∨ (s.ctx.sup = false ∧ (x.toNat = 0x15 ∨ x.toNat = 0x1F))) →
      exec (.mtc n x) s = .next (s.takeTrap 0x02 (x.setWidth 64) none))

/-- R225, R26: MFC writes the register into D. One of FPSR, MREP, RDEBT, FREF and KMAP waits for the bank-class work before it;
CYCLE is read at the MFC. -/
def Obligations.MfcReads : Prop :=
  ∀ (s : State) (d : NameF) (x : BitVec 7), isSz d →
    (s.ctx.sup = true ∨ ¬(x.toNat = 0x13 ∨ (0x16 ≤ x.toNat ∧ x.toNat ≤ 0x1B) ∨ 0x40 ≤ x.toNat)) →
    (x.toNat ∉ [0x01, 0x12, 0x0F, 0x11, 0x1C, 0x1D] → s.ctx.intact [] [x.toNat] [d] →
      exec (.mfc d x) s = .next (s.wrote d (BitVec.ofNat 64 (s.ctl s.ctx x.toNat)))) ∧
    (x.toNat ∈ [0x01, 0x12, 0x0F, 0x11, 0x1C] → s.drained.ctx.working = false → s.ctx.intact [] [] →
      s.drained.ctx.intact [] [x.toNat] [d] →
      exec (.mfc d x) s = .next (s.drained.wrote d (BitVec.ofNat 64 (s.drained.ctl s.drained.ctx x.toNat)))) ∧
    (x.toNat = 0x1D → s.ctx.intact [] [x.toNat] [d] → exec (.mfc d x) s = .next (s.tick.wrote d s.tick.cycle))

/-- R225: MTC writes the register; the supervisor's registers in supervisor mode. It clears a soft error of the register it writes (R369),
which for LC in an active counted loop is LCN (R116). -/
def Obligations.MtcWrites : Prop :=
  ∀ (s : State) (a : NameF) (x : BitVec 7), isSz a → s.ctx.intact [a] [] →
    ((x.toNat ∈ [0x00, 0x02, 0x05, 0x0A, 0x0D, 0x10] ∨
        (s.ctx.sup = true ∧ (x.toNat ∈ [0x13, 0x15, 0x16, 0x17, 0x18, 0x19, 0x1A, 0x1B, 0x1F] ∨ 0x40 ≤ x.toNat))) →
      exec (.mtc a x) s = .next (s.withCtx { s.ctx.setCtl x.toNat (s.ctx.read a) with
        bad := tabErase (s.ctx.setCtl x.toNat (s.ctx.read a)).bad
          (256 + if x.toNat = 0x0A ∧ s.ctx.counting = true then 0x1E else x.toNat) }).advance) ∧
    (x.toNat = 0x01 → s.drained.ctx.working = false →
      exec (.mtc a x) s = .next (s.drained.withCtx { s.drained.ctx.setCtl 1 (s.drained.ctx.read a) with
        bad := tabErase (s.drained.ctx.setCtl 1 (s.drained.ctx.read a)).bad 257 }).advance)

/-- R24 to R40: a control register reads back what was written to its fields; reserved fields read 0. A count written to LC while
no counted loop is active is in effect at once (R31); SLIPR and RFTH clamp (R32, R34). -/
def Obligations.ControlReadBack : Prop :=
  ∀ (s : State) (c : Context) (v : Word),
    (∀ im ∈ ([(0x00, 0xF), (0x01, 0x3F), (0x02, 0xF0), (0x05, 0xFFFFFFFF), (0x13, 0x1FFFFFFFFFFFF), (0x15, 3),
        (0x16, 0xFFFFFFFFFFFFFC), (0x17, 0xFFFFFFFFFFFFFF), (0x18, 0x1FFF), (0x19, 0xFFFFFFFFFFFFFFFF), (0x1A, 7),
        (0x1B, 0xFFFFFFFFFFFFFFFF)] : List (Nat × Word)), s.ctl (c.setCtl im.1 v) im.1 = (v &&& im.2).toNat) ∧
    (∀ i, 0x40 ≤ i → i < 0x80 → s.ctl (c.setCtl i v) i = (v &&& 0xFFFFFFFFFFFF7FFF).toNat) ∧
    (c.counting = false → s.ctl (c.setCtl 0x0A v) 0x0A = (v &&& 0xFFFFFFFF).toNat) ∧
    (c.counting = true → (c.setCtl 0x0A v).lcPend = true ∧ s.ctl (c.setCtl 0x0A v) 0x1E = (v &&& 0xFFFFFFFF).toNat ∧
      (c.setCtl 0x0A v).lc = c.lc) ∧
    s.ctl (c.setCtl 0x0D v) 0x0D = min 32 (v.toNat % 64) ∧
    s.ctl (c.setCtl 0x10 v) 0x10 = if v.toNat % 8 = 0 then 1 else v.toNat % 8

/-! Scalars. -/

/-- R22, R97: z reads 0 and a write to it changes nothing; a scalar written reads back, and every other physical scalar stays. -/
def Obligations.ScalarFile : Prop :=
  ∀ (c : Context) (v : Word),
    c.read 24 = 0 ∧ c.write 24 v = c ∧
    (∀ d, isSName d → (c.write d v).read d = v) ∧
    (∀ d a, isSName d → isSName a → a ≠ d → (c.write d v).read a = c.read a) ∧
    ∀ d p, p ≠ c.physical d → tabGet 0 (c.write d v).scalars p = tabGet 0 c.scalars p

/-- R99, R47: what each two-operand integer code writes to D. -/
def Obligations.IntegerResults : Prop :=
  ∀ (s : State) (d a b : NameF), isSz d → isSz a → isSz b → s.ctx.intact [a, b] [] [d] →
    let x := s.ctx.read a
    let y := s.ctx.read b
    exec (.add d a b) s = .next (s.wrote d (x + y)) ∧
    exec (.sub d a b) s = .next (s.wrote d (x - y)) ∧
    exec (.and d a b) s = .next (s.wrote d (x &&& y)) ∧
    exec (.or d a b) s = .next (s.wrote d (x ||| y)) ∧
    exec (.xor d a b) s = .next (s.wrote d (x ^^^ y)) ∧
    exec (.andn d a b) s = .next (s.wrote d (x &&& ~~~y)) ∧
    exec (.shl d a b) s = .next (s.wrote d (x <<< (y.toNat % 64))) ∧
    exec (.shr d a b) s = .next (s.wrote d (x >>> (y.toNat % 64))) ∧
    exec (.sar d a b) s = .next (s.wrote d (x.sshiftRight (y.toNat % 64))) ∧
    exec (.rol d a b) s = .next (s.wrote d (x.rotateLeft (y.toNat % 64))) ∧
    exec (.mul d a b) s = .next (s.wrote d (BitVec.ofNat 64 (x.toNat * y.toNat))) ∧
    exec (.mulhs d a b) s = .next (s.wrote d (BitVec.ofInt 64 (x.toInt * y.toInt / 2 ^ 64))) ∧
    exec (.mulhn d a b) s = .next (s.wrote d (BitVec.ofNat 64 (x.toNat * y.toNat / 2 ^ 64))) ∧
    exec (.divs d a b) s = .next (s.wrote d (if y = 0 then BitVec.allOnes 64 else BitVec.ofInt 64 (Int.tdiv x.toInt y.toInt))) ∧
    exec (.divn d a b) s = .next (s.wrote d (if y = 0 then BitVec.allOnes 64 else BitVec.ofNat 64 (x.toNat / y.toNat))) ∧
    exec (.rems d a b) s = .next (s.wrote d (if y = 0 then x else BitVec.ofInt 64 (Int.tmod x.toInt y.toInt))) ∧
    exec (.remn d a b) s = .next (s.wrote d (if y = 0 then x else BitVec.ofNat 64 (x.toNat % y.toNat))) ∧
    exec (.mins d a b) s = .next (s.wrote d (BitVec.ofInt 64 (min x.toInt y.toInt))) ∧
    exec (.maxs d a b) s = .next (s.wrote d (BitVec.ofInt 64 (max x.toInt y.toInt))) ∧
    exec (.minn d a b) s = .next (s.wrote d (BitVec.ofNat 64 (min x.toNat y.toNat))) ∧
    exec (.maxn d a b) s = .next (s.wrote d (BitVec.ofNat 64 (max x.toNat y.toNat))) ∧
    exec (.seq d a b) s = .next (s.wrote d (if x = y then 1 else 0)) ∧
    exec (.sne d a b) s = .next (s.wrote d (if x = y then 0 else 1)) ∧
    exec (.slts d a b) s = .next (s.wrote d (if x.toInt < y.toInt then 1 else 0)) ∧
    exec (.sltn d a b) s = .next (s.wrote d (if x.toNat < y.toNat then 1 else 0)) ∧
    exec (.sles d a b) s = .next (s.wrote d (if x.toInt ≤ y.toInt then 1 else 0)) ∧
    exec (.slen d a b) s = .next (s.wrote d (if x.toNat ≤ y.toNat then 1 else 0)) ∧
    exec (.bfx d a b) s = .next (s.wrote d
      (BitVec.ofNat 64 (x.toNat / 2 ^ (y.toNat % 64) % 2 ^ (min (min (y.toNat / 2 ^ 8 % 2 ^ 7) 64) (64 - y.toNat % 64)))))

/-- R99, R100: the codes that read the old D, SEL and BFI (bit i of the result comes from A inside the field and from D outside it),
and the one-operand integer codes. The counts are told by the bits they count. -/
def Obligations.IntegerUnaryResults : Prop :=
  (∀ (s : State) (d a b : NameF), isSz d → isSz a → isSz b → s.ctx.intact [d, a, b] [] →
      exec (.sel d a b) s = .next (s.wrote d (if s.ctx.read d = 0 then s.ctx.read b else s.ctx.read a)) ∧
      ∃ r : Word, exec (.bfi d a b) s = .next (s.wrote d r) ∧
        let y := (s.ctx.read b).toNat
        let w := min (min (y / 2 ^ 8 % 2 ^ 7) 64) (64 - y % 64)
        ∀ i < 64, r.getLsbD i =
          if y % 64 ≤ i ∧ i < y % 64 + w then (s.ctx.read a).getLsbD (i - y % 64) else (s.ctx.read d).getLsbD i) ∧
  ∀ (s : State) (d a : NameF), isSz d → isSz a → s.ctx.intact [a] [] [d] →
    let x := s.ctx.read a
    (∃ n, n ≤ 64 ∧ exec (.clz d a) s = .next (s.wrote d (BitVec.ofNat 64 n)) ∧
      (∀ i, i < n → x.getLsbD (63 - i) = false) ∧ (n < 64 → x.getLsbD (63 - n) = true)) ∧
    (∃ n, n ≤ 64 ∧ exec (.ctz d a) s = .next (s.wrote d (BitVec.ofNat 64 n)) ∧
      (∀ i, i < n → x.getLsbD i = false) ∧ (n < 64 → x.getLsbD n = true)) ∧
    exec (.popc d a) s = .next (s.wrote d (BitVec.ofNat 64 ((List.range 64).filter fun i => x.getLsbD i).length)) ∧
    (∃ r : Word, exec (.bswap d a) s = .next (s.wrote d r) ∧
      ∀ i < 8, r.extractLsb' (8 * (7 - i)) 8 = x.extractLsb' (8 * i) 8) ∧
    exec (.extsX8 d a) s = .next (s.wrote d ((x.setWidth 8).signExtend 64)) ∧
    exec (.extsX16 d a) s = .next (s.wrote d ((x.setWidth 16).signExtend 64)) ∧
    exec (.extsX32 d a) s = .next (s.wrote d ((x.setWidth 32).signExtend 64)) ∧
    exec (.extzN8 d a) s = .next (s.wrote d ((x.setWidth 8).setWidth 64)) ∧
    exec (.extzN16 d a) s = .next (s.wrote d ((x.setWidth 16).setWidth 64)) ∧
    exec (.extzN32 d a) s = .next (s.wrote d ((x.setWidth 32).setWidth 64))

/-- R101: the immediate codes, and the shifts' reserved bits; with MOVI, LUI and ADDPC (R81). -/
def Obligations.ImmediateResults : Prop :=
  (∀ w : Word32, w.toNat / 2 ^ 26 ∈ [0x24, 0x25, 0x26] → w.toNat / 2 ^ 6 % 2 ^ 6 ≠ 0 → decode w = none) ∧
  ∀ (s : State) (d a : NameF) (i : BitVec 12) (h : BitVec 6) (u : BitVec 17), isSz d → isSz a → s.ctx.intact [a] [] [d] →
    let x := s.ctx.read a
    exec (.addi d a i) s = .next (s.wrote d (x + i.signExtend 64)) ∧
    exec (.andi d a i) s = .next (s.wrote d (x &&& i.setWidth 64)) ∧
    exec (.ori d a i) s = .next (s.wrote d (x ||| i.setWidth 64)) ∧
    exec (.xori d a i) s = .next (s.wrote d (x ^^^ i.setWidth 64)) ∧
    exec (.shli d a h) s = .next (s.wrote d (x <<< h.toNat)) ∧
    exec (.shri d a h) s = .next (s.wrote d (x >>> h.toNat)) ∧
    exec (.sari d a h) s = .next (s.wrote d (x.sshiftRight h.toNat)) ∧
    exec (.sltsi d a i) s = .next (s.wrote d (if x.toInt < i.toInt then 1 else 0)) ∧
    exec (.sltni d a i) s = .next (s.wrote d (if x.toNat < (i.signExtend 64).toNat then 1 else 0)) ∧
    exec (.movi d u) s = .next (s.wrote d (u.signExtend 64)) ∧
    exec (.lui d u) s = .next (s.wrote d (u.signExtend 64 <<< 12)) ∧
    exec (.addpc d u) s = .next (s.wrote d (s.ctx.pc + u.signExtend 64 <<< 12))

/-- R103, R104, R106: the scalar floating-point codes complete with the result of their operation under FPCR, its flags ORed into
FPSR; FCLASS sets none. -/
def Obligations.FloatResults : Prop :=
  ∀ (s : State) (d a b : NameF), isSz d → isSz a → isSz b → s.ctx.intact [d, a, b] [0x00, 0x01] →
    let two := fun (op : ScalarFp) (f : Fmt) => Host.Outcome.next (φ := Fault) (ρ := Refusal) (s.wroteFp d
      (op.eval f (RMode.ofBits s.ctx.rm.toNat) s.ctx.fz (s.ctx.read a) (s.ctx.read b) (s.ctx.read d)))
    exec (.faddS d a b) s = two .add .f32 ∧ exec (.fsubS d a b) s = two .sub .f32 ∧ exec (.fmulS d a b) s = two .mul .f32 ∧
    exec (.fdivS d a b) s = two .div .f32 ∧ exec (.fminS d a b) s = two .min .f32 ∧ exec (.fmaxS d a b) s = two .max .f32 ∧
    exec (.fcmpS d a b) s = two .cmp .f32 ∧ exec (.ffmaS d a b) s = two .fma .f32 ∧
    exec (.faddD d a b) s = two .add .f64 ∧ exec (.fsubD d a b) s = two .sub .f64 ∧ exec (.fmulD d a b) s = two .mul .f64 ∧
    exec (.fdivD d a b) s = two .div .f64 ∧ exec (.fminD d a b) s = two .min .f64 ∧ exec (.fmaxD d a b) s = two .max .f64 ∧
    exec (.fcmpD d a b) s = two .cmp .f64 ∧ exec (.ffmaD d a b) s = two .fma .f64 ∧
    ∀ (dbl : Bool) (x : BitVec 4),
      let f := if dbl then Fmt.f64 else Fmt.f32
      exec (.fsqrt d a dbl) s = .next (s.wroteFp d (sqrtScalar f (RMode.ofBits s.ctx.rm.toNat) s.ctx.fz (s.ctx.read a))) ∧
      exec (.frsqe d a dbl) s = .next (s.wroteFp d (rsqeScalar f s.ctx.fz (s.ctx.read a))) ∧
      exec (.frcpe d a dbl) s = .next (s.wroteFp d (rcpeScalar f s.ctx.fz (s.ctx.read a))) ∧
      exec (.fclass d a dbl) s = .next (s.wrote d (classScalar f (s.ctx.read a))) ∧
      exec (.fcvt d a x) s = .next (s.wroteFp d (convertScalar x.toNat (RMode.ofBits s.ctx.rm.toNat) s.ctx.fz (s.ctx.read a)))

/-- R59 to R63, R65, R66, R104, R106: the values that the scalar floating-point codes write, read off the codes of their operands. NaN, zeros (a
subnormal counts as one under FZ), infinities and division by zero; FMIN and FMAX by the order of the codes, −0 below +0; FCVT of an integer,
rounded to the fraction's width, and of a float to an integer, rounded, with the bound it exceeds; FCVT between the two floats, of NaN,
infinity, zero, and of every FP32 value. -/
def Obligations.FloatValues : Prop :=
  ∀ (s : State) (d a b : NameF) (dbl : Bool), isSz d → isSz a → isSz b → s.ctx.intact [d, a, b] [0x00, 0x01] →
    let frac := if dbl then 52 else 23
    let ebits := if dbl then 11 else 8
    let bias := 2 ^ (ebits - 1) - 1
    let unit := 2 ^ frac
    let top := 2 ^ (ebits + frac)
    let infinity := (2 ^ ebits - 1) * unit
    let mag := fun n : NameF => (s.ctx.read n).toNat % top
    let neg := fun n : NameF => (s.ctx.read n).getLsbD (ebits + frac)
    let zero := fun n : NameF => mag n = 0 ∨ (s.ctx.fz = true ∧ mag n < unit)
    let finite := fun n : NameF => mag n < infinity
    let inf := fun n : NameF => mag n = infinity
    let nan := fun n : NameF => infinity < mag n
    let sig := fun n : NameF => infinity < mag n ∧ mag n % unit < unit / 2
    let flushed := fun n : NameF => if zero n then 0 else mag n
    let apart := neg a != neg b
    let down := decide (s.ctx.rm = 3)
    let signed := fun (g : Bool) (m : Nat) => (BitVec.ofNat 64 ((if g then top else 0) + m) : Word)
    let qnan := signed false (infinity + unit / 2)
    let quiet := fun n : NameF => if sig n then flagNV else 0
    let gives := fun (i : Instr) (v : Word) (fl : FpFlags) => exec i s = .next (s.wroteFp d (v, fl))
    let rounded := fun (g : Bool) (x y : Nat) => x / y + (if (match s.ctx.rm.toNat with
      | 0 => decide (y < 2 * (x % y) ∨ (2 * (x % y) = y ∧ x / y % 2 = 1))
      | 1 => false
      | 2 => !g && decide (x % y ≠ 0)
      | _ => g && decide (x % y ≠ 0)) then 1 else 0)
    let add := gives (if dbl then .faddD d a b else .faddS d a b)
    let sub := gives (if dbl then .fsubD d a b else .fsubS d a b)
    let mul := gives (if dbl then .fmulD d a b else .fmulS d a b)
    let div := gives (if dbl then .fdivD d a b else .fdivS d a b)
    let fma := gives (if dbl then .ffmaD d a b else .ffmaS d a b)
    let min := gives (if dbl then .fminD d a b else .fminS d a b)
    let max := gives (if dbl then .fmaxD d a b else .fmaxS d a b)
    let key := fun n : NameF => if neg n then -(flushed n : Int) - 1 else (flushed n : Int)
    let code := fun n : NameF => signed (neg n) (flushed n)
    let product := (inf a ∧ ¬nan b ∧ ¬zero b) ∨ (inf b ∧ ¬nan a ∧ ¬zero a)
    (nan a ∨ nan b → ∀ op ∈ [add, sub, mul, div], op qnan (quiet a ||| quiet b)) ∧
    (zero a → zero b → add (signed (if apart then down else neg a) 0) 0 ∧ sub (signed (if apart then neg a else down) 0) 0) ∧
    (zero a → ¬zero b → ¬nan b → add (code b) 0 ∧ sub (signed (!neg b) (mag b)) 0) ∧
    (zero b → ¬zero a → ¬nan a → add (code a) 0 ∧ sub (code a) 0) ∧
    (¬zero a → finite a → mag a = mag b → if apart then add (signed down 0) 0 else sub (signed down 0) 0) ∧
    (inf a → inf b → if apart then add qnan flagNV ∧ sub (code a) 0 else add (code a) 0 ∧ sub qnan flagNV) ∧
    (inf a → finite b → add (code a) 0 ∧ sub (code a) 0) ∧
    (finite a → inf b → add (code b) 0 ∧ sub (signed (!neg b) infinity) 0) ∧
    (zero a ∧ finite b ∨ finite a ∧ zero b → mul (signed apart 0) 0) ∧
    (zero a ∧ inf b ∨ inf a ∧ zero b → mul qnan flagNV ∧ fma qnan flagNV) ∧
    (product → mul (signed apart infinity) 0) ∧
    (zero a ∧ zero b ∨ inf a ∧ inf b → div qnan flagNV) ∧
    (¬zero a → finite a → zero b → div (signed apart infinity) flagDZ) ∧
    (inf a → finite b → div (signed apart infinity) 0) ∧
    (zero a ∧ finite b ∧ ¬zero b ∨ finite a ∧ inf b → div (signed apart 0) 0) ∧
    (nan a ∨ nan b → fma qnan (quiet a ||| quiet b ||| quiet d)) ∧
    ((finite a ∧ finite b) ∨ product → nan d → fma qnan (quiet d)) ∧
    (zero a ∧ finite b ∨ finite a ∧ zero b →
      (zero d → fma (signed (if apart = neg d then apart else down) 0) 0) ∧ (¬zero d → ¬nan d → fma (code d) 0)) ∧
    (finite a → finite b → inf d → fma (code d) 0) ∧
    (product → ¬nan d → if inf d ∧ apart ≠ neg d then fma qnan flagNV else fma (signed apart infinity) 0) ∧
    (nan a → nan b → min qnan (quiet a ||| quiet b) ∧ max qnan (quiet a ||| quiet b)) ∧
    (nan a → ¬nan b → min (code b) (quiet a) ∧ max (code b) (quiet a)) ∧
    (¬nan a → nan b → min (code a) (quiet b) ∧ max (code a) (quiet b)) ∧
    (¬nan a → ¬nan b → min (if key a ≤ key b then code a else code b) 0 ∧ max (if key a ≤ key b then code b else code a) 0) ∧
    (let sqrt := gives (.fsqrt d a dbl)
     let rsqe := gives (.frsqe d a dbl)
     let rcpe := gives (.frcpe d a dbl)
     (nan a → sqrt qnan (quiet a) ∧ rsqe qnan (quiet a) ∧ rcpe qnan (quiet a)) ∧
     (zero a → sqrt (signed (neg a) 0) 0 ∧ rsqe (signed (neg a) infinity) flagDZ ∧ rcpe (signed (neg a) infinity) flagDZ) ∧
     (¬zero a → ¬nan a → neg a = true → sqrt qnan flagNV ∧ rsqe qnan flagNV) ∧
     (inf a → (neg a = false → sqrt (code a) 0 ∧ rsqe 0 0) ∧ rcpe (signed (neg a) 0) 0)) ∧
    (∀ un : Bool,
      let o : BitVec 4 := if un then 1 else 0
      let v : Int := if un then ((s.ctx.read a).toNat : Int) else (s.ctx.read a).toInt
      let e := Nat.log2 v.natAbs
      let g := decide (v < 0)
      gives (.fcvt d a ((if dbl then 4 else 2) + o))
        (if v = 0 then 0 else signed g ((e + bias - 1) * unit + rounded g (v.natAbs * unit) (2 ^ e)))
        (if v.natAbs * unit % 2 ^ e = 0 then 0 else flagNX)) ∧
    (∀ un : Bool,
      let o : BitVec 4 := if un then 1 else 0
      let lo : Int := if un then 0 else -2 ^ 63
      let hi : Int := if un then 2 ^ 64 - 1 else 2 ^ 63 - 1
      let x := if zero a then 0 else (mag a % unit + if mag a < unit then 0 else unit) * 2 ^ (mag a / unit).max 1
      let y := 2 ^ (bias + frac)
      let v : Int := if neg a then -(rounded true x y : Int) else (rounded false x y : Int)
      let into := gives (.fcvt d a ((if dbl then 8 else 6) + o))
      (nan a → into 0 flagNV) ∧
      (inf a → into (BitVec.ofInt 64 (if neg a then lo else hi)) (flagNV ||| flagSAT)) ∧
      (finite a → if v < lo then into (BitVec.ofInt 64 lo) (flagNV ||| flagSAT) else if hi < v then into (BitVec.ofInt 64 hi) (flagNV ||| flagSAT)
        else into (BitVec.ofInt 64 v) (if x % y = 0 then 0 else flagNX))) ∧
    (let into := gives (.fcvt d a (if dbl then 0 else 1))
     let big := if dbl then 0xFF * 2 ^ 23 else 0x7FF * 2 ^ 52
     let sign := if neg a then (if dbl then 2 ^ 31 else 2 ^ 63) else 0
     (nan a → into (BitVec.ofNat 64 (if dbl then 0x7FC00000 else 0x7FF8000000000000)) (quiet a)) ∧
     (inf a → into (BitVec.ofNat 64 (sign + big)) 0) ∧ (zero a → into (BitVec.ofNat 64 sign) 0) ∧
     (dbl = false → finite a → ¬zero a → into (BitVec.ofNat 64 (sign + if unit ≤ mag a then mag a * 2 ^ 29 + 896 * 2 ^ 52
       else (Nat.log2 (mag a) + 873) * 2 ^ 52 + mag a * 2 ^ (52 - Nat.log2 (mag a)))) 0))

/-- R105, R107: the mask FCMP writes, exactly one of its bits 3 to 0 set: UN for a NaN, and otherwise LT, EQ or GT of the two
numbers, read here off their codes (of one sign the code orders the magnitudes, both zeros are equal, and FZ makes a subnormal
zero); NV only for a signalling NaN. The mask FCLASS writes, by sign, exponent and fraction, whatever FZ. -/
def Obligations.FloatMasks : Prop :=
  ∀ (s : State) (d a b : NameF) (dbl : Bool), isSz d → isSz a → isSz b → s.ctx.intact [a, b] [0x00, 0x01] [d] →
    let f := if dbl then Fmt.f64 else Fmt.f32
    let infinity := (2 ^ f.ebits - 1) * 2 ^ f.frac
    let mag := fun n : NameF => (s.ctx.read n).toNat % 2 ^ (f.ebits + f.frac)
    let neg := fun n : NameF => (s.ctx.read n).getLsbD (f.ebits + f.frac)
    let number := fun n : NameF => let m : Int := if s.ctx.fz = true ∧ mag n < 2 ^ f.frac then 0 else mag n
      if neg n then -m else m
    let signalling := fun n : NameF => infinity < mag n ∧ mag n % 2 ^ f.frac < 2 ^ (f.frac - 1)
    exec (if dbl then .fcmpD d a b else .fcmpS d a b) s = .next (s.wroteFp d
      (if infinity < mag a ∨ infinity < mag b then 8 else if number a < number b then 1 else if number a = number b then 2 else 4,
        if signalling a ∨ signalling b then flagNV else 0)) ∧
    exec (.fclass d a dbl) s = .next (s.wrote d
      (if infinity < mag a then (if signalling a then 256 else 512)
        else if mag a = infinity then (if neg a then 1 else 128)
        else if mag a = 0 then (if neg a then 8 else 16)
        else if mag a < 2 ^ f.frac then (if neg a then 4 else 32)
        else if neg a then 2 else 64))

/-- R97, R103, R115: away from the end word of a loop, a scalar code takes a trap, or changes D's scalar, FPSR (a floating-point
code) and the pc, and nothing else. -/
def Obligations.ScalarFrame : Prop :=
  ∀ (i : Instr) (d : NameF) (s t : State), scalarDest i = some d → s.ctx.atLoopEnd = false → exec i s = .next t →
    (∃ k v, (k = 0x02 ∨ k = 0x0D) ∧ t = s.takeTrap k v none) ∨
      (s.onlyScalar t d ∧ (setsFlags i = false → t.ctx.fpsr = s.ctx.fpsr) ∧ s.ctx.fpsr &&& t.ctx.fpsr = s.ctx.fpsr)

/-- R71, R73, R97: of every code of the scalar class, a name field that holds no name of a class it accepts traps with 0x02, the first in
the order D, A, B as TVAL; the classes are a scalar name or z for the codes of R99 to R107. R369: a scalar with a double-bit error traps
the instruction that reads it, with 0x0D and the register as TVAL, the first in that order; so do FPCR and FPSR for the codes of R103;
writing a scalar clears its error. A memory instruction meets it once its access has gone through. Two points are the model's choices: that
WIN with an error traps every instruction that names a scalar (LOG 75), and, of several registers with an error, the order of the one that
is named: WIN, then the scalars in the order D, A, B, then FPCR, then FPSR (LOG 28). -/
def Obligations.ScalarTraps : Prop :=
  (∀ i d, scalarDest i = some d → ∀ p ∈ scalarNames i, ∀ c : Context, c.accepts p.1 p.2 = true ↔ isSz p.2) ∧
  (∀ (i : Instr) (s : State) (before after : List (List NameClass × NameF)) (cls : List NameClass) (n : NameF),
    i.wf = true → scalarNames i = before ++ (cls, n) :: after → s.ctx.placed i → s.ctx.acceptsAll before →
    s.ctx.accepts cls n = false → s.traps i 0x02 (n.setWidth 64)) ∧
  (∀ (i : Instr) (s : State), i.wf = true → s.ctx.acceptsAll (scalarNames i) → s.ctx.placed i → s.ctx.cleared i → s.accessed i →
    let sound := fun n : NameF => isSName n → tabGet false s.ctx.bad (s.ctx.physical n) = false
    (∀ (before after : List NameF) (n : NameF), scalarReads i = before ++ n :: after → tabGet false s.ctx.bad 258 = false →
      (∀ m ∈ before, sound m) → isSName n → tabGet false s.ctx.bad (s.ctx.physical n) = true →
      s.traps i 0x0D (0x8000000000000000 + BitVec.ofNat 64 (s.ctx.physical n))) ∧
    ((∃ p ∈ scalarNames i, isSName p.2) → tabGet false s.ctx.bad 258 = true → s.traps i 0x0D 0xA000000000000002) ∧
    (setsFlags i = true → tabGet false s.ctx.bad 258 = false → (∀ m ∈ scalarReads i, sound m) →
      (tabGet false s.ctx.bad 256 = true → s.traps i 0x0D 0xA000000000000000) ∧
      (tabGet false s.ctx.bad 256 = false → tabGet false s.ctx.bad 257 = true → s.traps i 0x0D 0xA000000000000001))) ∧
  ∀ (c : Context) (a : NameF) (v : Word), isSName a → tabGet false (c.write a v).bad (c.physical a) = false

/-! Branches and loops. -/

/-- R108, R109: the branches go to their target when their condition holds, and on otherwise. One on a predicate waits for the compares in
flight that write it. -/
def Obligations.ConditionalBranches : Prop :=
  ∀ (s : State) (a : NameF) (o : BitVec 16), s.ctx.atLoopEnd = false →
    let taken := s.withCtx (s.ctx.branchTo (s.ctx.pc + BitVec.ofInt 64 (4 * o.toInt)))
    exec (.br o) s = .next taken ∧
    (isSz a → s.ctx.intact [a] [] →
      let x := (s.ctx.read a).toInt
      exec (.bEqz a o) s = .next (if x = 0 then taken else s.advance) ∧
      exec (.bNez a o) s = .next (if x ≠ 0 then taken else s.advance) ∧
      exec (.bLtz a o) s = .next (if x < 0 then taken else s.advance) ∧
      exec (.bGez a o) s = .next (if 0 ≤ x then taken else s.advance) ∧
      exec (.bGtz a o) s = .next (if 0 < x then taken else s.advance) ∧
      exec (.bLez a o) s = .next (if x ≤ 0 then taken else s.advance)) ∧
    (isPName a → s.ctx.intact [] [0x04, 0x0E] → s.ctx.predsIntact [a] →
      let u := s.predsReady [a]
      let taken := u.withCtx (u.ctx.branchTo (u.ctx.pc + BitVec.ofInt 64 (4 * o.toInt)))
      let bit := fun j e => ((u.ctx.bank j).pred (a.toNat - 16)).getLsbD e
      ((∃ j ∈ bankList u.ctx.gmBanks, ∃ e < u.ctx.vl, bit j e = true) → exec (.bAny a o) s = .next taken) ∧
      ((∀ j ∈ bankList u.ctx.gmBanks, ∀ e < u.ctx.vl, bit j e = false) → exec (.bAny a o) s = .next u.advance) ∧
      (u.ctx.vl ≤ 16384 → (∀ j ∈ bankList u.ctx.gmBanks, ∀ e < u.ctx.vl, bit j e = true) → exec (.bAll a o) s = .next taken) ∧
      ((∃ j ∈ bankList u.ctx.gmBanks, ∃ e < u.ctx.vl, bit j e = false) → exec (.bAll a o) s = .next u.advance) ∧
      (s.ctx.predsPending [a] (bankList s.ctx.gmBanks) = false → u = s))

/-- R110: CALL and JR go to their targets; CALL leaves the next word's address in D. R79, R124, R208: SWIN moves the window by 16 times its
step modulo 256; YIELD marks the stream as giving way; both go on to the next word. SWIN in a sub-gang traps. -/
def Obligations.JumpsAndWindow : Prop :=
  (∀ s : State, s.ctx.atLoopEnd = false →
    (∀ (d : NameF) (i : BitVec 19), isSz d → s.ctx.intact [] [] [d] →
      exec (.call d i) s = .next ((s.withCtx (s.ctx.write d (s.ctx.pc + 4))).wentTo (s.ctx.pc + BitVec.ofInt 64 (4 * i.toInt)))) ∧
    (∀ a : NameF, isSz a → s.ctx.intact [a] [] → (s.ctx.read a).toNat % 4 = 0 →
      ∃ t, exec (.jr a) s = .next t ∧ t.ctx.pc = s.ctx.read a ∧ t.ctx.scalars = s.ctx.scalars ∧ t.ctx.lc = s.ctx.lc ∧
        t.ctx.lcPend = s.ctx.lcPend ∧ t.ctx.send = s.ctx.send ∧ t.ctx.srem = s.ctx.srem ∧ t.mem = s.mem)) ∧
  ∀ (s : State) (n : BitVec 5),
    (s.ctx.gmSub = false → s.ctx.intact [] [0x02] →
      exec (.swin n) s = .next (s.withCtx { s.ctx.mend [0x02] with win := s.ctx.win + BitVec.ofInt 8 (16 * n.toInt) }).advance) ∧
    (s.ctx.gmSub = true → exec (.swin n) s = .next (s.takeTrap 0x01 (wordOf (.swin n)) none)) ∧
    (s.ctx.intact [] [] → exec .yield s = .next (s.withCtx { s.ctx with yielding := true }).advance)

/-- R114, R68, R208: a branch, CALL, JR, LOOP or SLOOP at the end word of an active loop traps with 0x01 and its word; so does LOOP while a
counted loop is active, SLOOP while a strip loop is, each with a body that partly overlaps the other loop's, and either in a sub-gang.
JR to a misaligned address traps with 0x0F. R207: GSPLIT traps with 0x01 in a sub-gang or while a loop is active, and with 0x0F and the
address when its target is misaligned. -/
def Obligations.BranchTraps : Prop :=
  ∀ s : State,
    (s.ctx.atLoopEnd = true →
      ∀ i, (∃ a o, i = .bEqz a o ∨ i = .bNez a o ∨ i = .bLtz a o ∨ i = .bGez a o ∨ i = .bGtz a o ∨ i = .bLez a o ∨ i = .bAny a o ∨
          i = .bAll a o ∨ i = .br o) ∨ (∃ d l, i = .call d l) ∨ (∃ a, i = .jr a) ∨ (∃ a l, i = .loop a l) ∨ (∃ d a l, i = .sloop d a l) →
        exec i s = .next (s.takeTrap 0x01 (wordOf i) none)) ∧
    (∀ a l, s.ctx.counting = true ∨ s.ctx.gmSub = true ∨
        (s.ctx.stripping = true ∧
          ¬bodiesClear (s.ctx.pc.toNat + 4) (s.ctx.pc.toNat + 4 * l.toNat) (s.ctx.sbeg.toNat + 4) s.ctx.send.toNat) →
      exec (.loop a l) s = .next (s.takeTrap 0x01 (wordOf (.loop a l)) none)) ∧
    (∀ d a l, s.ctx.stripping = true ∨ s.ctx.gmSub = true ∨
        (s.ctx.counting = true ∧ ¬bodiesClear (s.ctx.pc.toNat + 4) (s.ctx.pc.toNat + 4 * l.toNat) s.ctx.lbeg.toNat s.ctx.lend.toNat) →
      exec (.sloop d a l) s = .next (s.takeTrap 0x01 (wordOf (.sloop d a l)) none)) ∧
    (∀ a, s.ctx.atLoopEnd = false → isSz a → (s.ctx.read a).toNat % 4 ≠ 0 →
      exec (.jr a) s = .next (s.takeTrap 0x0F (s.ctx.read a) none)) ∧
    ∀ a b, (s.ctx.gmSub = true ∨ s.ctx.counting = true ∨ s.ctx.stripping = true →
        exec (.gsplit a b) s = .next (s.takeTrap 0x01 (wordOf (.gsplit a b)) none)) ∧
      (s.ctx.gmSub = false → s.ctx.counting = false → s.ctx.stripping = false → isPName a → isSName b → (s.ctx.read b).toNat % 4 ≠ 0 →
        exec (.gsplit a b) s = .next (s.takeTrap 0x0F (s.ctx.read b) none))

/-- R117: a taken BR ends the loops whose body it leaves, and no other. -/
def Obligations.BranchEndsLoops : Prop :=
  ∀ (s : State) (o : BitVec 16), s.ctx.atLoopEnd = false →
    ∃ t, exec (.br o) s = .next t ∧
      let dst := s.ctx.pc + BitVec.ofInt 64 (4 * o.toInt)
      t.ctx.pc = dst ∧
      (s.ctx.counting = true → s.ctx.inCounted s.ctx.pc = true → s.ctx.inCounted dst = false → t.ctx.counting = false) ∧
      (s.ctx.stripping = true → s.ctx.inStrip s.ctx.pc = true → s.ctx.inStrip dst = false →
        t.ctx.stripping = false ∧ t.ctx.srem = 0) ∧
      (s.ctx.inCounted s.ctx.pc = false ∨ s.ctx.inCounted dst = true → t.ctx.lc = s.ctx.lc ∧ t.ctx.lcPend = s.ctx.lcPend) ∧
      (s.ctx.inStrip s.ctx.pc = false ∨ s.ctx.inStrip dst = true → t.ctx.send = s.ctx.send ∧ t.ctx.srem = s.ctx.srem) ∧
      t.ctx.lbeg = s.ctx.lbeg ∧ t.ctx.lend = s.ctx.lend ∧ t.ctx.sbeg = s.ctx.sbeg ∧ t.ctx.sord = s.ctx.sord ∧
      t.ctx.scalars = s.ctx.scalars ∧ t.mem = s.mem

/-- R113, R119, R120: LOOP takes its count, at most 0xFFFF_FFFF, and its body; SLOOP takes the total and the strip maximum and grants
the first strip; a count or a total of 0 skips the body. R114: the other loop may be active where the two bodies are nested or disjoint. -/
def Obligations.LoopStarts : Prop :=
  (∀ (s : State) (a : NameF) (l : BitVec 11), s.ctx.mayLoop l → isSz a → s.ctx.intact [a] [] → s.ctx.pc.toNat + 4 * l.toNat + 4 < 2 ^ 56 →
      let n := min (s.ctx.read a).toNat 0xFFFFFFFF
      ∃ t, exec (.loop a l) s = .next t ∧ t.ctx.lbeg.toNat = s.ctx.pc.toNat + 4 ∧ t.ctx.lend.toNat = s.ctx.pc.toNat + 4 * l.toNat ∧
        (n = 0 → t.ctx.pc.toNat = s.ctx.pc.toNat + 4 * l.toNat + 4 ∧ t.ctx.counting = false) ∧
        (n ≠ 0 → t.ctx.pc.toNat = s.ctx.pc.toNat + 4 ∧ t.ctx.lc.toNat = n ∧ t.ctx.lcPend = false) ∧
        t.ctx.scalars = s.ctx.scalars ∧ t.ctx.fpsr = s.ctx.fpsr ∧ t.ctx.srem = s.ctx.srem ∧ t.ctx.send = s.ctx.send ∧ t.mem = s.mem) ∧
  ∀ (s : State) (d a : NameF) (l : BitVec 11), s.ctx.mayStrip l → isSz d → isSz a → s.ctx.intact [d, a] [] → s.ctx.pc.toNat + 4 * l.toNat + 4 < 2 ^ 56 →
    let total := min (s.ctx.read a).toNat 0xFFFFFFFF
    let m := (s.ctx.read d).toNat
    let most := if m = 0 ∨ 16384 < m then 16384 else m
    ∃ t, exec (.sloop d a l) s = .next t ∧ t.ctx.smax.toNat = most ∧ t.ctx.sbeg.toNat = s.ctx.pc.toNat ∧ t.ctx.sord = 0 ∧
      (total = 0 → t.ctx.pc.toNat = s.ctx.pc.toNat + 4 * l.toNat + 4 ∧ t.ctx.send = 0 ∧ t.ctx.srem = 0 ∧
        t.ctx.nrow = s.ctx.nrow ∧ t.ctx.ncol = s.ctx.ncol) ∧
      (total ≠ 0 → t.ctx.pc.toNat = s.ctx.pc.toNat + 4 ∧ t.ctx.send.toNat = s.ctx.pc.toNat + 4 * l.toNat ∧
        t.ctx.nrow = 1 ∧ t.ctx.ncol = min total most ∧ t.ctx.srem.toNat = total - min total most) ∧
      t.ctx.scalars = s.ctx.scalars ∧ t.ctx.fpsr = s.ctx.fpsr

/-- R115, R120, R124: the iteration boundary, shown by a NOP: at the end word of the counted loop, of the strip loop, of both nested, and
away from them. That a loop register the boundary uses and that holds a double-bit error (R369) traps the instruction at the end word before
its own effect is the model's choice (LOG 75). -/
def Obligations.IterationBoundary : Prop :=
  ∀ s : State,
    let c := s.ctx
    let hitC := c.counting = true ∧ c.pc = c.lend.setWidth 64
    let hitS := c.stripping = true ∧ c.pc = c.send.setWidth 64
    let left := if c.lcPend then c.lcn else c.lc - 1
    (∀ v, c.loopError = some v → exec .nop s = .next (s.takeTrap 0x0D v none)) ∧
    (c.loopError = none → ∃ t, exec .nop s = .next t ∧
      (¬hitC → ¬hitS → t = s.wentOn) ∧
      (hitC → ¬hitS → t.ctx.lc = left ∧ t.ctx.lcPend = false ∧ t.ctx.pc = (if left ≠ 0 then c.lbeg.setWidth 64 else c.pc + 4) ∧
        t.ctx.send = c.send ∧ t.ctx.srem = c.srem ∧ t.ctx.sord = c.sord) ∧
      (hitS → ¬hitC →
        (c.srem ≠ 0 → t.ctx.sord = c.sord + 1 ∧ t.ctx.nrow = 1 ∧ t.ctx.ncol = min c.srem.toNat c.smax.toNat ∧
          t.ctx.srem = c.srem - BitVec.ofNat 32 (min c.srem.toNat c.smax.toNat) ∧ t.ctx.pc = c.sbeg.setWidth 64 + 4 ∧ t.ctx.send = c.send) ∧
        (c.srem = 0 → t.ctx.send = 0 ∧ t.ctx.pc = c.pc + 4 ∧ t.ctx.nrow = c.nrow ∧ t.ctx.ncol = c.ncol) ∧
        t.ctx.lc = c.lc ∧ t.ctx.lcPend = c.lcPend) ∧
      (hitC → hitS → c.sbeg.toNat + 4 ≤ c.lbeg.toNat →
        (left ≠ 0 → t.ctx.lc = left ∧ t.ctx.pc = c.lbeg.setWidth 64 ∧ t.ctx.send = c.send ∧ t.ctx.srem = c.srem) ∧
        (left = 0 → c.srem ≠ 0 → t.ctx.lc = 0 ∧ t.ctx.pc = c.sbeg.setWidth 64 + 4 ∧ t.ctx.sord = c.sord + 1) ∧
        (left = 0 → c.srem = 0 → t.ctx.lc = 0 ∧ t.ctx.send = 0 ∧ t.ctx.pc = c.pc + 4)) ∧
      (hitC → hitS → c.lbeg.toNat < c.sbeg.toNat + 4 →
        (c.srem ≠ 0 → t.ctx.pc = c.sbeg.setWidth 64 + 4 ∧ t.ctx.sord = c.sord + 1 ∧ t.ctx.lc = c.lc) ∧
        (c.srem = 0 → left ≠ 0 → t.ctx.send = 0 ∧ t.ctx.lc = left ∧ t.ctx.pc = c.lbeg.setWidth 64) ∧
        (c.srem = 0 → left = 0 → t.ctx.send = 0 ∧ t.ctx.lc = 0 ∧ t.ctx.pc = c.pc + 4)) ∧
      t.ctx.scalars = c.scalars ∧ t.ctx.fpsr = c.fpsr ∧ t.ctx.lbeg = c.lbeg ∧ t.ctx.lend = c.lend)

/-! Memory. -/

/-- R213: what is written to memory reads back, byte by byte, little-endian, and every byte outside keeps its value. A copy in
flight leaves bytes open (R244), so none is here. R135, R145: each dirty beat of a register lands in its row, byte by byte, and
nothing else of its rows changes; a copied row reads as its source did. The cells of rows are those of placed addresses. -/
def Obligations.MemoryBytes : Prop :=
  (∀ (s : State) (pa n v : Nat), s.anyAhead = false →
      (∀ k, k < n → memByte (s.writeCells pa n v).mem (s.locOf pa + k) = BitVec.ofNat 8 (v / 2 ^ (8 * k))) ∧
      (∀ a, a < s.locOf pa ∨ s.locOf pa + n ≤ a → memByte (s.writeCells pa n v).mem a = memByte s.mem a) ∧
      (n ≤ 64 → (s.writeCells pa n v).readCells pa n = v % 2 ^ (8 * n)) ∧
      (s.memForm → (s.writeCells pa n v).memForm)) ∧
  ∀ (s : State), s.anyAhead = false →
    (∀ (r : RowReg) (segs : Nat), 0 < segs → segs ≤ 8 → r.base + (segs - 1) * 2 ^ 22 + 2 ^ 13 ≤ 2 ^ 39 →
      (∀ e k, e < 32 * segs → k < 256 → memByte (s.writeBeats r segs).mem (r.base + e / 32 * 2 ^ 22 + e % 32 * 256 + k) =
        if r.dirty.getLsbD e then r.latch.extractLsb' (8 * (256 * e + k)) 8
        else memByte s.mem (r.base + e / 32 * 2 ^ 22 + e % 32 * 256 + k)) ∧
      ∀ x, (∀ i < segs, x < r.base + i * 2 ^ 22 ∨ r.base + i * 2 ^ 22 + 2 ^ 13 ≤ x) → memByte (s.writeBeats r segs).mem x = memByte s.mem x) ∧
    ∀ p q : Nat, s.memForm → p % 8192 = 0 → q % 8192 = 0 → p < 2 ^ 39 → q < 2 ^ 39 →
      (∀ k < 8192, memByte (s.copyRow p q).mem (q + k) = memByte s.mem (p + k)) ∧
      ∀ x, x < q ∨ q + 8192 ≤ x → memByte (s.copyRow p q).mem x = memByte s.mem x

/-- R216, R80, R213: LD and LD.acq write D with the number at base plus scaled offset, zero-extended (fn 0 to 2) or sign-extended
(fn 3 to 5), and change no memory. An LD.x64 of the control space reads its register (R281). -/
def Obligations.LoadResults : Prop :=
  ∀ (s : State) (d a : NameF) (f : BitVec 3) (i : BitVec 9) (pa : Nat) (e : Page),
    isSz d → isSz a → s.ctx.intact [a] [] [d] → f.toNat ≤ 6 →
    let n : Nat := if f.toNat = 6 then 8 else 2 ^ (f.toNat % 3)
    let va := s.ctx.read a + BitVec.ofInt 64 (i.toInt * n)
    let ext := fun v : Nat => if f.toNat < 3 then BitVec.ofNat 64 v else (BitVec.ofNat (8 * n) v).signExtend 64
    (s.translate (decide (f.toNat = 6)) va .read n = .ok (pa, e) →
      (spaceOf pa ≠ .control → s.loadable pa n →
        exec (.ld d a f i) s = .next ((s.hasRead pa n).wrote d (ext (s.readCells pa n))) ∧ (s.hasRead pa n).mem = s.mem) ∧
      (spaceOf pa = .control → s.mayAccess pa n = true →
        exec (.ld d a f i) s = .next (s.wrote d (ext (s.readControl (pa % 2 ^ 48)))))) ∧
    (s.translate false va .read n = .ok (pa, e) → s.loadable pa n →
      exec (.ldAcq d a f i) s = .next ((s.hasRead pa n).wrote d (ext (s.readCells pa n))))

/-- R216, R213, R246: ST and ST.rel store the low bytes of D at base plus scaled offset, and nothing else in memory: at once, or,
while a detent, a sleeping tier or (ST.rel) an own earlier store holds them, later; the stream goes on either way. R214 only has a store
leave its stream: that a plain one which nothing holds performs in its own step is the model's choice (LOG 2). A traced strip stores
records too (R381), so tracing is off where memory is told. -/
def Obligations.StoreResults : Prop :=
  ∀ (s : State) (d a : NameF) (f : BitVec 2) (i : BitVec 9) (pa : Nat) (e : Page),
    isSz d → isSz a → s.ctx.intact [d, a] [] → s.slotFree pa = true →
    s.postedBefore s.ctx.id = false →
    let n : Nat := 2 ^ f.toNat
    let va := s.ctx.read a + BitVec.ofInt 64 (i.toInt * n)
    let v := (s.ctx.read d).toNat % 2 ^ (8 * n)
    let done := ((s.writeCells pa n v).serve pa).advance
    (s.translate (decide (f.toNat = 3)) va .write n = .ok (pa, e) →
      (spaceOf pa ≠ .control → s.storable pa n → exec (.st d a f i) s = .next done) ∧
      (spaceOf pa ≠ .control → s.blocked pa n = true →
        ∃ p, exec (.st d a f i) s = .next ({ s with posted := s.posted ++ [p] }).advance ∧ p.pa = pa ∧ p.n = n ∧ p.v = v ∧
          p.ctx = s.ctx.id ∧ p.rel = false) ∧
      (spaceOf pa = .control →
        exec (.st d a f i) s = .next (s.storeControl (pa % 2 ^ 48) (BitVec.ofNat 64 v)).advance)) ∧
    (s.translate false va .write n = .ok (pa, e) →
      (s.storable pa n → s.postedBy s.ctx.id = false → exec (.stRel d a f i) s = .next done) ∧
      (s.postedBy s.ctx.id = true →
        ∃ p, exec (.stRel d a f i) s = .next ({ s with posted := s.posted ++ [p] }).advance ∧ p.pa = pa ∧ p.n = n ∧ p.v = v ∧
          p.ctx = s.ctx.id ∧ p.rel = true)) ∧
    (s.ctx.trc = false →
      (∀ k, k < n → memByte done.mem (s.locOf pa + k) = ((s.ctx.read d).extractLsb' (8 * k) 8)) ∧
      (∀ x, x < s.locOf pa ∨ s.locOf pa + n ≤ x → memByte done.mem x = memByte s.mem x) ∧
      done.ctx.scalars = s.ctx.scalars ∧ done.ctx.fpsr = s.ctx.fpsr ∧ done.ctx.tvec = s.ctx.tvec ∧ done.ctx.sup = s.ctx.sup)

/-- R41, R213, R216: where the access of a memory instruction of the scalar class traps: LD, LD.acq, ST, ST.rel, LDC, the eleven atomics
in both widths, CLAIM and the three WAITW. A misaligned address traps with 0x0F; an address at or above 2^56 with 0x0C; a failed
translation as the walk says; a page without the permission with 0x09; device memory that is not there with 0x0C; and a marked sector,
which a store does not read, with its cause. TVAL is the address. -/
def Obligations.AccessTraps : Prop :=
  ∀ (i : Instr) (s : State) (q : Access), i.wf = true → s.ctx.acceptsAll (scalarNames i) → s.ctx.accessOf i = some q →
    (q.va.toNat % q.n ≠ 0 → s.traps i 0x0F q.va) ∧
    (q.va.toNat % q.n = 0 → 2 ^ 56 ≤ q.va.toNat → s.traps i 0x0C q.va) ∧
    (q.va.toNat % q.n = 0 → q.va.toNat < 2 ^ 56 →
      (∀ k v b, s.pageOf s.ctx.owner q.va.toNat = .error (.trap k v b) → s.traps i k v b) ∧
      ∀ e, s.pageOf s.ctx.owner q.va.toNat = .ok e →
        (e.permits q.kind s.ctx.sup = false → s.traps i 0x09 q.va) ∧
        (e.permits q.kind s.ctx.sup = true →
          let pa := e.frame + q.va.toNat % e.size
          spaceOf pa = .device →
          (s.backed q.plain pa = false → s.traps i 0x0C q.va) ∧
          (∀ k, s.backed q.plain pa = true → (∀ d a f x, i ≠ .st d a f x ∧ i ≠ .stRel d a f x) → s.accessGoes i pa e q.n →
            s.markCause (s.locOf pa) q.n = some k → s.traps i k q.va)))

/-- R219, R220, R221: an atomic replaces the word at A by the operation of its old value and D, and writes D with the old value,
sign-extended for AMINS and AMAXS; every scope and order does the same on one core. -/
def Obligations.AtomicResults : Prop :=
  ∀ (s : State) (d a : NameF) (w32 : Bool) (o : BitVec 2) (c : BitVec 3) (pa : Nat) (e : Page),
    isSz d → isSName a → s.ctx.intact [d, a] [] → c.toNat ≤ 5 →
    let n := if w32 then 4 else 8
    s.locate s.ctx.owner s.ctx.sup (s.ctx.read a) .write n = .ok (pa, e) → s.backed false pa = true →
    (2 ≤ o.toNat → s.postedBy s.ctx.id = false) → s.loadable pa n →
    let old := s.readCells pa n
    let x := (s.ctx.read d).toNat % 2 ^ (8 * n)
    let int := fun v : Nat => (BitVec.ofNat (8 * n) v).toInt
    let done := fun (new : Nat) (r : Word) =>
      Host.Outcome.next (φ := Fault) (ρ := Refusal) (((s.hasRead pa n).writeCells pa n new).wrote d r)
    let zext := BitVec.ofNat 64 old
    let sxt := (BitVec.ofNat (8 * n) old).signExtend 64
    exec (.aadd d a w32 o c) s = done ((old + x) % 2 ^ (8 * n)) zext ∧
    exec (.axchg d a w32 o c) s = done x zext ∧
    (isSName d → d.toNat ≠ 127 → s.ctx.intact [d + 1] [] →
      exec (.acas d a w32 o c) s =
        done (if old = x then (s.ctx.read (d + 1)).toNat % 2 ^ (8 * n) else old) zext) ∧
    (isHost pa = false →
      exec (.ainc d a w32 o c) s = done (if x ≤ old then 0 else old + 1) zext ∧
      exec (.amins d a w32 o c) s = done (if int old ≤ int x then old else x) sxt ∧
      exec (.amaxs d a w32 o c) s = done (if int old ≤ int x then x else old) sxt ∧
      exec (.aminn d a w32 o c) s = done (min old x) zext ∧
      exec (.amaxn d a w32 o c) s = done (max old x) zext ∧
      exec (.aand d a w32 o c) s = done (old &&& x) zext ∧
      exec (.aor d a w32 o c) s = done (old ||| x) zext ∧
      exec (.axor d a w32 o c) s = done (old ^^^ x) zext) ∧
    (isHost pa = true → ∀ i ∈ ([.ainc d a w32 o c, .amins d a w32 o c, .amaxs d a w32 o c, .aminn d a w32 o c, .amaxn d a w32 o c,
        .aand d a w32 o c, .aor d a w32 o c, .axor d a w32 o c] : List Instr), exec i s =
      .next ((if 2 ≤ o.toNat ∧ s.postedBy s.ctx.id = true then s else s.asked false (s.ctx.read a) .write n).takeTrap 0x09 (s.ctx.read a) none))

/-- R223, R224: CLAIM grants min(B, limit − next, 16,384 / NROW) elements of the work-queue word pair at A: D takes the old next,
NCOL the grant, and next moves on by it; with nothing left D takes all ones and the shape stays. A counter word in a host or peer window
traps with 0x09; R281, R286: one in control space or in no space, with 0x0C. -/
def Obligations.ClaimResults : Prop :=
  ∀ (s : State) (d a b : NameF) (pa : Nat) (e : Page),
    isSz d → isSName a → isSName b → s.ctx.intact [a, b] [0x04] [d] →
    s.locate s.ctx.owner s.ctx.sup (s.ctx.read a) .write 16 = .ok (pa, e) →
    let traps := fun k : Nat =>
      exec (.claim d a b) s = .next ((s.asked false (s.ctx.read a) .write 16).takeTrap k (s.ctx.read a) none)
    ((∃ w, spaceOf pa = .host w ∨ spaceOf pa = .druthes w) → traps 0x09) ∧ (spaceOf pa = .control ∨ spaceOf pa = .none → traps 0x0C) ∧
    (spaceOf pa = .device → s.backed false pa = true → s.loadable pa 16 →
      let next := s.readCells pa 16 % 2 ^ 64
      let lim := s.readCells pa 16 / 2 ^ 64
      let g := min (min (s.ctx.read b).toNat (16384 / s.ctx.nrow)) (lim - next)
      let u := fun x : Nat => (s.hasRead pa 16).writeCells pa 8 x
      (lim ≤ next ∨ g = 0 → exec (.claim d a b) s = .next ((u next).wrote d 0xFFFFFFFFFFFFFFFF)) ∧
      (next < lim → g ≠ 0 →
        exec (.claim d a b) s = .next (((u ((next + g) % 2 ^ 64)).withCtx
          { (u ((next + g) % 2 ^ 64)).ctx.write d (BitVec.ofNat 64 next) with ncol := g }).advance)))

/-- R126, R127: WAITW.eq, WAITW.ne and WAITW.ge each complete, with the value in D, when the word at A satisfies their condition
against the old D; otherwise they park the stream on the word with nothing written (R311: its core watches it). -/
def Obligations.WaitResults : Prop :=
  ∀ (s : State) (d a : NameF) (pa : Nat) (e : Page),
    isSz d → isSName a → s.ctx.intact [d, a] [] → s.translate false (s.ctx.read a) .read 8 = .ok (pa, e) → s.loadable pa 8 →
    let v := BitVec.ofNat 64 (s.readCells pa 8)
    let done := (s.hasRead pa 8).wrote d v
    let parks := ((s.hasRead pa 8).withCtx { s.ctx with stall := false, asking := [], parked := some (s.locOf pa) }).watchWord
      s.ctx.core (s.locOf pa)
    (v = s.ctx.read d → exec (.waitwEq d a) s = .next done) ∧ (v ≠ s.ctx.read d → exec (.waitwEq d a) s = .next parks) ∧
    (v ≠ s.ctx.read d → exec (.waitwNe d a) s = .next done) ∧ (v = s.ctx.read d → exec (.waitwNe d a) s = .next parks) ∧
    ((s.ctx.read d).toNat ≤ v.toNat → exec (.waitwGe d a) s = .next done) ∧
    (v.toNat < (s.ctx.read d).toNat → exec (.waitwGe d a) s = .next parks)

/-- R222, R75: FENCE and FENCE.c wait while an own store is on its way, and otherwise go on; they change no register and no byte.
From a scope of core on, a later branch shows fetch what came before; FENCE.c makes later LDCs read anew. Scope 6 and 7 trap. Two clauses are
the model's choices: a FENCE of any scope, .bk among them, waits for every own posted store (LOG 52); after one of scope core or wider fetch
is in step with every write before it (LOG 94). -/
def Obligations.FenceResults : Prop :=
  ∀ (s : State) (c : BitVec 3),
    (c.toNat ≤ 5 → s.postedBy s.ctx.id = false → s.ctx.intact [] [] →
      exec (.fence c) s = .next (s.withCtx { s.ctx with fencedAt := if c.toNat = 0 then s.ctx.fencedAt else s.now }).advance ∧
      exec (.fenceC c) s = .next (s.withCtx
        { s.ctx with fencedAt := if c.toNat = 0 then s.ctx.fencedAt else s.now, constAt := s.now }).advance) ∧
    (c.toNat ≤ 5 → s.postedBy s.ctx.id = true → exec (.fence c) s = .next s.hold ∧ exec (.fenceC c) s = .next s.hold) ∧
    (5 < c.toNat → exec (.fence c) s = .next (s.takeTrap 0x01 (wordOf (.fence c)) none) ∧
      exec (.fenceC c) s = .next (s.takeTrap 0x01 (wordOf (.fenceC c)) none))

/-- R217, R290, R218: LDC writes D with the word at its address, or with the word a constant-cache line still holds; beside it only the
constant cache, an error counter (R370) and the turns of endpoints and of the hasp die (R304, R308) may change. PFETCH changes no register and no byte: only page requests and cache lines. That both take z as D and as A is the
model's choice (LOG 41). -/
def Obligations.ConstantLoads : Prop :=
  ∀ (s : State) (d a : NameF) (i : BitVec 10), isSz d → isSz a →
    let va := s.ctx.read a + BitVec.ofInt 64 (i.toInt * 8)
    (∀ pa e, s.ctx.intact [a] [] [d] → s.translate false va .read 8 = .ok (pa, e) → s.mayAccessTo cacheDest pa 8 = true →
      s.blocked pa 8 = false → s.markCause (s.locOf pa) 8 = none →
      ∃ (v : Word) (u : State), exec (.ldc d a i) s = .next (u.wrote d v) ∧
        u = { s with ccache := u.ccache, cores := u.cores, tiers := u.tiers, haspTurn := u.haspTurn } ∧
        (v = BitVec.ofNat 64 (s.readCells pa 8) ∨ s.cached pa e = some v.toNat)) ∧
    (s.ctx.intact [d, a] [] →
      ∃ u : State, exec (.pfetch d a i) s = .next u.advance ∧ u.mem = s.mem ∧ u.ctx = s.ctx ∧ u.others = s.others)

/-! The system instructions. -/

/-- R228, R284, R287, R290: TLBINV.va, TLBINV.tok and TLBINV.all each complete in supervisor mode once no own store is on its way, nor one
that used a translation they select: then no walker holds what the selected entries were, the constant cache is empty, and no scalar
and no pc but its own has changed, nor a byte of memory while no copy has an element half landed (R251). While a store is on its way
they wait, and no stop strikes them (R352). In user mode they trap with 0x05. -/
def Obligations.InvalidationResults : Prop :=
  ∀ (s : State) (a : NameF), isSName a →
    let u := s.withCtx { s.ctx with inv := true }
    let free := fun q : InvSel => ∀ p ∈ s.posted, s.postedUses q p = false
    (s.ctx.sup = false → exec (.tlbinvVa a) s = .next (u.takeTrap 0x05 (wordOf (.tlbinvVa a)) none) ∧
      exec (.tlbinvTok a) s = .next (u.takeTrap 0x05 (wordOf (.tlbinvTok a)) none) ∧
      exec .tlbinvAll s = .next (u.takeTrap 0x05 (wordOf .tlbinvAll) none)) ∧
    (s.ctx.sup = true → s.postedBy s.ctx.id = true →
      (s.ctx.intact [a] [] → exec (.tlbinvVa a) s = .next u.hold ∧ exec (.tlbinvTok a) s = .next u.hold) ∧
      exec .tlbinvAll s = .next u.hold) ∧
    (s.ctx.sup = true → s.postedBy s.ctx.id = false →
      (s.ctx.intact [a] [] →
        (∀ b, s.binding s.ctx.owner = some b → free (.va b.1 (s.ctx.read a).toNat) →
          exec (.tlbinvVa a) s = .next (s.invalidate (.va b.1 (s.ctx.read a).toNat)).advance) ∧
        (s.binding s.ctx.owner = none → exec (.tlbinvVa a) s = .next s.advance) ∧
        (free (.tok (s.ctx.read a)) → exec (.tlbinvTok a) s = .next (s.invalidate (.tok (s.ctx.read a))).advance)) ∧
      (s.ctx.intact [] [] → free .all → exec .tlbinvAll s = .next (s.invalidate .all).advance)) ∧
    ∀ q, (s.still → (s.invalidate q).mem = s.mem) ∧ (s.invalidate q).ctx.scalars = s.ctx.scalars ∧ (s.invalidate q).ctx.pc = s.ctx.pc ∧
      (s.invalidate q).ccache = [] ∧
      ∀ (token : Word) (asid va lvl : Nat) (w : Overwritten), invCovers q token asid va lvl = true → w.at_ ≤ s.now →
        (s.invalidate q).mayHold token asid va lvl w = false

/-- R229, R382: TRACE changes nothing while tracing is off, and emits a record while it is on. R123: EXIT waits for the copies of
its stream that run, cancels those still faulted, whose sectors from the watermark on are marked, and ends it: its slots are free, and memory
stays. With AD = 0 a pending copy fault comes first; with AD = 1 it is discarded. R211: EXIT in a sub-gang leaves the stream to the other one, through the boundary of a loop it stands
at the end of (R115): the counter is shared. -/
def Obligations.TraceAndExit : Prop :=
  ∀ (s : State) (a : NameF),
    (isSName a → s.ctx.intact [a] [] → s.ctx.trc = false → exec (.trace a) s = .next s.advance) ∧
    (isSName a → s.ctx.intact [a] [] → s.ctx.trc = true →
      exec (.trace a) s = .next (s.emitTrace 2 0 (s.ctx.pc.toNat % 2 ^ 56) (s.ctx.read a).toNat).advance) ∧
    (s.ctx.sib = none → s.anyRunning = true → exec .exit s = .next s.hold) ∧
    (s.ctx.sib = none → s.ctx.ad = false → s.ctx.pend11 ≠ 0 → exec .exit s = .next s.hold) ∧
    (s.ctx.sib = none → s.ctx.working = false → s.anyRunning = false → s.ctx.ad = true ∨ s.ctx.pend11 = 0 → s.ctx.intact [] [] →
      s.postedBy s.ctx.id = false → ∃ t, exec .exit s = .next t ∧ t.ctx.place = .ended ∧ t.ctx.id = s.ctx.id ∧
        t.ownedSlots s.ctx.core s.ctx.id = [] ∧
        ((∀ n ∈ s.ownedSlots s.ctx.core s.ctx.id, (s.slot s.ctx.core n).ahead = []) → t.mem = s.mem ∧
          ∀ n ∈ s.ownedSlots s.ctx.core s.ctx.id, (s.slot s.ctx.core n).state = 2 → ∀ x ∈ s.sectorsAbove (s.slot s.ctx.core n),
            tabGet SectorMark.clean t.marks x = .cancelled)) ∧
    ∀ b, s.ctx.sib = some b → s.ctx.workingHere = false → s.ctx.intact [] [] →
      ∃ t, exec .exit s = .next t ∧ t.ctx.sib = none ∧ t.ctx.gmBanks = b.banks ∧ t.ctx.place = s.ctx.place ∧
        (s.ctx.trc = false ∨ (s.ctx.atLoopEnd = false ∧ b.parked = false) → t.mem = s.mem) ∧ (b.parked = false → t.ctx.pc = b.pc) ∧
        (b.parked = true → s.ctx.atLoopEnd = false → (s.ctx.exitHalf b).atLoopEnd = false → t.ctx.pc = b.pc + 4) ∧
        (s.ctx.counting = true → s.ctx.pc = s.ctx.lend.setWidth 64 → s.ctx.stripping = false → b.parked = false →
          t.ctx.lc = (if s.ctx.lcPend then s.ctx.lcn else s.ctx.lc - 1)) ∧
        t.ctx.gmSub = (s.ctx.gmSub && !b.parked) ∧ t.ctx.scalars = s.ctx.scalars

/-! Vectors. -/

/-- R164, R171 to R192, R200 to R204, R160 to R168, R19: an instruction that takes a slot, and whose checks pass in every bank, completes.
Left in flight it stands in a slot of each bank of the gang, with D bound and tagged. Run whole, it leaves each bank with its whole effect
and FPSR with the flags of all. The scalars and the shape stay, and memory, and the other banks of a stream whose sub-gangs have no
cross-bank work of each other in flight. Which of the two happens the spec leaves open (LOG 12). -/
def Obligations.LaneResults : Prop :=
  ∀ (i : Instr) (f : SlotForm) (s : State), slotForm i = some f → i.wf = true → s.ctx.acceptsAll (f.names i) → s.mayIssue →
    let u := f.primed s
    let v := u.settled
    let js := bankList s.ctx.gmBanks
    let rest := fun t : State => (s.ctx.apart → ∀ j, j ∉ js → t.ctx.bank j = s.ctx.bank j) ∧ t.ctx.scalars = s.ctx.scalars ∧
      (s.ctx.atLoopEnd = false → t.ctx.nrow = s.ctx.nrow ∧ t.ctx.ncol = s.ctx.ncol ∧ t.ctx.pc = s.ctx.pc + 4) ∧
      (s.ctx.trc = false → t.mem = s.mem)
    u.allPass (f.faults u) → s.ctx.intact f.reads vecCtl ((f.names i).map Prod.snd) → f.unheld i u →
    (f.lazily i u = true → u.ctx.slotsFree = true →
      ∃ t, exec i s = .next t ∧ (∀ j ∈ js, t.ctx.bank j = f.enter i u.ctx u.now j (u.ctx.bank j)) ∧ t.ctx.fpsr = u.ctx.fpsr ∧ rest t) ∧
    (f.lazily i u = false →
      let run := fun j => f.atOnce i v.ctx v.now j (v.ctx.bank j)
      ∃ t, exec i s = .next t ∧ (∀ j ∈ js, t.ctx.bank j = (run j).1) ∧
        (∀ k, t.ctx.fpsr.getLsbD k = (v.ctx.fpsr.getLsbD k || js.any fun j => (run j).2.getLsbD k)) ∧ rest t)

/-- R58, R132, R160, R163, R172, R408: the checks of an elementwise instruction of three row registers pass in a bank where all three
are open with one tag that the operation accepts, and VL fits one name; a closed D, A or B fails with 0x02, a wrong tag with 0x03.
Of every instruction that takes a slot: the lowest failing bank traps, with its first cause. That of the failures of one cause in a bank the
one looked at first names TVAL, in the order the checks list them, is the model's choice where R408 gives none (LOG 28). -/
def Obligations.LaneChecks : Prop :=
  (∀ (f : LaneForm) (n : NameF) (c : Context) (now : Nat) (k : Bank) (tag : TagBits),
    f.b = some n → c.isVName f.d → c.isVName f.a → c.isVName n →
    (match f.op with
      | .add | .sub | .mul | .fma | .fms | .fnma | .and | .or | .xor | .andn | .shl | .shr | .sar | .sel | .min _ | .max _ => True
      | _ => False) →
    tagBk tag = false → c.vl ≤ tagPerSeg tag * c.segs →
    (k.openWith f.d.toNat tag → k.openWith f.a.toNat tag → k.openWith n.toNat tag → f.op.accepts tag = true →
      f.fails c now k = []) ∧
    ((k.row f.d.toNat).st = .closed → 0 < c.vl → ∃ fs, f.fails c now k = (0x02, nameWord f.d.toNat) :: fs) ∧
    (k.openWith f.d.toNat tag → (k.row f.a.toNat).st = .closed → (k.row f.a.toNat).tag = tag → k.openWith n.toNat tag → 0 < c.vl →
      ∃ fs, f.fails c now k = (0x02, nameWord f.a.toNat) :: fs) ∧
    (k.openWith f.d.toNat tag → k.openWith f.a.toNat tag → (k.row n.toNat).st = .closed → (k.row n.toNat).tag = tag → 0 < c.vl →
      ∃ fs, f.fails c now k = (0x02, nameWord n.toNat) :: fs) ∧
    (k.openWith f.d.toNat tag → k.openWith f.a.toNat tag → k.openWith n.toNat tag → f.op.accepts tag = false →
      ∃ fs, f.fails c now k = (0x03, nameWord (if f.op.readsD then f.d.toNat else f.a.toNat)) :: fs)) ∧
  ∀ (i : Instr) (f : SlotForm) (s : State) (j : Nat) (k : Nat) (v : Word),
    slotForm i = some f → i.wf = true → s.ctx.acceptsAll (f.names i) → s.mayIssue →
    s.ctx.intact f.reads vecCtl ((f.names i).map Prod.snd) →
    let u := f.primed s
    j ∈ bankList s.ctx.gmBanks → (∀ m ∈ bankList s.ctx.gmBanks, m < j → f.faults u m = []) → worstFailure (f.faults u j) = some (k, v) →
    exec i s = .next (s.takeTrap k v (some j))

/-- R161, R173, R174, R176 to R178, R182, R186, R187: element e of D, below VL, after an elementwise code that runs whole, in every bank of
the gang, from the codes of the elements e of its operands (old D is the third): on the integer tags, the operation on numbers of the
result's width, modulo it; VMULW multiplies the two as they were; VCVT saturates. The logic codes, VSEL, VCOPY and VCLR act on the codes of
every tag they accept. A z for D discards them. A keep name is told of where its group's names hold rows of their own (R18). That the lanes
finish at once is one of the two that the spec leaves open (LOG 12). -/
def Obligations.LaneElements : Prop :=
  ∀ (s : State) (la lb : Bool) (d a b : NameF) (rm : BitVec 3) (tt : BitVec 4), s.mayIssue →
    let leaves := fun (i : Instr) (int : Bool) (r : (w wa wb x y z e : Nat) → Nat) => ∀ f, laneForm i = some f → i.wf = true →
      s.ctx.acceptsAll (laneNames i) →
      let g := SlotForm.lane f
      let u := g.primed s
      let v := u.settled
      let c := v.ctx
      u.allPass (g.faults u) → s.ctx.intact g.reads vecCtl ((g.names i).map Prod.snd) → g.unheld i u → g.lazily i u = false →
      ∃ t, exec i s = .next t ∧ ∀ j ∈ bankList s.ctx.gmBanks,
        let q := g.issue i c v.now j
        let x := f.inputs c v.now (c.bank j) q.tagA q.tagB q.tagD q.tagD q.count q.rm q.fz q.sval
        (isReg d = false → t.ctx.bank j = g.release (c.bank j)) ∧
        (isReg d = true → (int = true → tagI q.tagA = true ∧ tagI q.tagD = true) → (d.toNat < 8 ∨ (t.ctx.bank j).rowsApart) →
          ∀ e < s.ctx.vl, (c.regVec (t.ctx.bank j) v.now d.toNat q.tagD s.ctx.vl).code e =
            r (tagBits q.tagD) (tagBits q.tagA) (tagBits x.b.tag) (x.a.code e) (x.b.code e) (x.d.code e) e)
    let ints := fun (i : Instr) (r : (w : Nat) → BitVec w → BitVec w → BitVec w → BitVec w) =>
      leaves i true fun w _ _ x y z _ => (r w (BitVec.ofNat w x) (BitVec.ofNat w y) (BitVec.ofNat w z)).toNat
    let bits := fun (i : Instr) (r : (w : Nat) → BitVec w → BitVec w → BitVec w → BitVec w) =>
      leaves i false fun w _ _ x y z _ => (r w (BitVec.ofNat w x) (BitVec.ofNat w y) (BitVec.ofNat w z)).toNat
    ints (.vadd la lb d a b) (fun _ x y _ => x + y) ∧ ints (.vsub la lb d a b) (fun _ x y _ => x - y) ∧
    ints (.vmul la lb d a b) (fun _ x y _ => x * y) ∧ ints (.vfma la lb d a b) (fun _ x y z => x * y + z) ∧
    ints (.vfms la lb d a b) (fun _ x y z => x * y - z) ∧ ints (.vfnma la lb d a b) (fun _ x y z => z - x * y) ∧
    ints (.vabs la d a) (fun _ x _ _ => if x.msb then -x else x) ∧ ints (.vneg la d a) (fun _ x _ _ => -x) ∧
    ints (.vshl la lb d a b) (fun w x y _ => x <<< (y.toNat % w)) ∧ ints (.vshr la lb d a b) (fun w x y _ => x >>> (y.toNat % w)) ∧
    ints (.vsar la lb d a b) (fun w x y _ => x.sshiftRight (y.toNat % w)) ∧
    ints (.vminX la lb d a b) (fun _ x y _ => if x.toInt ≤ y.toInt then x else y) ∧
    ints (.vmaxX la lb d a b) (fun _ x y _ => if x.toInt ≤ y.toInt then y else x) ∧
    ints (.vminN la lb d a b) (fun _ x y _ => if x.toNat ≤ y.toNat then x else y) ∧
    ints (.vmaxN la lb d a b) (fun _ x y _ => if x.toNat ≤ y.toNat then y else x) ∧
    ints (.vbcast la d a b) (fun _ _ y _ => y) ∧ leaves (.viota la d a) true (fun w _ _ _ _ _ e => e % 2 ^ w) ∧
    leaves (.vmulwX la lb d a b) true
      (fun w wa wb x y _ _ => (BitVec.ofInt w ((BitVec.ofNat wa x).toInt * (BitVec.ofNat wb y).toInt)).toNat) ∧
    leaves (.vmulwN la lb d a b) true (fun w _ _ x y _ _ => x * y % 2 ^ w) ∧
    leaves (.vcvtX la d a rm tt) true
      (fun w wa _ x _ _ _ => (BitVec.ofInt w (max (-2 ^ (w - 1)) (min (2 ^ (w - 1) - 1) (BitVec.ofNat wa x).toInt))).toNat) ∧
    leaves (.vcvtN la d a rm tt) true (fun w _ _ x _ _ _ => min x (2 ^ w - 1)) ∧
    bits (.vand la lb d a b) (fun _ x y _ => x &&& y) ∧ bits (.vor la lb d a b) (fun _ x y _ => x ||| y) ∧
    bits (.vxor la lb d a b) (fun _ x y _ => x ^^^ y) ∧ bits (.vandn la lb d a b) (fun _ x y _ => x &&& ~~~y) ∧
    bits (.vsel la lb d a b) (fun _ x y z => (x &&& z) ||| (y &&& ~~~z)) ∧
    bits (.vcopy la d a) (fun _ x _ _ => x) ∧ bits (.vclr la d a) (fun _ _ _ _ => 0)

/-- R179, R180: a compare writes bit e of its predicate with the relation of the elements e, 0 from VL on, in every bank of the gang;
the scalars and the other predicates stay. Shown for lanes that finish at once (LOG 12). -/
def Obligations.CompareResults : Prop :=
  ∀ (s : State) (la lb : Bool) (d a b : NameF) (i : Instr) (r : CmpOp) (sg : Sign),
    (i, r, sg) ∈ ([(.vcmpEq la lb d a b, .eq, .f), (.vcmpNe la lb d a b, .ne, .f), (.vcmpLt la lb d a b, .lt, .f),
      (.vcmpLe la lb d a b, .le, .f), (.vcmpUn la lb d a b, .un, .f), (.vcmpLtX la lb d a b, .lt, .x),
      (.vcmpLeX la lb d a b, .le, .x), (.vcmpLtN la lb d a b, .lt, .n), (.vcmpLeN la lb d a b, .le, .n)] : List (Instr × CmpOp × Sign)) →
    isPName d → s.ctx.acceptsAll [(clsVz, a), (clsVzs, b)] → s.ctx.folding = false → s.eager = true → 0 < s.ctx.vl →
    let f := cmpForm r sg la lb a b
    let g := SlotForm.cmp r sg f d
    let u := s.readied
    let v := u.settled
    let js := bankList s.ctx.gmBanks
    u.allPass (g.faults u) → s.ctx.intact [b] vecCtl [d, a, b] →
    ∃ t, exec i s = .next t ∧
      (∀ j ∈ js, ∀ e < 16384,
        let q := g.issue i v.ctx v.now j
        let x := f.inputs v.ctx v.now (v.ctx.bank j) q.tagA q.tagB q.tagD q.tagA q.count q.rm q.fz q.sval
        ((t.ctx.bank j).pred (d.toNat - 16)).getLsbD e = (decide (e < s.ctx.vl) && (r.test sg s.ctx.fz x.a x.b e).1)) ∧
      (∀ j p, j ∉ js ∨ p ≠ d.toNat - 16 → (t.ctx.bank j).pred p = (v.ctx.bank j).pred p) ∧
      t.ctx.scalars = s.ctx.scalars ∧ (s.ctx.trc = false → t.mem = s.mem)

/-- R181, R188 to R192: what VMERGE, VINS, VEXT, VSLIDE, VPERM and VRED leave in each bank of the gang, and VEXT in its scalar, once
their checks pass and no MMF is in flight. Results go into D one element group after the other (R165). Shown for lanes that finish at once
(LOG 12). Three points are the model's choices: VEXT's last use gives the name back in every bank of the gang (LOG 38); how marks fall on
the lane words of moved elements (LOG 46), and on both words of a 64-bit one (LOG 72). -/
def Obligations.MoveResults : Prop :=
  ∀ (s : State) (la lb : Bool) (d a b : NameF), s.ctx.folding = false → s.eager = true →
    let u := s.readied
    let v := u.settled
    let c := v.ctx
    let js := bankList s.ctx.gmBanks
    let stays := fun t : State => (s.ctx.apart → ∀ j, j ∉ js → t.ctx.bank j = s.ctx.bank j) ∧ (s.ctx.trc = false → t.mem = s.mem)
    let leaves := fun (i : Instr) (bank : Nat → Bank) => ∃ t, exec i s = .next t ∧ (∀ j ∈ js, t.ctx.bank j = bank j) ∧
      t.ctx.scalars = s.ctx.scalars ∧ t.ctx.fpsr = c.fpsr ∧ stays t
    (s.ctx.acceptsAll [(clsVz, d), (clsVz, a), (clsS, b)] → u.allPass (slideFails d a u) → s.ctx.intact [b] vecCtl [d, a, b] →
      let n := min (s.ctx.read b).toNat c.ncol
      let vec := fun j => c.operand (c.bank j) v.now a ((c.bank j).tagOrDest v.now a d) c.vl 0 c.fz
      let slid := fun (from_ : Nat → Bool) (src : Nat → Nat) (j : Nat) =>
        let t := (c.bank j).tagOrDest v.now a d
        let el := fun e => if from_ (e % c.ncol) then (vec j).moved (e / c.ncol * c.ncol + src (e % c.ncol)) else (0, none)
        c.putVec v.now d t (groupElems t) c.vl (fun lo hi => ((List.range (hi - lo)).map fun k => el (lo + k), []))
          ((c.bank j).lastUse la a)
      leaves (.vslideUp la d a b) (slid (fun x => decide (n ≤ x)) (fun x => x - n)) ∧
      leaves (.vslideDn la d a b) (slid (fun x => decide (x + n < c.ncol)) (fun x => x + n))) ∧
    (s.ctx.acceptsAll [(clsVz, d), (clsVz, a), (clsV, b)] → u.allPass (permFails d a b u) → s.ctx.intact [] vecCtl →
      leaves (.vperm la lb d a b) fun j =>
        let k := c.bank j
        let tb := k.tagOf v.now b.toNat
        let t := if isReg a then k.tagOf v.now a.toNat else tb
        let x := c.operand k v.now a t c.vl 0 c.fz
        let w := c.operand k v.now b tb c.vl 0 c.fz
        let from_ := fun e => if w.code e < c.ncol then some (e / c.ncol * c.ncol + w.code e) else none
        c.putVec v.now d t (min (groupElems t) (groupElems tb)) c.vl (fun lo hi => ((List.range (hi - lo)).map fun y =>
            let es := wordMates t lo hi (lo + y)
            (((from_ (lo + y)).map x.code).getD 0, (x.lowestMark (es.filterMap from_)).or (es.findSome? w.codeMark)), []))
          ((k.lastUse la a).lastUse lb b)) ∧
    (s.ctx.acceptsAll [(clsV, d), (clsVz, a), (clsP, b)] → u.allPass (mergeFails u d a b) → s.ctx.intact [] vecCtl →
      leaves (.vmerge la d a b) fun j =>
        let k := c.bank j
        let t := k.tagOrDest v.now a d
        inGroups (groupElems t) c.vl
          (mergeInto c (c.operand k v.now a t c.vl 0 c.fz) t d.toNat (k.pred (b.toNat - 16)).toNat)
          (c.bindGroup (k.lastUse la a) v.now d.toNat t c.vl)) ∧
    (∀ x : BitVec 7, x.toNat ≤ 9 → s.ctx.acceptsAll [(clsVz, d), (clsV, a)] → u.allPass (redFails (RedOp.of x) d a u) →
      s.ctx.intact [] vecCtl →
      ∃ t, exec (.vred la d a x) s = .next t ∧ t.ctx.scalars = s.ctx.scalars ∧ stays t ∧
        ∀ j ∈ js, t.ctx.bank j =
          let k := c.bank j
          let g := k.tagOf v.now a.toNat
          let y := c.operand k v.now a g c.vl 0 c.fz
          let tr := (RedOp.of x).tagR g
          c.putVec v.now d tr (min (groupElems g) (groupElems tr)) c.nrow (fun lo hi => ((List.range (hi - lo)).map fun r =>
              let es := (List.range c.ncol).map fun z => (lo + r) * c.ncol + z
              (((RedOp.of x).reduce g c.fz (es.map y.code)).1, es.findSome? y.codeMark), []))
            (k.lastUse la a)) ∧
    (s.ctx.acceptsAll [(clsV, d), (clsS, a), (clsS, b)] → u.allPass (insFails d b u) → s.ctx.intact [a, b] vecCtl →
      (c.vl ≤ (s.ctx.read b).toNat → leaves (.vins d a b) fun j => c.bank j) ∧
      ((s.ctx.read b).toNat < c.vl → leaves (.vins d a b) fun j =>
        let x := (s.ctx.read b).toNat
        let g := (c.bank j).tagOf v.now d.toNat
        let cap := c.capacity d.toNat g
        let n := d.toNat + x / cap
        let clean := (c.bindGroup (c.bank j) v.now d.toNat g (x + 1)).writePlain n (if g.toNat = 7 then fillCells g (x % cap) 1 else [])
        (clean.write n (partWritten g (x % cap) (x % cap + 1))
          [⟨elemBit g (x % cap), tagBits g, (s.ctx.read a).toNat % 2 ^ tagBits g, none⟩]).setTag n g)) ∧
    (s.ctx.acceptsAll [(clsS, d), (clsV, a), (clsS, b)] → u.allPass (extFails a b u) → s.ctx.intact [b] vecCtl [d, a, b] →
      ∃ t, exec (.vext la d a b) s = .next t ∧ (∀ j ∈ js, t.ctx.bank j = (u.ctx.bank j).lastUse la a) ∧ stays t ∧
        t.ctx.scalars = (s.ctx.write d
          (if (s.ctx.read b).toNat < c.vl then BitVec.ofNat 64 ((extVec a b u).code (s.ctx.read b).toNat) else 0)).scalars)

/-- R194 to R196: the predicate codes, once the work before them in their banks is done (R166). Bit e of a predicate written is the operation below VL and 0 from VL on, in every bank of the
gang; PCNT counts the bits below VL of all banks, PFIRST finds the first, PMOVS moves a 64-bit word. -/
def Obligations.PredicateResults : Prop :=
  ∀ (s : State) (d a b : NameF), s.mayIssue → s.ctx.intact [] vecCtl →
    let u := s.readied
    let js := bankList s.ctx.gmBanks
    let bit := fun (n : NameF) (j e : Nat) => ((u.ctx.bank j).pred (n.toNat - 16)).getLsbD e
    let writes := fun (i : Instr) (val : Nat → Nat → Bool) => ∃ t, exec i s = .next t ∧
      (∀ j ∈ js, ∀ e < 16384, ((t.ctx.bank j).pred (d.toNat - 16)).getLsbD e = (decide (e < s.ctx.vl) && val j e)) ∧
      (∀ j p, j ∉ js ∨ p ≠ d.toNat - 16 → (t.ctx.bank j).pred p = (u.ctx.bank j).pred p) ∧ t.ctx.scalars = s.ctx.scalars
    let scalar := fun (i : Instr) (v : Word) => ∃ t, exec i s = .next t ∧ t.ctx.scalars = (s.ctx.write d v).scalars ∧
      ∀ j p, (t.ctx.bank j).pred p = (u.ctx.bank j).pred p
    (isPName d → isPName a → isPName b → s.ctx.predsIntact [a, b] →
      writes (.pand d a b) (fun j e => bit a j e && bit b j e) ∧ writes (.por d a b) (fun j e => bit a j e || bit b j e) ∧
      writes (.pxor d a b) (fun j e => bit a j e ^^ bit b j e) ∧ writes (.pandn d a b) (fun j e => bit a j e && !bit b j e)) ∧
    (isPName d → isPName a → s.ctx.predsIntact [a] → writes (.pnot d a) fun j e => !bit a j e) ∧
    (isPName d → isSz a → s.ctx.intact [a] [] → writes (.pset d a) fun _ e => decide (e < (s.ctx.read a).toNat)) ∧
    (isSz d → isPName a → s.ctx.predsIntact [a] → s.ctx.intact [] vecCtl [d] →
      scalar (.pcnt d a) (BitVec.ofNat 64 (js.map fun j => ((List.range s.ctx.vl).filter fun e => bit a j e).length).sum) ∧
      (∀ j e, j ∈ js → e < s.ctx.vl → bit a j e = true → (∀ x < e, bit a j x = false) →
        (∀ m ∈ js, m < j → ∀ x < s.ctx.vl, bit a m x = false) →
        scalar (.pfirst d a) (BitVec.ofNat 64 ((j - s.ctx.gmBase.toNat) * 16384 + e))) ∧
      ((∀ j ∈ js, ∀ e < s.ctx.vl, bit a j e = false) → scalar (.pfirst d a) 0xFFFFFFFFFFFFFFFF)) ∧
    (isSz d → isPName a → isSz b → s.ctx.intact [b] [] [d] →
      tabGet false s.ctx.bad (512 + 2048 * lowBank s.ctx.gmBanks + 256 * (a.toNat - 16) + (s.ctx.read b).toNat % 256) = false →
      scalar (.pmovs d a b)
        (((u.ctx.bank (lowBank s.ctx.gmBanks)).pred (a.toNat - 16)).extractLsb' (64 * ((s.ctx.read b).toNat % 256)) 64)) ∧
    (isPName d → isSz a → isSz b → s.ctx.intact [a, b] [] →
      ∃ t, exec (.pmovs d a b) s = .next t ∧ t.ctx.scalars = s.ctx.scalars ∧
        ∀ j ∈ js, ∀ e < 16384, ((t.ctx.bank j).pred (d.toNat - 16)).getLsbD e =
          if e / 64 = (s.ctx.read b).toNat % 256 then (s.ctx.read a).getLsbD (e % 64) else bit d j e)

/-- R197 to R206: the cross-bank codes, once the work before them is done and no MMF is in flight. The bank at position i of the n of the
gang receives from position (i + B) mod n (SHUF), from the position its nibble of B names or zero codes (SHUFX), from position B mod n
(GBCAST); GRED leaves the same reduction in all. Results go into D one element group after the other (R165). Shown for lanes that finish at
once (LOG 12). GBAR holds the next bank-class code while work is in flight. GSYNC waits for all of it, and for own stores. -/
def Obligations.GangResults : Prop :=
  ∀ (s : State) (la : Bool) (d a b : NameF),
    let u := s.readied
    let v := u.settled
    let c := v.ctx
    let js := bankList s.ctx.gmBanks
    let n := js.length
    let x := (s.ctx.read b).toNat
    let stays := fun t : State => t.ctx.scalars = s.ctx.scalars ∧ (s.ctx.trc = false → t.mem = s.mem) ∧
      (s.ctx.apart → ∀ j, j ∉ js → t.ctx.bank j = s.ctx.bank j)
    let from_ := fun (i : Instr) (src : Nat → Option Nat) => ∃ t, exec i s = .next t ∧ stays t ∧ t.ctx.fpsr = c.fpsr ∧
      ∀ i < n,
        let j := js.getD i 0
        let g := gangTag v d a j
        t.ctx.bank j = c.putVec v.now d g (groupElems g) (gangCount g c.vl)
          (movedVec ((src i).map fun q => c.member v.now a g (js.getD q 0)) g) ((c.bank j).lastUse la a)
    (s.ctx.folding = false → s.eager = true →
      (s.ctx.acceptsAll [(clsVz, d), (clsVz, a)] → u.allPass (gangFails u d a id fun _ => true) → s.ctx.intact [b] vecCtl →
        (isSz b → from_ (.shuf la d a b) (fun i => some ((i + x % n) % n)) ∧ from_ (.gbcast la d a b) fun _ => some (x % n)) ∧
        (isSName b → from_ (.shufx la d a b) fun i => if x / 2 ^ (4 * i) % 16 < n then some (x / 2 ^ (4 * i) % 16) else none)) ∧
      ∀ sel : BitVec 7, sel.toNat ≤ 9 → s.ctx.acceptsAll [(clsVz, d), (clsV, a)] →
        u.allPass (gangFails u d a (RedOp.of sel).tagR (RedOp.of sel).accepts) → s.ctx.intact [] vecCtl →
        ∃ t, exec (.gred la d a sel) s = .next t ∧ stays t ∧ ∀ j ∈ js, t.ctx.bank j =
          let g := gangTag v d a (lowBank c.gmBanks)
          let vs := js.map (c.member v.now a g)
          let tr := (RedOp.of sel).tagR g
          c.putVec v.now d tr (min (groupElems g) (groupElems tr)) c.vl (fun lo hi => ((List.range (hi - lo)).map fun k =>
              (((RedOp.of sel).reduce g c.fz (vs.map fun v => v.code (lo + k))).1, vs.findSome? fun v => v.codeMark (lo + k)), []))
            ((c.bank j).lastUse la a)) ∧
    (s.mayIssue → s.ctx.intact [] [0x0E] →
      exec .gbar s = .next (s.begun.withCtx { s.begun.ctx with gbar := s.begun.ctx.unfinished }).advance) ∧
    (s.ctx.workingHere = false → s.ctx.intact [] [0x0E] → s.postedBy s.ctx.id = false →
      exec .gsync s = .next (u.serveRefs s.ctx.core js).advance) ∧
    (s.ctx.intact [] [0x0E] → s.ctx.workingHere = true ∨ s.postedBy s.ctx.id = true → exec .gsync s = .next s.hold)

/-- R207, R208, R210: GSPLIT sends the banks whose bit 0 of the predicate is set to its target and goes on with the others, once the
compares in flight that write the predicate are done; GJOIN parks the running sub-gang while the other is elsewhere, and joins them
when both have come to it. -/
def Obligations.SubGangs : Prop :=
  ∀ (s : State) (a b : NameF),
    let js := bankList s.ctx.gmBanks
    let u := s.begun.predsReady [a]
    let taken := fun j => ((u.ctx.bank j).pred (a.toNat - 16)).getLsbD 0
    (isPName a → isSName b → s.ctx.gmSub = false → s.ctx.counting = false → s.ctx.stripping = false → s.mayIssue →
      (s.ctx.read b).toNat % 4 = 0 → s.ctx.intact [b] [0x0E] →
      (∀ j ∈ js, tabGet false s.ctx.bad (512 + 2048 * j + 256 * (a.toNat - 16)) = false) →
      ((∀ j ∈ js, taken j = false) → exec (.gsplit a b) s = .next u.advance) ∧
      ((∀ j ∈ js, taken j = true) → js ≠ [] → exec (.gsplit a b) s = .next (u.wentTo (s.ctx.read b))) ∧
      ((∃ j ∈ js, taken j = true) → (∃ j ∈ js, taken j = false) →
        ∃ t q, exec (.gsplit a b) s = .next t ∧ t.ctx.gmSub = true ∧ t.ctx.sib = some q ∧ t.ctx.pc = s.ctx.pc + 4 ∧
          q.pc = s.ctx.read b ∧ q.parked = false ∧ q.stall = false ∧ t.mem = s.mem ∧ t.ctx.scalars = s.ctx.scalars ∧
          ∀ j < 16, t.ctx.gmBanks.getLsbD j = (s.ctx.gmBanks.getLsbD j && !taken j) ∧
            q.banks.getLsbD j = (s.ctx.gmBanks.getLsbD j && taken j))) ∧
    (s.ctx.gmSub = true → exec (.gsplit a b) s = .next (s.takeTrap 0x01 (wordOf (.gsplit a b)) none)) ∧
    (s.mayIssue →
      (s.ctx.sib = none → s.ctx.intact [] [0x0E, 0x1F] →
        exec .gjoin s = .next (s.begun.withCtx { s.begun.ctx with gmSub := false }).advance) ∧
      ∀ q, s.ctx.sib = some q →
        (q.parked = false → s.ctx.sibHeld = false → s.ctx.intact [] [0x0E, 0x1F] →
          ∃ t r, exec .gjoin s = .next t ∧ t.ctx.gmBanks = q.banks ∧ t.ctx.pc = q.pc ∧ t.ctx.gmSub = s.ctx.gmSub ∧
            t.ctx.sib = some r ∧ r.banks = s.ctx.gmBanks ∧ r.pc = s.ctx.pc ∧ r.parked = true ∧ r.pend10 = s.ctx.pend10) ∧
        (q.parked = true → q.pc = s.ctx.pc → s.ctx.intact [] [0x0E, 0x1F] →
          ∃ t, exec .gjoin s = .next t ∧ t.ctx.gmBanks = s.ctx.gmBanks ||| q.banks ∧ t.ctx.gmSub = false ∧ t.ctx.sib = none ∧
            t.ctx.scalars = s.ctx.scalars ∧ (s.ctx.atLoopEnd = false → t.ctx.pc = s.ctx.pc + 4 ∧ t.mem = s.mem)) ∧
        (q.parked = true → q.pc ≠ s.ctx.pc → s.ctx.intact [] [0x0E, 0x1F] → exec .gjoin s = .next (s.takeTrap 0x01 (wordOf .gjoin) none)))

/-! Rows, the shape and refresh. -/

/-- R133 to R136, R145, R141 to R144: ACT, ACTZ, WB, PRE, RCOPY, SAVEROW and LOADROW each complete once their checks pass in every bank and
nothing they wait for is left. ACT opens the register on its row with the row's content, ACTZ on zeros with every beat dirty; WB writes
the dirty beats; PRE closes; RCOPY copies a row; SAVEROW writes a register to its save row and its descriptor, and LOADROW reads it
back. That a descriptor moves as five requests of 512 bytes is the model's choice (LOG 97). -/
def Obligations.RowResults : Prop :=
  ∀ (s : State) (d a b : NameF) (tag : BitVec 4), s.mayIssue → s.ctx.isVName d → d.toNat < 8 →
    let u := s.rowReadied
    let c := u.ctx
    let js := bankList s.ctx.gmBanks
    let reg := fun (t : State) j => (t.ctx.bank j).row d.toNat
    let others := fun t : State => (∀ j m, j ∉ js ∨ m ≠ d.toNat → (t.ctx.bank j).row m = (c.bank j).row m) ∧
      t.ctx.scalars = s.ctx.scalars
    let unheld := c.unlocked [] [d.toNat] = true
    (isSName a → s.ctx.intact [a] [0x03, 0x0E] → u.rowsReady .row (s.ctx.read a) c.segs = true →
      u.allPass (fun j => failIf (decide ((reg u j).st ≠ .closed)) 0x02 (nameWord d.toNat) ++ u.placeFails .row d.toNat (s.ctx.read a) j) →
      unheld → u.stripOpen = true → (∀ j ∈ js, u.rowsBlocked (u.rowPa .row (s.ctx.read a) j 0) c.segs = false) →
      ∃ t, exec (.act d a tag) s = .next t ∧ others t ∧ ∀ j ∈ js, (reg t j).st = .opened ∧ (reg t j).tag = tag ∧
        (reg t j).dirty = 0 ∧ (reg t j).pin = (c.rowVa (s.ctx.read a) j 0).setWidth 56 ∧
        (reg t j).latch = BitVec.ofNat 524288
          (u.readLatch c.segs (placedRow c.core j (d.toNat * c.segs) (rowIndex (u.rowPa .row (s.ctx.read a) j 0)))).1) ∧
    (isSName a → s.ctx.intact [a] [0x03, 0x0E] → u.rowsReady .write (s.ctx.read a) c.segs = true →
      u.allPass (fun j => failIf (decide ((reg u j).st ≠ .closed)) 0x02 (nameWord d.toNat) ++ u.placeFails .write d.toNat (s.ctx.read a) j) →
      unheld → ∃ t, exec (.actz d a tag) s = .next t ∧ others t ∧ ∀ j ∈ js, (reg t j).st = .opened ∧ (reg t j).tag = tag ∧
        (reg t j).latch = 0 ∧ (reg t j).fm = 0 ∧ ∀ e < 256, (reg t j).dirty.getLsbD e = decide (e < 32 * c.segs)) ∧
    (s.ctx.intact [] [0x03, 0x0E] →
      u.allPass (fun j => (c.bank j).rowState d.toNat ++ failIf ((reg u j).pinned.any fun p => !p.w) 0x09 ((reg u j).pin.setWidth 64)) →
      u.stripOpen = true → (∀ j ∈ js, u.rowsBlocked (reg u j).base c.segs = false) →
      ∃ t, exec (.wb d) s = .next t ∧ others t ∧ (∀ j ∈ js, reg t j = { reg u j with dirty := 0 }) ∧
        (s.ctx.trc = false → t.mem = (js.foldl (fun x j => x.writeBeats (reg u j) c.segs) u).mem)) ∧
    (s.ctx.intact [] [0x03, 0x0E] → s.readied.ctx.unlocked [] [d.toNat] = true →
      ∃ t, exec (.pre d) s = .next t ∧ others t ∧ (∀ j ∈ js, (reg t j).st = .closed) ∧ (s.ctx.trc = false → t.mem = s.mem)) ∧
    (isSName a → isSName b → s.ctx.intact [a, b] [0x0E] → u.rowsReady .row (s.ctx.read b) 1 = true →
      u.rowsReady .write (s.ctx.read a) 1 = true → u.allPass (u.rcopyFails (s.ctx.read b) (s.ctx.read a)) → u.stripOpen = true →
      (∀ j ∈ js, u.rowsBlocked (u.rowPa .row (s.ctx.read b) j 0) 1 = false ∧ u.rowsBlocked (u.rowPa .write (s.ctx.read a) j 0) 1 = false) →
      exec (.rcopy a b) s = .next (js.foldl (fun x j =>
        x.copyRow (u.rowPa .row (s.ctx.read b) j 0) (u.rowPa .write (s.ctx.read a) j 0)) u).advance) ∧
    (isSName a → isSName b → s.ctx.intact [a, b] [0x03, 0x0E] →
      (u.descReady .write (s.ctx.read b) = true → (u.rowsReady .write (s.ctx.read a) c.segs = true ∨ ∀ j ∈ js, (reg u j).st = .closed) →
        u.allPass (fun j => (if (reg u j).st ≠ .closed then u.placeFails .write d.toNat (s.ctx.read a) j else []) ++
          u.descFails .write (s.ctx.read b) j) → u.stripOpen = true →
        (∀ j ∈ js, (reg u j).st ≠ .closed → u.rowsBlocked (u.rowPa .write (s.ctx.read a) j 0) c.segs = false) →
        let saved := js.foldl (fun t j =>
          if (reg u j).st ≠ .closed then t.writeLatch (reg u j) c.segs (u.rowPa .write (s.ctx.read a) j 0) else t) u
        let t := (js.foldl (fun t j => (List.range 5).foldl (fun t i => t.sendPiece ((c.descVa (s.ctx.read b) j).toNat + 512 * i)
          (u.descPa .write (s.ctx.read b) j i) (fieldOf ((reg u j).descriptor c.vcode.toNat) (4096 * i) 4096)) t) saved).advance
        exec (.saverow d a b) s = .next t ∧ others t ∧ ∀ j ∈ js, reg t j = reg u j) ∧
      (u.descReady .read (s.ctx.read b) = true → u.allPass (u.loadrowFails d.toNat (s.ctx.read a) (s.ctx.read b)) → u.stripOpen = true →
        unheld → (∀ j ∈ js, u.rePinWaits c (u.descriptorAt (s.ctx.read b) j) = false) →
        (∀ j ∈ js, ∀ i < 5, u.mayAccess (u.descPa .read (s.ctx.read b) j i) 512 = true ∧ u.blocked (u.descPa .read (s.ctx.read b) j i) 512 = false) →
        (∀ j ∈ js, u.descriptorAt (s.ctx.read b) j % 4 ≠ 0 → (∀ i < c.segs, isWait (u.rowAt .row (s.ctx.read a) j i) = false) ∧
          u.rowsBlocked (u.rowPa .row (s.ctx.read a) j 0) c.segs = false) →
        ∃ t, exec (.loadrow d a b) s = .next t ∧ others t ∧
          ∀ j ∈ js, reg t j = u.loadReg c (u.rowPa .row (s.ctx.read a) j 0) (u.descriptorAt (s.ctx.read b) j) ∧
            (u.descriptorAt (s.ctx.read b) j % 4 = 0 → (reg t j).st = .closed)))

/-- R79, R193, R147, R146, R155: the shape, the configuration, tags and REF. VSHAPE sets NROW and NCOL within 16,384 elements;
VCFG with every register closed, and no MMF and no slot of a REF before it left, sets the segments of a name; TAG sets a tag; REF asks for up
to n slots in each bank of the gang, and where the lanes run at once (LOG 12) they start: the debt of a bank, less its forced slot, falls by
n but not below 0. Otherwise EngineEvents tells how many start. -/
def Obligations.ShapeAndRefresh : Prop :=
  ∀ (s : State) (a b : NameF), s.mayIssue →
    let u := s.begun
    let v := s.readied
    let js := bankList s.ctx.gmBanks
    (∀ i j : BitVec 4, i.toNat + j.toNat ≤ 14 → s.ctx.intact [] [] →
      ∃ t, exec (.vshapeImm j i) s = .next t ∧ t.ctx.scalars = s.ctx.scalars ∧
        (s.ctx.stripping = false → t.ctx.nrow = 2 ^ i.toNat ∧ t.ctx.ncol = 2 ^ j.toNat) ∧ (s.ctx.trc = false → t.mem = s.mem)) ∧
    (∀ i j : BitVec 4, 14 < i.toNat + j.toNat → exec (.vshapeImm j i) s = .next (s.takeTrap 0x01 (wordOf (.vshapeImm j i)) none)) ∧
    (isSz a → isSz b → s.ctx.intact [a, b] [] →
      let r := (s.ctx.read a).toNat
      let n := (s.ctx.read b).toNat
      (1 ≤ r → r ≤ 16384 → 1 ≤ n → r * n ≤ 16384 →
        ∃ t, exec (.vshape a b) s = .next t ∧ t.ctx.scalars = s.ctx.scalars ∧ (s.ctx.stripping = false → t.ctx.nrow = r ∧ t.ctx.ncol = n)) ∧
      (r = 0 ∨ 16384 < r → exec (.vshape a b) s = .next (s.takeTrap 0x02 (a.setWidth 64) none)) ∧
      (1 ≤ r → r ≤ 16384 → n = 0 ∨ 16384 < r * n → exec (.vshape a b) s = .next (s.takeTrap 0x02 (b.setWidth 64) none))) ∧
    (∀ x : BitVec 2, let r := s.rowReadied
      s.ctx.gmSub = false → s.ctx.working = false → s.ctx.intact [] [0x03, 0x0E] →
      (∀ j ∈ js, ∀ n < s.ctx.nNames, ((r.ctx.bank j).row n).st = .closed) →
      exec (.vcfg x) s = .next (r.withCtx { r.ctx.mend [0x03] with vcode := x }).advance) ∧
    (∀ (d : NameF) (tag : BitVec 4), s.ctx.acceptsAll [(clsV, d)] → v.ctx.unlocked [] [d.toNat] = true →
      s.ctx.intact [] [0x00, 0x03, 0x0E] →
      (∀ j ∈ js, if d.toNat < 8 then ((v.ctx.bank j).row d.toNat).st = .opened
        else s.ctx.lt = false ∨ (v.ctx.bank j).bound (d.toNat - 8) ≠ none) →
      ∃ t, exec (.tag d tag) s = .next t ∧ t.ctx.scalars = s.ctx.scalars ∧ ∀ j ∈ js,
        t.ctx.bank j = (v.ctx.bank j).setTag d.toNat tag ∧ ∀ now,
          (d.toNat < 8 ∨ (v.ctx.bank j).bound (d.toNat - 8) ≠ none) → (t.ctx.bank j).tagOf now d.toNat = tag) ∧
    ((∀ n : BitVec 4, 1 ≤ n.toNat → n.toNat ≤ 8 → s.ctx.intact [] [0x0E] → exec (.refImm n) s = .next (refOp u n.toNat)) ∧
      (isSName a → s.ctx.intact [a] [0x0E] → exec (.refScalar a) s = .next (refOp u (min (s.ctx.read a).toNat 8))) ∧
      ∀ n, 0 < n → s.eager = false → s.ctx.trc = false →
        let asked := fun (t : State) j => tabGet [] (t.core s.ctx.core).refReq j
        (∀ j ∈ js, asked (refOp u n) j = asked u j ++ [(n, false)]) ∧
        (∀ j, j ∉ js → asked (refOp u n) j = asked u j) ∧ (refOp u n).mem = s.mem ∧ (refOp u n).ctx.scalars = s.ctx.scalars) ∧
    ∀ n, 0 < n → s.eager = true → s.ctx.trc = false →
      let asked := fun (t : State) j => tabGet [] (t.core s.ctx.core).refReq j
      let debt := fun (t : State) j => tabGet 0 (t.core s.ctx.core).debt j
      (∀ j ∈ js, asked u j = [] → asked (refOp u n) j = [] ∧
        debt (refOp u n) j = (if debt u j = 8 then 7 else debt u j) - n) ∧
      (∀ j, j ∉ js → asked (refOp u n) j = asked u j ∧ debt (refOp u n) j = debt u j) ∧
      (refOp u n).mem = s.mem ∧ (refOp u n).ctx.scalars = s.ctx.scalars

/-! Copies and the matrix slice. -/

/-- R230 to R252, R318: the copy codes. CSET stages a field; CGO starts the snapshot in a slot, its detents installed over the cores of
its destination, and D takes its number; while an older copy or 32 detents of a core stand in its way it waits with its ticket. CSTAT and
CWAIT read a slot's word, and CWAIT frees an ended one; CCANCEL and CRESUME act on the stream's own slots alone, CCANCEL behind the stores from before a
strip start (R121) unless a detent holds one (the model's choice, LOG 53); CRESUME needs new detents only in the cores to which pages have
moved. -/
def Obligations.CopyResults : Prop :=
  ∀ (s : State) (d a : NameF), s.mayIssue →
    let u := s.begun
    (∀ (x : BitVec 7) (k : Nat), x.toNat ≤ 21 → isSz a → s.ctx.intact [a] [] →
      let v := s.ctx.read a
      (x.toNat = 2 → 1 ≤ v.toNat ∧ v.toNat ≤ 8192) → (4 ≤ x.toNat → x.toNat ≤ 9 → 1 ≤ v.toNat ∧ v.toNat ≤ 2 ^ 32) →
      ∃ t, exec (.cset a x) s = .next t ∧ t.ctx.scalars = s.ctx.scalars ∧ stagedField t.ctx.staged k =
        if k = x.toNat then (if k ≤ 1 then v &&& 0xFFFFFFFFFFFFFF else if k = 3 then v &&& 7 else v) else stagedField s.ctx.staged k) ∧
    (∀ n pages, isSz d → s.ctx.intact [d] [] → u.stripOpen = true →
      (s.ctx.read d).toNat < 16 ∨ s.ctx.read d = 0xFFFFFFFFFFFFFFFF → u.usableSlot (s.ctx.read d) = some n →
      ((s.slot s.ctx.core n).owner = some s.ctx.id ∨ (s.ownedSlots s.ctx.core s.ctx.id).length < s.ctx.nslots) →
      let q := u.newCopy
      let q1 := { q with pages := pages }
      let ks := u.coresOf q1 q1.coreFuel (q1.dst 0)
      q.total ≤ 2 ^ 48 → q.badLevel = none →
      (q.dc = 0 ∨ (q.esize = 8192 ∧ q.field 1 % 8192 = 0 ∧ q.stridesOf 16 8192 = true ∧ q.field 0 % 8 = 0 ∧ q.stridesOf 10 8 = true)) →
      u.destPages q (q.pageFuel (q.dst 0)) (q.dst 0) = .ok pages →
      (u.detentsFree q.ticket ks = true →
        ∃ t w, exec (.cgo d) s = .next t ∧ t.slot s.ctx.core n = { q1.install s.regions ks with window := w } ∧
          (q.state = 1 ∧ q.owner = some s.ctx.id) ∧ t.ticket = max s.ticket (q.ticket + 1) ∧ (s.ctx.trc = false → t.mem = s.mem) ∧
          t.ctx.scalars = (s.ctx.write d (BitVec.ofNat 64 n)).scalars) ∧
      (u.detentsFree q.ticket ks = false →
        ∃ t, exec (.cgo d) s = .next t ∧ t.ctx.stall = true ∧ t.ctx.pc = s.ctx.pc ∧ t.ctx.detentWait = some ⟨q.ticket, ks⟩ ∧
          t.mem = s.mem ∧ t.ctx.scalars = s.ctx.scalars ∧ t.slot s.ctx.core n = s.slot s.ctx.core n)) ∧
    (isSz d → isSz a → s.ctx.intact [a] [] [d] → (s.ctx.read a).toNat < 16 →
      let n := (s.ctx.read a).toNat
      let q := s.slot s.ctx.core n
      exec (.cstat d a) s = .next (u.wrote d (s.slotWord n)) ∧
      (q.owner ≠ some s.ctx.id ∨ q.state = 0 ∨ (q.state = 2 ∧ (s.ctx.ad = true ∨ s.ctx.pend11.getLsbD n = false)) →
        exec (.cwait d a) s = .next (u.wrote d (s.slotWord n))) ∧
      (q.owner = some s.ctx.id → q.state = 2 → s.ctx.ad = false → s.ctx.pend11.getLsbD n = true →
        exec (.cwait d a) s = .next s.hold) ∧
      (q.owner = some s.ctx.id → q.state = 1 → exec (.cwait d a) s = .next s.hold) ∧
      (q.owner = some s.ctx.id → q.state = 3 ∨ q.state = 4 →
        exec (.cwait d a) s = .next ((u.setSlot s.ctx.core n CopySlot.reset).wrote d (s.slotWord n)))) ∧
    (isSz a → s.ctx.intact [a] [] → (s.ctx.read a).toNat < 16 →
      let n := (s.ctx.read a).toNat
      let q := s.slot s.ctx.core n
      (q.owner ≠ some s.ctx.id → exec (.ccancel a) s = .next u.advance ∧ exec (.cresume a) s = .next u.advance) ∧
      (q.owner = some s.ctx.id → u.stripOpen = false → u.storeGuarded s.ctx.id = false → exec (.ccancel a) s = .next s.hold) ∧
      (q.owner = some s.ctx.id → u.stripOpen = true ∨ u.storeGuarded s.ctx.id = true → q.state = 1 ∨ q.state = 2 →
        ∃ t, exec (.ccancel a) s = .next t ∧ (t.slot s.ctx.core n).state = 4 ∧ (t.slot s.ctx.core n).installed = false ∧
          t.ctx.scalars = s.ctx.scalars) ∧
      (q.owner = some s.ctx.id → q.state ≠ 2 → exec (.cresume a) s = .next u.advance) ∧
      (∀ pages, q.owner = some s.ctx.id → q.state = 2 → q.ahead = [] → q.records = [] → q.fetched = 0 → u.destPages q (q.pageFuel q.wm) q.wm = .ok pages →
        let q1 := { q with
          pages := (q.pages.filter fun p => !(pages.any fun r => decide (r.va < p.va + p.size ∧ p.va < r.va + r.size))) ++ pages
          state := 1, cause := 0, next := q.start }
        let ks := u.coresOf q1 q1.coreFuel (q1.dst 0)
        let new := ks.filter fun k => !q.cores.contains k
        (u.detentsFree q.ticket new = true →
          ∃ t w, exec (.cresume a) s = .next t ∧ t.slot s.ctx.core n = { q1.install s.regions ks with window := w } ∧
            t.ctx.pend11 = s.ctx.pend11 &&& ~~~(BitVec.ofNat 16 (2 ^ n)) ∧ t.ctx.scalars = s.ctx.scalars) ∧
        (u.detentsFree q.ticket new = false → exec (.cresume a) s = .next (u.waitDetents q.ticket new)))) ∧
    (isSz d → isSz a → 16 ≤ (s.ctx.read a).toNat →
      exec (.cstat d a) s = .next (s.takeTrap 0x02 (s.ctx.read a) none))

/-- R255 to R258, R262, R267 to R270, R274: the matrix codes. MSHAPE takes the slice, or gives it up, or waits while another stream has it. Its
grant takes each field of the request, or the most where the request asks for none or more, and the greatest depth up to the one asked for
whose block of tiers is sound: online, not in T3, with its slices, and its hinges between them. MZERO clears a keep row in the matrix bank; MMF starts an MMF with the next number once the one before it is released;
MWAIT and MSTAT 0 wait until all are complete. -/
def Obligations.MatrixResults : Prop :=
  ∀ (s : State) (d a b : NameF),
    let u := s.readied
    let c := u.ctx
    let low := lowBank s.ctx.gmBanks
    (isSz d → isSz a → s.ctx.folding = false → s.ctx.intact [a] [] [d] → (s.core s.ctx.core).mat = true →
      ((s.ctx.read a).getLsbD 7 = true →
        ∃ t, exec (.mshape d a) s = .next t ∧ t.ctx.mg = 0 ∧ t.ctx.mseq = 0 ∧ (t.core s.ctx.core).slice ≠ some s.ctx.id ∧
          t.ctx.scalars = (s.ctx.write d 0).scalars) ∧
      ((s.ctx.read a).getLsbD 7 = false → ((s.core s.ctx.core).slice = none ∨ (s.core s.ctx.core).slice = some s.ctx.id) →
        let r := s.ctx.read a
        let soundBlock := fun e : Nat => ∀ i < 2 ^ e,
          let x := tierOf s.ctx.core / 2 ^ e * 2 ^ e + i
          let k := s.core (8 * x + s.ctx.core % 8)
          (s.tier x).online = true ∧ (s.tier x).thermal ≠ 3 ∧ k.mat = true ∧ (i + 1 < 2 ^ e → k.hup = true) ∧ (0 < i → k.hdn = true)
        ∃ t g e, exec (.mshape d a) s = .next t ∧ t.ctx.mg = g ∧ t.ctx.mseq = 0 ∧ (t.core s.ctx.core).slice = some s.ctx.id ∧
          t.ctx.scalars = (s.ctx.write d g).scalars ∧
          grantM g = (if 1 ≤ grantM r ∧ grantM r ≤ 64 then grantM r else 64) ∧
          grantN g = (if 1 ≤ grantN r ∧ grantN r ≤ 32 then grantN r else 32) ∧
          grantKC g = max 1 (grantKC r) ∧ grantL g = grantL r ∧ grantSA g = grantSA r ∧ grantSB g = grantSB r ∧
          grantDepth g = 2 ^ e ∧ e ≤ min (r.toNat / 2 ^ 32 % 8) 4 ∧ (e ≠ 0 → soundBlock e) ∧
          (∀ x, e < x → x ≤ min (r.toNat / 2 ^ 32 % 8) 4 → ¬soundBlock x) ∧ grantPos g = tierOf s.ctx.core % 2 ^ e) ∧
      ((s.ctx.read a).getLsbD 7 = false → (∃ id, (s.core s.ctx.core).slice = some id ∧ id ≠ s.ctx.id) →
        exec (.mshape d a) s = .next s.hold)) ∧
    (isSz d → isSz a → (s.core s.ctx.core).mat = false → s.mayIssue → exec (.mshape d a) s = .next (s.takeTrap 0x06 0 none)) ∧
    (isKName d → s.mayIssue → c.unlocked [] [d.toNat] = true → s.ctx.intact [] [0x0E] → d.toNat - 8 < s.ctx.keep →
      ∃ t r, exec (.mzero d) s = .next t ∧ (t.ctx.bank low).bound (d.toNat - 8) = some r ∧ ((t.ctx.bank low).poolRow r).data = 0 ∧
        ((t.ctx.bank low).poolRow r).tag = 1 ∧ ((t.ctx.bank low).poolRow r).fm = 0 ∧ t.ctx.scalars = s.ctx.scalars ∧
        ∀ j, j ≠ low → t.ctx.bank j = c.bank j) ∧
    (∀ la lb strict, let i := if strict then Instr.mmfO la lb d a b else Instr.mmf la lb d a b
      i.wf = true → s.ctx.acceptsAll [(clsKz, d), (clsV, a), (clsV, b)] → s.mayIssue → (∀ m, s.ctx.mmf = some m → m.released = true) →
      (∀ e ∈ s.others, gangsClash s.ctx e.2 = false) → s.ctx.intact [] [0x00, 0x03, 0x0E] →
      checkBanks (mmfFailsIn u d a b low) (bankList s.ctx.gmBanks) = .ok () → s.ctx.mg ≠ 0 → s.ctx.doomQ ≠ some s.ctx.mseq.toNat →
      s.ctx.foldFault = none →
      ∃ t m, exec i s = .next t ∧ t.ctx.mmf = some m ∧ t.ctx.past = s.ctx.mmf.or s.ctx.past ∧ t.ctx.mseq = s.ctx.mseq + 1 ∧
        m.q = s.ctx.mseq.toNat ∧ m.d = d ∧ m.a = a ∧ m.b = b ∧ m.strict = strict ∧ m.mg = s.ctx.mg ∧ m.bank = low ∧ m.formed = false ∧
        m.kdone = 0 ∧ t.ctx.fpsr = c.fpsr ∧ t.ctx.scalars = s.ctx.scalars) ∧
    (∀ la lb, Instr.wf (.mmf la lb d a b) = true → s.ctx.acceptsAll [(clsKz, d), (clsV, a), (clsV, b)] → s.mayIssue →
      s.ctx.intact [] [0x00, 0x03, 0x0E] → checkBanks (mmfFailsIn u d a b low) (bankList s.ctx.gmBanks) = .ok () → s.ctx.mg = 0 →
      exec (.mmf la lb d a b) s = .next (s.takeTrap 0x14 0 none)) ∧
    (s.ctx.foldFault = none → s.ctx.folding = false → s.ctx.intact [] [] → exec .mwait s = .next u.advance) ∧
    (s.ctx.foldFault = none → s.ctx.folding = true → exec .mwait s = .next s.hold) ∧
    (∀ v, s.ctx.foldFault = some v → s.mayIssue → exec .mwait s = .next (u.takeFoldFault v)) ∧
    (isSz d → isSz a → s.mayIssue → s.ctx.intact [a] [0x12] [d] →
      (s.ctx.read a = 0 → s.ctx.foldFault = none → s.ctx.folding = false → exec (.mstat d a) s = .next (u.wrote d s.ctx.mrep)) ∧
      (s.ctx.read a = 1 → exec (.mstat d a) s = .next (s.begun.wrote d s.ctx.mg)) ∧
      (s.ctx.read a = 2 → exec (.mstat d a) s = .next (s.begun.wrote d s.ctx.mseq)) ∧
      (2 < (s.ctx.read a).toNat → exec (.mstat d a) s = .next (s.takeTrap 0x02 (s.ctx.read a) none)))

/-! The steps without an encoding. -/

/-- R32, R73, R75, R124, R151 to R158, R165, R346 to R350, R401: what the steps of a stream's own engines, of refresh, of the sensors
and of the governor do. That HOLDS adds 1 for each hold, and that of streams placed in one walk the first of the list is held first, is
the model's choice (LOG 98, LOG 88). -/
def Obligations.EngineEvents : Prop :=
  ∀ s : State,
    (∀ w, (isBreakWord w = false → exec (.illegalInstruction w) s = .next (s.takeTrap 0x01 (w.setWidth 64) none)) ∧
      (isBreakWord w = true → exec (.illegalInstruction w) s = exec .brk s)) ∧
    (∀ k v b, s.fetchWord s.ctx.pc = .error (.trap k v b) → exec .instructionFetchFault s = .next (s.takeTrap k v b)) ∧
    (∀ k j, exec (.rowOperationStart k j) s = .next s) ∧
    (s.ctx.yielding = true → ∃ t, exec (.yieldExpiry s.ctx.id) s = .next t ∧ t.ctx.yielding = false ∧ t.ctx.since = s.now ∧
      (∀ b, t.ctx.sib = some b → b.since = s.now) ∧ t.mem = s.mem ∧ t.ctx.scalars = s.ctx.scalars) ∧
    (∀ j, s.ctx.slipBound j = true ∨ tabGet 0 (s.core s.ctx.core).debt j = 8 ∨ s.lanesHeld j = true → exec (.elementGroup j) s = .next s) ∧
    (∀ j, s.ctx.slipBound j = false → s.lanesHeld j = false →
      let c := (s.ctx.lockstep j).foldl (fun c i => c.laneStep s.now i) s.ctx
      exec (.elementGroup j) s = .next (s.withCtx c) ∧ c.scalars = s.ctx.scalars ∧ (s.ctx.slip ≠ 0 → s.ctx.lockstep j = [j]) ∧
        ((∀ i ∈ s.ctx.lockstep j, ∀ q ∈ (s.ctx.bank i).slots, (slotForm q.instr).all (fun f => !f.cross) = true) →
          ∀ m, m ∉ s.ctx.lockstep j → c.bank m = s.ctx.bank m)) ∧
    (∀ j, (∀ i ∈ bankList (s.ctx.gangOf j), (s.ctx.bank i).work ≤ (s.ctx.bank j).work) → s.ctx.slipBound j = false) ∧
    (∀ k j e rest, tabGet [] (s.core k).refReq j = e :: rest →
      let w := if tabGet 0 (s.core k).debt j = 8 then 7 else tabGet 0 (s.core k).debt j
      let n := min e.1 w
      ∃ t, exec (.refreshSlot k j) s = .next t ∧ tabGet 0 (t.core k).debt j = w - min 1 n ∧
        tabGet [] (t.core k).refReq j = (if n ≤ 1 then rest else (n - 1, true) :: rest) ∧ t.mem = s.mem) ∧
    (∀ k j, tabGet [] (s.core k).refReq j = [] →
      ∃ t, exec (.refreshSlot k j) s = .next t ∧ tabGet 0 (t.core k).debt j = tabGet 0 (s.core k).debt j ∧ t.mem = s.mem) ∧
    (∀ x, (s.tier x).online = true → (s.tier x).thermal ≠ 3 →
      ∃ t, exec (.refreshAccrual x) s = .next t ∧ (∀ k, k / 8 = x → ∀ j < 16,
        tabGet 0 (t.core k).debt j = min 8 (tabGet 0 (s.core k).debt j + 1)) ∧ (∀ k, k / 8 ≠ x → t.core k = s.core k) ∧ t.mem = s.mem) ∧
    (∀ x, (s.tier x).online = false ∨ (s.tier x).thermal = 3 → exec (.refreshAccrual x) s = .next s) ∧
    (∀ k j, ∃ t, exec (.forcedRefresh k j) s = .next t ∧ tabGet 0 (t.core k).debt j =
      (if tabGet 0 (s.core k).debt j = 8 then 7 else tabGet 0 (s.core k).debt j) ∧ t.mem = s.mem) ∧
    (∀ k j, ∃ t, exec (.selfRefreshSlot k j) s = .next t ∧ tabGet 0 (t.core k).debt j =
      (if s.bankOwner k j = none then tabGet 0 (s.core k).debt j - 1 else tabGet 0 (s.core k).debt j) ∧ t.mem = s.mem) ∧
    (∀ x, ∃ t, exec (.refreshBandCooling x) s = .next t ∧ (t.tier x).rband =
      (if bandOf (s.tier x).temp < (s.tier x).rband then (s.tier x).rband - 1 else (s.tier x).rband) ∧ t.mem = s.mem) ∧
    (∀ x temp, temp ≤ 105 → (s.tier x).online = true →
      ∃ t, exec (.thermalHeating x temp) s = .next t ∧ (t.tier x).temp = temp ∧ (t.tier x).online = true ∧
        (t.tier x).thermal = max (s.tier x).thermal (if 101 ≤ temp then 2 else if 97 ≤ temp then 1 else 0) ∧ t.mem = s.mem) ∧
    (∀ x temp, temp < 256 → (s.tier x).online = true →
      ∃ t, exec (.thermalCooling x temp) s = .next t ∧ (t.tier x).temp = temp ∧ (t.tier x).thermal = coolerState (s.tier x).thermal temp ∧
        ((s.tier x).thermal = 3 → temp < 95 → ∀ k, k / 8 = x → (t.core k).debt = []) ∧ t.mem = s.mem) ∧
    (∀ hprev used, ∃ t, exec (.governorInterval hprev used) s = .next t ∧ (∀ x, x < 128 → (t.tier x).pwr = false) ∧
      t.ctx.pheld = false ∧ t.ctx.heldLast = s.ctx.heldNow ∧
      (∀ n, n < 8 → (t.stack n).used = used.getD n 0 ∧ (t.stack n).holds = 0) ∧ t.mem = s.mem) ∧
    (∀ n proj hot, proj ≤ (s.stack n).allow ∨ 8 ≤ n → exec (.governorCheck n proj hot) s = .next s) ∧
    (∀ n proj hot, n < 8 → (s.stack n).allow < proj →
      let xs := (s.holdable n).foldr (insertBy fun c => ((3 - c.energy) * 8 + c.prio) * 2 ^ 64 + (2 ^ 64 - 1 - c.placedAt)) []
      let ids := (xs.take (((proj - (s.stack n).allow) * xs.length + proj - 1) / proj)).map Context.id
      let held := fun c : Context => if ids.contains c.id then { c with pheld := true, heldNow := true } else c
      let throttles := 21 * (s.stack n).allow < 20 * proj ∧ hot / 16 = n ∧ (s.tier hot).online = true ∧ (s.tier hot).pwr = false ∧
        ∀ x, x / 16 = n → (s.tier x).online = true → (s.tier x).pwr = false → (s.tier x).temp ≤ (s.tier hot).temp
      (s.holdable n ≠ [] → ∃ t, exec (.governorCheck n proj hot) s = .next t ∧ (t.stack n).holds = (s.stack n).holds + ids.length ∧
        t = { s with stackTab := t.stackTab, ctx := held s.ctx, others := s.others.map fun e => (e.1, held e.2) }) ∧
      (s.holdable n = [] → throttles → ∃ t, exec (.governorCheck n proj hot) s = .next t ∧
        t.tier hot = { s.tier hot with pwr := true } ∧ (∀ x, x ≠ hot → t.tier x = s.tier x) ∧ t.mem = s.mem) ∧
      (s.holdable n = [] → ¬ throttles → exec (.governorCheck n proj hot) s = .next s)) ∧
    (∀ x, exec (.powerBrake x) s = .next { s with brake := x }) ∧
    ∃ t, exec .haspOverheat s = .next t ∧ t.held = true ∧ t.report = true ∧ t.mem = s.mem ∧
      (s.ctx.place = .resident → t.ctx.place = .ended)

/-- R330 to R344, R352, R359, R373 to R380, R404: what the launch unit, the hub schedulers, the runtime and the debug queues do. That
debug packets wait too while acceptance is paused (LOG 81), and that placement is one walk of the list (LOG 57), is the model's
choice. -/
def Obligations.LaunchAndDebugEvents : Prop :=
  ∀ (s : State) (q : Nat),
    let r := s.queue q
    let p := parseRecord (s.slotBytes q r.head)
    (s.monitorSees q = false ∨ r.dbg = true → exec (.launchRecord q) s = .next s) ∧
    (s.monitorSees q = true → r.dbg = false → s.recordReason q p = .ok 0 →
      ∃ t l, exec (.launchRecord q) s = .next t ∧ tabFind t.launches s.nextSeq = some l ∧ l.state = 1 ∧ l.record.owner = r.token ∧
        l.record.entry = p.entry ∧ t.nextSeq = s.nextSeq + 1 ∧ (t.queue q).head = (r.head + 1) % 64 ∧
        (t.queue q).waiting = r.waiting ++ [s.nextSeq]) ∧
    (∀ n t, s.monitorSees q = true → r.dbg = false → s.recordReason q p = .ok (n + 1) → (s.slotRead q r.head).rejectRecord q p (n + 1) = .ok t →
      exec (.launchRecord q) s = .next t ∧ t.launches = s.launches ∧ (t.queue q).head = (r.head + 1) % 64) ∧
    (∀ n l, tabFind s.launches n = some l → s.heads n l = true → l.ready = false →
      (∀ i < l.record.npre, s.holdsPre l.record.owner (l.record.preas.getD i 0) (l.record.prevs.getD i 0) = true) →
      exec (.prerequisiteWake n) s = .next { s.readPres l.record with launches := tabPut s.launches n { l with ready := true } }) ∧
    (s.nextHead = none → exec .launchDispatch s = .next s) ∧
    (∀ n l, s.nextHead = some n → tabFind s.launches n = some l →
      ∃ t, exec .launchDispatch s = .next t ∧ tabFind t.launches n = some { l with state := 2 } ∧
        (t.queue l.queue).waiting = (s.queue l.queue).waiting.drop 1) ∧
    (∀ n l t, tabFind s.launches n = some l → l.state = 3 → l.record.streams ≤ l.ended →
      s.completionWrite l.record.owner l.record.donea l.record.donev = .ok t →
      ∃ u, exec (.launchCompletion n) s = .next u ∧ tabFind u.launches n = none) ∧
    (s.nextAction = none → exec .streamPlacement s = .next s) ∧
    (∀ a, s.nextAction = some a → exec .streamPlacement s = .next ((s.act a).schedule 65535)) ∧
    (s.ctx.stoppable = true → s.haltWaits = false → ∃ t, exec (.preemption s.ctx.id) s = .next t ∧ t.ctx.place = .away) ∧
    (s.ctx.resident = false → exec (.preemption s.ctx.id) s = .next s) ∧
    (s.ctx.resident = true → s.ctx.stoppable = false ∨ s.haltWaits = true →
      ∃ t, exec (.preemption s.ctx.id) s = .next t ∧ t.ctx = { s.ctx with leaving := true } ∧ t.mem = s.mem) ∧
    (∀ w ∈ s.entriesOf s.ctx.prio, sameOrdered w s.ctx = false → s.placeFor w = none → s.ctx ∈ s.displaceable w (w.prio + 1) →
      exec (.equalPrioPreempt s.ctx.id) s = .next (s.preempt s.ctx.id)) ∧
    (s.entriesOf s.ctx.prio = [] → exec (.equalPrioPreempt s.ctx.id) s = .next s) ∧
    (s.ctx.ord = false ∨ s.ctx.waitsOnWord = false → exec (.waitersGiveWay s.ctx.id) s = .next s) ∧
    (let needs : Context → Prop := fun p => p ∈ s.allCtxs ∧ p.place = .away ∧ p.seq = s.ctx.seq ∧ p.l < s.ctx.l ∧
        (s.whereIs p).core = s.ctx.core ∧
        gangSlot (s.whereIs p).gmWlog.toNat (s.whereIs p).gmBase.toNat &&& s.ctx.allBanks ≠ 0
      ∀ p, ((∀ x, ¬ needs x) → exec (.waitersGiveWay s.ctx.id) s = .next s) ∧
        (s.ctx.ord = true → s.ctx.waitsOnWord = true → s.ctx.stoppable = true → s.haltWaits = false → needs p →
          (∀ x, needs x → p.l ≤ x.l ∧ (x.l = p.l → x.id = p.id)) →
          ∃ t, exec (.waitersGiveWay s.ctx.id) s = .next t ∧ t.ctx.place = .away ∧ t.ctx.id = s.ctx.id ∧
            (∃ x ∈ t.allCtxs, x.id = p.id) ∧ ∀ x ∈ t.allCtxs, x.id = p.id → x.claims = true)) ∧
    (s.ctx.place = .resident → ∃ t, exec (.runtimeEndsContext s.ctx.id) s = .next t ∧ t.ctx.place = .ended ∧ t.ctx.id = s.ctx.id ∧
      t.mem = s.mem) ∧
    (exec .runtimeRelease s = .next { s with keyholder := s.keyholder.release }) ∧
    (s.keyholder.release.paused = false ∧ s.keyholder.release.runtime = s.keyholder.runtime ∧
      s.keyholder.release.reported = if s.keyholder.paused then s.keyholder.runtime else s.keyholder.reported) ∧
    (let ops : List (Nat × Instr) := [(1, .attach q), (2, .detach q), (3, .halt q), (4, .resume q), (5, .readmem q), (6, .writemem q),
        (7, .readctx q), (8, .writectx q), (9, .readslip q)]
      let k := parsePacket (s.slotBytes q r.head)
      (s.monitorSees q = false ∨ r.dbg = false ∨ r.busy = true → ∀ o ∈ ops, exec o.2 s = .next s) ∧
      (s.monitorSees q = true → r.dbg = true → r.busy = false → k.ok = true → (k.owner = 0 ∨ k.owner = r.token) →
        ∀ o ∈ ops, o.1 = k.op →
          (∀ status haltr t u, (s.slotRead q r.head).packetOp r.token k = .done status haltr t →
            t.packetDone q r.head 4 status haltr k.donea k.donev = .ok u →
            exec o.2 s = .next (u.setQueue q (u.queue q).next)) ∧
          ((s.slotRead q r.head).packetOp r.token k = .retry → exec o.2 s = .next s))) ∧
    (∀ (token : Word) (k : Packet) (c : Context), s.target k = some c → c.owner = token →
      (k.op = 2 → s.packetOp token k = .done 0 0 (s.updCtx c.id fun c => { c with dbk := false, trc := false })) ∧
      (∀ h, c.place = .halted h → k.op = 3 → s.packetOp token k = .done 0 h s) ∧
      (c.place = .away → k.op = 3 →
        s.packetOp token k = .done 0 1 (s.updCtx c.id fun c => { c with place := .halted 1, claims := false })) ∧
      (∀ h, c.place = .halted h → k.op = 4 → k.step = false → (∀ w ∈ s.answerHalts.halts, w.ctx ≠ c.id) →
        s.packetOp token k = .done 0 0 (s.answerHalts.updCtx c.id fun c => { c with place := .away, stepOnce := false, haltReq := none })) ∧
      (∀ h, c.place = .halted h → k.op = 4 → (∃ w ∈ s.answerHalts.halts, w.ctx = c.id) → s.packetOp token k = .retry) ∧
      (c.place = .away → k.op = 4 ∨ k.op = 7 ∨ k.op = 8 → s.packetOp token k = .done 5 0 s)) ∧
    (∀ (token : Word) (k : Packet) (c : Context), s.target k = some c → c.owner ≠ token →
      k.op = 2 ∨ k.op = 3 ∨ k.op = 4 ∨ k.op = 7 ∨ k.op = 8 ∨ k.op = 9 → s.packetOp token k = .done 3 0 s) ∧
    (s.halts = [] → s.ctx.stoppable = true → s.haltWaits = false → s.ctx.haltReq = some 1 →
      ∃ t, exec (.haltPointReached s.ctx.id) s = .next t ∧ t.ctx.place = .halted 1) ∧
    (s.halts = [] → s.ctx.haltReq = none → exec (.haltPointReached s.ctx.id) s = .next s)

/-- R127, R138, R214, R237 to R251, R262 to R267, R283 to R292, R303 to R326, R361, R370: what the memory system, the copy units, the
crews, the hinges and the control space do. That an atomic of a peer performs as it arrives when nothing else waits (LOG 85), that one
that fails answers with nothing (LOG 69), and that the control-space steps stand for a control core behind the access filter, which does
not run in recovery (LOG 92), is the model's choice. -/
def Obligations.FabricEvents : Prop :=
  ∀ s : State,
    let restarts := fun t : State => t.ctx = s.ctx.restart s.now ∧ t.ctx.stall = false ∧ t.ctx.pc = s.ctx.pc ∧
      t.ctx.scalars = s.ctx.scalars ∧ t.mem = s.mem
    let wakes := fun t : State => t.ctx = s.ctx.wakeIf s.now (fun _ => true) ∧ t.ctx.parked = none ∧ t.ctx.pc = s.ctx.pc ∧
      t.ctx.scalars = s.ctx.scalars ∧ t.mem = s.mem
    (∀ core sel, ∃ t, exec (.invalidationArrival core sel) s = .next t ∧ (s.still → t.mem = s.mem) ∧ t.ctx.scalars = s.ctx.scalars ∧
      ∀ j n, ((t.ctx.bank j).row n).st =
        if s.ctx.place = .resident ∧ s.ctx.core = core ∧ ((s.ctx.bank j).row n).st = .opened ∧
            (((s.ctx.bank j).row n).pinned.any fun p => s.invCoversPage sel s.ctx.owner p.va p.size) = true then .revoked
        else ((s.ctx.bank j).row n).st) ∧
    (∀ a va, ∃ t, exec (.pageWalk a va) s = .next t ∧ ((∀ core cls, s.arrivals core cls = []) → t.mem = s.mem ∧ t.ctx = s.ctx ∧ t.others = s.others ∧
      t.posted = s.posted ∧ t.externals = s.externals ∧ ∀ pa ∈ (s.walkPath va 4 ((s.asid a).root.toNat * 2 ^ 20)).getLast?,
        s.locOf pa < 2 ^ 39 → (t.core (coreOfLoc (s.locOf pa))).lastClass = 0)) ∧
    (∀ a va, (s.asid a).v = true → va < 2 ^ 56 → s.walk (s.asid a).token a va 4 ((s.asid a).root.toNat * 2 ^ 20) = trapS 0x08 (BitVec.ofNat 64 va) →
      exec (.pageRequest a va) s = .next (s.postRequest a (va / 2 ^ 16))) ∧
    (∀ a va e, s.walk (s.asid a).token a va 4 ((s.asid a).root.toNat * 2 ^ 20) = .ok e → exec (.pageRequest a va) s = .next s) ∧
    (s.ctx.place = .resident → ∃ t, exec (.slotGrant s.ctx.core) s = .next t ∧ restarts t) ∧
    (∃ t, exec (.loadResponse s.ctx.id) s = .next t ∧ restarts t) ∧
    (∃ t, exec (.detentInstall s.ctx.id) s = .next t ∧ restarts t) ∧
    (∃ t, exec (.waitwWriteWake s.ctx.core) s = .next t ∧ wakes t) ∧
    (∃ t, exec (.waitwTimerWake s.ctx.id) s = .next t ∧ wakes t) ∧
    (∀ k p, s.posted[k]? = some p → s.canPerform k p = true → s.backed false p.pa = true →
      ∃ t, exec (.storeAtHome k) s = .next t ∧ t.mem = memWrite s.mem (s.locOf p.pa) p.n p.v ∧
        t.posted.map (fun q => { q with sent := true }) = (s.posted.eraseIdx k).map fun q => { q with sent := true }) ∧
    (∀ k p, s.posted[k]? = some p → s.canPerform k p = false → exec (.storeAtHome k) s = .next s) ∧
    (∀ core, (∀ cls < 3, s.queued core cls = []) → exec (.endpointActivation core) s = .next s) ∧
    (∀ core p, s.posted = [p] → s.externals = [] → (∀ c ∈ s.allCtxs, c.requests = []) → (∀ q ∈ s.allSlots, q.2.2.state ≠ 1) →
      spaceOf p.pa = .device →
      coreOfLoc (s.locOf p.pa) = core → s.canPerform 0 p = true → s.backed false p.pa = true →
      ∃ t, exec (.endpointActivation core) s = .next t ∧ t.posted = [] ∧ t.mem = memWrite s.mem (s.locOf p.pa) p.n p.v ∧
        (t.core core).lastClass = 0) ∧
    (∀ link op w32 pa d new, let n := if op = .claim then 16 else if w32 then 4 else 8
      (s.link link).up = true → (s.link link).acc = true → s.keyholder.recovery = false → s.quiet = true → pa % n = 0 →
      spaceOf pa = .device →
      s.backed false pa = true → (∀ p ∈ pieces pa n, s.blocked p.1 p.2 = false) → s.markCause (s.locOf pa) n = none →
      s.anyAhead = false →
      let old := s.readCells pa n
      ∃ t, exec (.atomicAtHome link ⟨op, w32⟩ pa d new) s = .next t ∧ t.reply = ((List.range n).map fun i => BitVec.ofNat 8 (old / 2 ^ (8 * i))) ∧
        t.mem = if op = .claim then memWrite s.mem (s.locOf pa) 8 (claimNext old d.toNat)
          else memWrite s.mem (s.locOf pa) n (atomicNew op (8 * n) old (d.toNat % 2 ^ (8 * n)) (new.toNat % 2 ^ (8 * n)))) ∧
    (∀ link op w32 pa d new, (s.link link).up = false ∨ (s.link link).acc = false ∨ s.keyholder.recovery = true →
      exec (.atomicAtHome link ⟨op, w32⟩ pa d new) s = .next { s with reply := [] }) ∧
    (∀ core n, (s.slot core n).state ≠ 1 → exec (.copySourceRead core n) s = .next s ∧ exec (.recordDecompress core n) s = .next s ∧
      exec (.copyLanding core n) s = .next s) ∧
    (∀ core n since, let q := s.slot core n
      let va := (q.src q.readNext).toNat
      let s1 := s.setCore core { s.core core with readTurn := n }
      s.readTurn core = some n → (s.readAt core n).all (fun pa => s.mayReach core 1 pa && s.oldestAt 1 (s.readAge core n) pa) = true →
      s.rawReady core n = none → q.entered q.readNext = some since → q.readNext < q.runEnd → q.doom = none →
      (q.fetched + 256 < q.readSize → ∃ t, exec (.copySourceRead core n) s = .next t ∧
        t.slot core n = { q with fetched := q.fetched + 256 } ∧ t.mem = s.mem) ∧
      ∀ v, q.readSize ≤ q.fetched + 256 → q.dc = 0 → s1.readSource q since none va (pieces va q.readSize) = .ok v →
        ∃ t, exec (.copySourceRead core n) s = .next t ∧ t.mem = s.mem ∧ t.slot core n =
          { q with ahead := q.ahead ++ [v], fetched := 0, front := if q.ahead = [] then s.now else q.front }) ∧
    (∀ core n, s.readTurn core ≠ some n → exec (.copySourceRead core n) s = .next s) ∧
    (∀ core n x raw, s.readTurn core = some n → s.rawReady core n = some (x, raw) →
      (s.readAt core n).all (fun pa => s.mayReach core 1 pa && s.oldestAt 1 (s.readAge core n) pa) = true → x.got + 256 < 8192 →
      (∃ v, (s.setCore core { s.core core with readTurn := n }).rawBytes (s.slot core n) x raw = .ok v) →
      ∃ t, exec (.copySourceRead core n) s = .next t ∧ t.mem = s.mem ∧ t.slot core n =
        { s.slot core n with records := { x with got := x.got + 256 } :: (s.slot core n).records.drop 1 }) ∧
    (∀ core n x rest row, let q := s.slot core n
      let k := x.stack
      s.copyGoes core q = true → q.records = x :: rest → x.taken = false → recordRow q.dc x.bits = some (some row) →
      (s.stack k).decomp.head? = some (core, n) →
      ∃ t, exec (.recordDecompress core n) s = .next t ∧ (t.slot core n).ahead.take (q.ahead.length + 1) = q.ahead ++ [row] ∧
        (t.stack k).decomp = (s.stack k).decomp.drop 1 ∧ t.mem = s.mem) ∧
    (∀ core n v rest, let q := s.slot core n
      let s1 := s.setCore core { s.core core with copyTurn := n }
      s.copyTurn core = some n → q.landAddr.all (fun pa => s.mayReach core 1 pa && s.oldestAt 1 q.front pa) = true → q.ahead = v :: rest → s1.landCheck q q.landing = .ok () →
      ∃ t, exec (.copyLanding core n) s = .next t ∧
        (q.moved + 256 < q.esize → t.slot core n = { q with moved := q.moved + 256, front := s.now } ∧ t.mem = s.mem) ∧
        (q.esize ≤ q.moved + 256 → (t.slot core n).next = q.next + 1 ∧ (t.slot core n).moved = 0 ∧
          (t.slot core n).state = (if q.next + 1 = q.total then 3 else 1) ∧
          ((∀ e ∈ q.window, e.2 ≤ q.next + 1 + max 1 ((s.core core).share q / max 1 q.readSize)) → (t.slot core n).ahead = rest))) ∧
    (∀ core n k, let q := s.slot core n
      ∃ t, exec (.detentWmUpdate core ⟨n, k⟩) s = .next t ∧ t.mem = s.mem ∧
        (q.installed = true → q.cores.contains k = true → (t.slot core n).wmIn k = max (q.wmIn k) q.wm)) ∧
    (∀ core n, let q := s.slot core n
      q.state = 3 ∨ q.state = 4 → ∃ t, exec (.detentFree core n) s = .next t ∧ (t.slot core n).installed = false ∧ t.mem = s.mem) ∧
    (∀ core, s.sliceOwner core = none → exec (.crewForm core) s = .next s ∧ exec (.mmfRelease core) s = .next s ∧
      exec (.mmfComplete core) s = .next s) ∧
    (∀ q, (s.core s.ctx.core).slice = some s.ctx.id → s.ctx.mmf = some q → q.formed = false → blockCores s.ctx.core q.mg = [s.ctx.core] →
      ∃ t m, exec (.crewForm s.ctx.core) s = .next t ∧ t.ctx.mmf = some m ∧ m.formed = true ∧ t.mem = s.mem) ∧
    (∀ q, (s.core s.ctx.core).slice = some s.ctx.id → s.ctx.mmf = some q → grantPos q.mg = 0 →
      exec (.mmfRelease s.ctx.core) s = .next (s.finishMember s.ctx.core)) ∧
    (∀ q, let u := s.finishMember s.ctx.core
      (s.core s.ctx.core).slice = some s.ctx.id → u.ctx.mmf = some q → grantPos q.mg = 0 → grantM q.mg ≤ 64 →
      blockCores s.ctx.core q.mg = [s.ctx.core] → u.chainReady [u.ctx] q.q 0 = true →
      ∃ t, exec (.mmfComplete s.ctx.core) s = .next t ∧ t.ctx.mmf = none ∧ t.ctx.mrep = mrepWord [u.ctx] q ∧
        t.ctx.scalars = s.ctx.scalars) ∧
    (∀ core, exec (.hingeRetry core) s = .next s) ∧
    (∀ core, core < 1024 → core / 8 % 16 < 15 →
      ∃ t, exec (.hingeLinkFail core) s = .next t ∧ (t.core core).hup = false ∧ (t.core (core + 8)).hdn = false) ∧
    (∀ x, (s.tier x).online = true → ∃ t, exec (.tierOffline x) s = .next t ∧ (t.tier x).online = false ∧
      (∀ k, k / 8 = x → (t.core k).online = false ∧ (t.core k).mat = false) ∧
      (s.ctx.place = .resident → tierOf s.ctx.core = x → t.ctx.place = .ended)) ∧
    (∀ x, (s.tier x).online = false → exec (.tierOffline x) s = .next s) ∧
    (s.keyholder.recovery = false → s.keyholder.filter.allows .control = true →
      (∀ x, x < 128 → exec (.offreq x) s = .next (s.offlineTier x)) ∧
      (∀ v, exec (.pbudgetWrite v) s = .next (s.storeControl 0x50200 v) ∧ exec (.savesetsWrite v) s = .next (s.storeControl 0x50208 v)) ∧
      (∀ k v, k < 1024 → ∃ t, exec (.sreqWrite k v) s = .next t ∧ (t.core k).sreq = v.extractLsb' 0 32 ∧ t.mem = s.mem) ∧
      (∀ i w v, i < 16 → w < 16 → exec (.regionTableWrite i w v) s = .next (s.storeControl (128 * i + 8 * w) v)) ∧
      ∀ off v, off % 8 = 0 → exec (.controlSpaceWrite off v) s = .next (if controlWord off then s.storeControl off v else s)) ∧
    ∀ i w off v x k, s.keyholder.recovery = true → ∀ e ∈ [.offreq x, .pbudgetWrite v, .savesetsWrite v, .sreqWrite k v,
      .regionTableWrite i w v, .controlSpaceWrite off v], exec e s = .next s

/-- R327, R360, R396 to R407: what the ports, the links, the keyholder and the management interface do. That an access of a host or a
peer performs whole as it arrives when nothing else waits, and is queued otherwise (LOG 85), that a hot reset or a lost link drops posted
stores (LOG 63), that a failed access answers with nothing (LOG 69), the order of the bytes in measurements (LOG 10), the size of a
management read (LOG 104), what a control core's access looks like (LOG 92) and an image load in recovery (LOG 103), is the model's choice. -/
def Obligations.PortAndManagementEvents : Prop :=
  ∀ s : State,
    (∀ port off n data, exec (.hostAccess port off n data) s = .next
      (if (s.port port).up ∧ s.keyholder.recovery = false ∧ s.retry = false ∧ (off < 2 ^ 40 ∨ off + n ≤ 2 ^ 40 + 2 ^ 20) then
        s.arrive { src := port, pa := (s.port port).hostPa off, n := n, todo := [], got := 0, data := data, atomic := none, flits := flitsOf n data }
      else { s with reply := [] })) ∧
    (∀ l a n data, exec (.peerAccess l a n data) s = .next
      (if (s.link l).up ∧ (s.link l).acc ∧ s.keyholder.recovery = false then
        s.arrive { src := 2 + l, pa := a, n := n, todo := [], got := 0, data := data, atomic := none, flits := flitsOf n data }
      else { s with reply := [] })) ∧
    (∀ r : External, r.n = 0 ∨ 2 ^ 40 < r.pa + r.n ∨ s.unbacked r.pa r.n = true → s.arrive r = { s with reply := [] }) ∧
    (∀ r : External, s.quiet = false → 0 < r.n → r.pa + r.n ≤ 2 ^ 40 → s.unbacked r.pa r.n = false →
      s.arrive r = { s with externals := s.externals ++ [{ r with todo := r.split }] }) ∧
    (∀ r : External, (r.atomic.isSome = true ∨ (r.data.isSome = true ∧ r.pa / 2 ^ 20 = 2 ^ 19) → r.split = [(r.pa, r.n)]) ∧
      (r.atomic = none → (r.data = none ∨ r.pa / 2 ^ 20 ≠ 2 ^ 19) → r.split = pieces r.pa r.n)) ∧
    (∀ r : External, s.quiet = true → r.atomic = none → 0 < r.n → r.pa + r.n ≤ 2 ^ 40 →
      (∀ p ∈ pieces r.pa r.n, s.backed false p.1 = true ∧ s.blocked p.1 p.2 = false) →
      (r.data = none → (s.arrive r).reply = s.outsideBytes r.pa r.n ∧ (s.arrive r).mem = s.mem) ∧
      ∀ v, r.data = some v → r.pa / 512 = (r.pa + r.n - 1) / 512 →
        (s.arrive r).mem = memWrite s.mem (s.locOf r.pa) r.n (v % 2 ^ (8 * r.n))) ∧
    (∀ l, (s.link l).up = true → ∃ t, exec (.linkRetrain l) s = .next t ∧ (t.link l).lanes = 4 ∧ (t.link l).up = true ∧ t.mem = s.mem) ∧
    (∀ i, ∃ t, exec (.linkDown true i) s = .next t ∧ (t.port i).up = false ∧ (∀ p ∈ t.posted, spaceOf p.pa ≠ .host i) ∧
      (∀ r ∈ t.externals, r.src ≠ i) ∧ t.mem = s.mem) ∧
    (∀ i, ∃ t, exec (.linkDown false i) s = .next t ∧ (t.link i).up = false ∧ (∀ p ∈ t.posted, spaceOf p.pa ≠ .druthes i) ∧
      (∀ r ∈ t.externals, r.src ≠ 2 + i) ∧ t.mem = s.mem) ∧
    (∀ port mode width, port < 2 → mode < 4 → width = 4 ∨ width = 8 ∨ width = 16 →
      ∃ t, exec (.hostPortTraining port mode width) s = .next t ∧ (t.port port).up = true ∧ (t.port port).mode.toNat = mode ∧
        (t.port port).width.toNat = width ∧ (t.port port).lim = (s.port port).lim ∧ t.mem = s.mem) ∧
    (∀ i, ∃ t, exec (.hostPortHotReset i) s = .next t ∧ (∀ p ∈ t.posted, spaceOf p.pa ≠ .host i) ∧ t.ctx = s.ctx ∧ t.mem = s.mem) ∧
    (∀ l gen lanes peer, s.keyholder.recovery = false → l < 8 → gen = 1 ∨ gen = 2 → lanes = 4 ∨ lanes = 8 → peer < 256 →
      ∃ t, exec (.druthesLinkTrained l gen lanes peer) s = .next t ∧ (t.link l).up = true ∧ (t.link l).gen = decide (gen = 2) ∧
        (t.link l).lanes.toNat = lanes ∧ (t.link l).peer.toNat = peer ∧ t.mem = s.mem) ∧
    (∀ l, exec (.druthesFlitRetry l) s = .next s) ∧
    (∀ k, ∃ t, exec (.matrixSliceFailure k) s = .next t ∧ (t.core k).mat = false ∧ t.mem = s.mem) ∧
    (∀ a b, ∃ t, exec (.coldReset a b) s = .next t ∧ t.ctx = Context.reset ∧ t.others = [] ∧ t.marks = [] ∧ t.cycle = 0 ∧
      (∀ x < 2 ^ 39, memByte t.mem x = 0) ∧
      t.keyholder.recovery = !(imageAccepted a 1 s.keyholder.minPatch.toNat && imageAccepted b 2 s.keyholder.minRuntime.toNat)) ∧
    (∀ session, session = false ∨ s.keyholder.recovery = true → exec (.deviceReset session) s = .next s) ∧
    (s.keyholder.recovery = false → ∃ t, exec (.deviceReset true) s = .next t ∧ t.ctx = Context.reset ∧ t.others = [] ∧
      t.launches = [] ∧ t.posted = [] ∧ (∀ x, (s.tier (tierOfLoc x)).online = true → memByte t.mem x = memByte s.mem x) ∧
      ∀ x < 2 ^ 39, (s.tier (tierOfLoc x)).online = false → memByte t.mem x = 0) ∧
    (∀ i, exec (.spdmMessage i) s = .next { s with reply := s.keyholder.answer s.now i }) ∧
    (s.keyholder.measure 5 = bytesOf 2 s.keyholder.minPatch.toNat ++ bytesOf 2 s.keyholder.minRuntime.toNat ∧
      ∀ img, s.keyholder.patch = some img → s.keyholder.measure 2 = sha512 (imageBytes img)) ∧
    (∀ off, exec (.mgmtReadTables off) s = .next { s with
      reply := if tableOffset off ∧ s.keyholder.recovery = false then bytesOf 8 (s.readControl (off / 8 * 8)) else [] }) ∧
    (∀ session v, exec (.mgmtWritePbudget session v) s = .next
      (if session ∧ s.keyholder.recovery = false then s.storeControl 0x50200 v else s)) ∧
    (∀ session x, exec (.mgmtWriteOffreq session x) s = .next (if session ∧ s.keyholder.recovery = false then s.offlineTier x else s)) ∧
    (∀ img, exec (.mgmtLoadImage false img) s = .next s) ∧
    (∀ img, imageAccepted img 1 s.keyholder.minPatch.toNat = true →
      exec (.mgmtLoadImage true img) s = .next { s with keyholder := ({ s.keyholder with patch := some img } : Keyholder).record [2] }) ∧
    (∀ img, imageAccepted img 2 s.keyholder.minRuntime.toNat = true →
      exec (.mgmtLoadImage true img) s = .next { s with keyholder := { s.keyholder with runtime := some img, paused := true } }) ∧
    (∀ pa n data rest, s.held = false → s.inputs = .control pa n data :: rest →
      let u := { s with inputs := rest }
      let off := pa % 2 ^ 48
      (s.keyholder.recovery = true → step s = .next { u with reply := [] }.tock) ∧
      (s.keyholder.recovery = false → s.keyholder.filter.allows .device = true → spaceOf pa = .device → step s = .next (u.arrive
        { src := haspSources, pa := pa, n := n, todo := [], got := 0, data := data, atomic := none, flits := 0 }).tock) ∧
      (s.keyholder.recovery = false → s.keyholder.filter.allows .control = true → spaceOf pa = .control → controlWord off = true →
        pa % 8 = 0 → n = 8 → (data = none → step s = .next { u with reply := bytesOf 8 (u.readControl off) }.tock) ∧
          ∀ v, data = some v → step s = .next (u.storeControl off (BitVec.ofNat 64 v)).tock)) ∧
    (∀ port rest, s.held = false → s.inputs = .config port :: rest → ∃ r, step s = .next { s with inputs := rest, reply := r }.tock ∧
      r.length = if (s.port port).up = true ∧ s.retry = false then 4 else 0) ∧
    ((∀ f ∈ protectedTargets, s.keyholder.filter.allows f = false) → exec .accessFilterDenial s =
      .next { s with keyholder := { s.keyholder with denied := s.keyholder.denied + 1 } }) ∧
    ∀ f ∈ protectedTargets, AccessFilter.programmed.allows f = false

/-! Invariants. -/

/-- Every step keeps memory in its canonical form (addresses rise, no listed byte is 0), so that equal memories are equal data. -/
def Obligations.MemoryFormKept : Prop :=
  ∀ s t : State, s.memForm → step s = .next t → t.memForm

/-- R37, R43, R25: user mode is left by a trap entry alone. Whatever word a resident user-mode stream runs, as long as it stays resident
it comes to supervisor mode only at TVEC with the asynchronous causes deferred and the user mode saved, and it cannot change TVEC or
TSCR. -/
def Obligations.UserModeConfined : Prop :=
  ∀ (i : Instr) (s t : State), isWord i = true → s.ctx.place = .resident → s.ctx.sup = false → exec i s = .next t →
    t.ctx.place = .resident →
    t.ctx.tvec = s.ctx.tvec ∧ t.ctx.tscr = s.ctx.tscr ∧
    (t.ctx.sup = true → t.ctx.pc = s.ctx.tvec.setWidth 64 ∧ t.ctx.ad = true ∧ t.ctx.tstat.getLsbD 0 = false)
end

