-- ==== Sys2Proof/Laws/Exec.lean ====
section
/-! SUPPORT. exec, one constructor at a time: no proof need unfold the dispatch. -/

namespace Sys2Proof.Machine

@[simp] theorem exec_add (d : NameF) (a : NameF) (b : NameF) (s : State) : exec (.add d a b) s = execAdd d a b s := rfl
@[simp] theorem exec_sub (d : NameF) (a : NameF) (b : NameF) (s : State) : exec (.sub d a b) s = execSub d a b s := rfl
@[simp] theorem exec_and (d : NameF) (a : NameF) (b : NameF) (s : State) : exec (.and d a b) s = execAnd d a b s := rfl
@[simp] theorem exec_or (d : NameF) (a : NameF) (b : NameF) (s : State) : exec (.or d a b) s = execOr d a b s := rfl
@[simp] theorem exec_xor (d : NameF) (a : NameF) (b : NameF) (s : State) : exec (.xor d a b) s = execXor d a b s := rfl
@[simp] theorem exec_andn (d : NameF) (a : NameF) (b : NameF) (s : State) : exec (.andn d a b) s = execAndn d a b s := rfl
@[simp] theorem exec_shl (d : NameF) (a : NameF) (b : NameF) (s : State) : exec (.shl d a b) s = execShl d a b s := rfl
@[simp] theorem exec_shr (d : NameF) (a : NameF) (b : NameF) (s : State) : exec (.shr d a b) s = execShr d a b s := rfl
@[simp] theorem exec_sar (d : NameF) (a : NameF) (b : NameF) (s : State) : exec (.sar d a b) s = execSar d a b s := rfl
@[simp] theorem exec_rol (d : NameF) (a : NameF) (b : NameF) (s : State) : exec (.rol d a b) s = execRol d a b s := rfl
@[simp] theorem exec_mul (d : NameF) (a : NameF) (b : NameF) (s : State) : exec (.mul d a b) s = execMul d a b s := rfl
@[simp] theorem exec_mulhs (d : NameF) (a : NameF) (b : NameF) (s : State) : exec (.mulhs d a b) s = execMulhs d a b s := rfl
@[simp] theorem exec_mulhn (d : NameF) (a : NameF) (b : NameF) (s : State) : exec (.mulhn d a b) s = execMulhn d a b s := rfl
@[simp] theorem exec_divs (d : NameF) (a : NameF) (b : NameF) (s : State) : exec (.divs d a b) s = execDivs d a b s := rfl
@[simp] theorem exec_divn (d : NameF) (a : NameF) (b : NameF) (s : State) : exec (.divn d a b) s = execDivn d a b s := rfl
@[simp] theorem exec_rems (d : NameF) (a : NameF) (b : NameF) (s : State) : exec (.rems d a b) s = execRems d a b s := rfl
@[simp] theorem exec_remn (d : NameF) (a : NameF) (b : NameF) (s : State) : exec (.remn d a b) s = execRemn d a b s := rfl
@[simp] theorem exec_mins (d : NameF) (a : NameF) (b : NameF) (s : State) : exec (.mins d a b) s = execMins d a b s := rfl
@[simp] theorem exec_maxs (d : NameF) (a : NameF) (b : NameF) (s : State) : exec (.maxs d a b) s = execMaxs d a b s := rfl
@[simp] theorem exec_minn (d : NameF) (a : NameF) (b : NameF) (s : State) : exec (.minn d a b) s = execMinn d a b s := rfl
@[simp] theorem exec_maxn (d : NameF) (a : NameF) (b : NameF) (s : State) : exec (.maxn d a b) s = execMaxn d a b s := rfl
@[simp] theorem exec_clz (d : NameF) (a : NameF) (s : State) : exec (.clz d a) s = execClz d a s := rfl
@[simp] theorem exec_ctz (d : NameF) (a : NameF) (s : State) : exec (.ctz d a) s = execCtz d a s := rfl
@[simp] theorem exec_popc (d : NameF) (a : NameF) (s : State) : exec (.popc d a) s = execPopc d a s := rfl
@[simp] theorem exec_bswap (d : NameF) (a : NameF) (s : State) : exec (.bswap d a) s = execBswap d a s := rfl
@[simp] theorem exec_seq (d : NameF) (a : NameF) (b : NameF) (s : State) : exec (.seq d a b) s = execSeq d a b s := rfl
@[simp] theorem exec_sne (d : NameF) (a : NameF) (b : NameF) (s : State) : exec (.sne d a b) s = execSne d a b s := rfl
@[simp] theorem exec_slts (d : NameF) (a : NameF) (b : NameF) (s : State) : exec (.slts d a b) s = execSlts d a b s := rfl
@[simp] theorem exec_sltn (d : NameF) (a : NameF) (b : NameF) (s : State) : exec (.sltn d a b) s = execSltn d a b s := rfl
@[simp] theorem exec_sles (d : NameF) (a : NameF) (b : NameF) (s : State) : exec (.sles d a b) s = execSles d a b s := rfl
@[simp] theorem exec_slen (d : NameF) (a : NameF) (b : NameF) (s : State) : exec (.slen d a b) s = execSlen d a b s := rfl
@[simp] theorem exec_sel (d : NameF) (a : NameF) (b : NameF) (s : State) : exec (.sel d a b) s = execSel d a b s := rfl
@[simp] theorem exec_extsX8 (d : NameF) (a : NameF) (s : State) : exec (.extsX8 d a) s = execExtsX8 d a s := rfl
@[simp] theorem exec_extsX16 (d : NameF) (a : NameF) (s : State) : exec (.extsX16 d a) s = execExtsX16 d a s := rfl
@[simp] theorem exec_extsX32 (d : NameF) (a : NameF) (s : State) : exec (.extsX32 d a) s = execExtsX32 d a s := rfl
@[simp] theorem exec_extzN8 (d : NameF) (a : NameF) (s : State) : exec (.extzN8 d a) s = execExtzN8 d a s := rfl
@[simp] theorem exec_extzN16 (d : NameF) (a : NameF) (s : State) : exec (.extzN16 d a) s = execExtzN16 d a s := rfl
@[simp] theorem exec_extzN32 (d : NameF) (a : NameF) (s : State) : exec (.extzN32 d a) s = execExtzN32 d a s := rfl
@[simp] theorem exec_bfx (d : NameF) (a : NameF) (b : NameF) (s : State) : exec (.bfx d a b) s = execBfx d a b s := rfl
@[simp] theorem exec_bfi (d : NameF) (a : NameF) (b : NameF) (s : State) : exec (.bfi d a b) s = execBfi d a b s := rfl
@[simp] theorem exec_faddS (d : NameF) (a : NameF) (b : NameF) (s : State) : exec (.faddS d a b) s = execFaddS d a b s := rfl
@[simp] theorem exec_fsubS (d : NameF) (a : NameF) (b : NameF) (s : State) : exec (.fsubS d a b) s = execFsubS d a b s := rfl
@[simp] theorem exec_fmulS (d : NameF) (a : NameF) (b : NameF) (s : State) : exec (.fmulS d a b) s = execFmulS d a b s := rfl
@[simp] theorem exec_fdivS (d : NameF) (a : NameF) (b : NameF) (s : State) : exec (.fdivS d a b) s = execFdivS d a b s := rfl
@[simp] theorem exec_fminS (d : NameF) (a : NameF) (b : NameF) (s : State) : exec (.fminS d a b) s = execFminS d a b s := rfl
@[simp] theorem exec_fmaxS (d : NameF) (a : NameF) (b : NameF) (s : State) : exec (.fmaxS d a b) s = execFmaxS d a b s := rfl
@[simp] theorem exec_fcmpS (d : NameF) (a : NameF) (b : NameF) (s : State) : exec (.fcmpS d a b) s = execFcmpS d a b s := rfl
@[simp] theorem exec_ffmaS (d : NameF) (a : NameF) (b : NameF) (s : State) : exec (.ffmaS d a b) s = execFfmaS d a b s := rfl
@[simp] theorem exec_faddD (d : NameF) (a : NameF) (b : NameF) (s : State) : exec (.faddD d a b) s = execFaddD d a b s := rfl
@[simp] theorem exec_fsubD (d : NameF) (a : NameF) (b : NameF) (s : State) : exec (.fsubD d a b) s = execFsubD d a b s := rfl
@[simp] theorem exec_fmulD (d : NameF) (a : NameF) (b : NameF) (s : State) : exec (.fmulD d a b) s = execFmulD d a b s := rfl
@[simp] theorem exec_fdivD (d : NameF) (a : NameF) (b : NameF) (s : State) : exec (.fdivD d a b) s = execFdivD d a b s := rfl
@[simp] theorem exec_fminD (d : NameF) (a : NameF) (b : NameF) (s : State) : exec (.fminD d a b) s = execFminD d a b s := rfl
@[simp] theorem exec_fmaxD (d : NameF) (a : NameF) (b : NameF) (s : State) : exec (.fmaxD d a b) s = execFmaxD d a b s := rfl
@[simp] theorem exec_fcmpD (d : NameF) (a : NameF) (b : NameF) (s : State) : exec (.fcmpD d a b) s = execFcmpD d a b s := rfl
@[simp] theorem exec_ffmaD (d : NameF) (a : NameF) (b : NameF) (s : State) : exec (.ffmaD d a b) s = execFfmaD d a b s := rfl
@[simp] theorem exec_fsqrt (d : NameF) (a : NameF) (dbl : Bool) (s : State) : exec (.fsqrt d a dbl) s = execFsqrt d a dbl s := rfl
@[simp] theorem exec_frsqe (d : NameF) (a : NameF) (dbl : Bool) (s : State) : exec (.frsqe d a dbl) s = execFrsqe d a dbl s := rfl
@[simp] theorem exec_frcpe (d : NameF) (a : NameF) (dbl : Bool) (s : State) : exec (.frcpe d a dbl) s = execFrcpe d a dbl s := rfl
@[simp] theorem exec_fclass (d : NameF) (a : NameF) (dbl : Bool) (s : State) : exec (.fclass d a dbl) s = execFclass d a dbl s := rfl
@[simp] theorem exec_fcvt (d : NameF) (a : NameF) (x : BitVec 4) (s : State) : exec (.fcvt d a x) s = execFcvt d a x s := rfl
@[simp] theorem exec_addi (d : NameF) (a : NameF) (imm : BitVec 12) (s : State) : exec (.addi d a imm) s = execAddi d a imm s := rfl
@[simp] theorem exec_andi (d : NameF) (a : NameF) (imm : BitVec 12) (s : State) : exec (.andi d a imm) s = execAndi d a imm s := rfl
@[simp] theorem exec_ori (d : NameF) (a : NameF) (imm : BitVec 12) (s : State) : exec (.ori d a imm) s = execOri d a imm s := rfl
@[simp] theorem exec_xori (d : NameF) (a : NameF) (imm : BitVec 12) (s : State) : exec (.xori d a imm) s = execXori d a imm s := rfl
@[simp] theorem exec_shli (d : NameF) (a : NameF) (imm : BitVec 6) (s : State) : exec (.shli d a imm) s = execShli d a imm s := rfl
@[simp] theorem exec_shri (d : NameF) (a : NameF) (imm : BitVec 6) (s : State) : exec (.shri d a imm) s = execShri d a imm s := rfl
@[simp] theorem exec_sari (d : NameF) (a : NameF) (imm : BitVec 6) (s : State) : exec (.sari d a imm) s = execSari d a imm s := rfl
@[simp] theorem exec_sltsi (d : NameF) (a : NameF) (imm : BitVec 12) (s : State) : exec (.sltsi d a imm) s = execSltsi d a imm s := rfl
@[simp] theorem exec_sltni (d : NameF) (a : NameF) (imm : BitVec 12) (s : State) : exec (.sltni d a imm) s = execSltni d a imm s := rfl
@[simp] theorem exec_movi (d : NameF) (imm : BitVec 17) (s : State) : exec (.movi d imm) s = execMovi d imm s := rfl
@[simp] theorem exec_lui (d : NameF) (imm : BitVec 17) (s : State) : exec (.lui d imm) s = execLui d imm s := rfl
@[simp] theorem exec_addpc (d : NameF) (imm : BitVec 17) (s : State) : exec (.addpc d imm) s = execAddpc d imm s := rfl
@[simp] theorem exec_call (d : NameF) (imm : BitVec 19) (s : State) : exec (.call d imm) s = execCall d imm s := rfl
@[simp] theorem exec_bEqz (a : NameF) (o : BitVec 16) (s : State) : exec (.bEqz a o) s = execBEqz a o s := rfl
@[simp] theorem exec_bNez (a : NameF) (o : BitVec 16) (s : State) : exec (.bNez a o) s = execBNez a o s := rfl
@[simp] theorem exec_bLtz (a : NameF) (o : BitVec 16) (s : State) : exec (.bLtz a o) s = execBLtz a o s := rfl
@[simp] theorem exec_bGez (a : NameF) (o : BitVec 16) (s : State) : exec (.bGez a o) s = execBGez a o s := rfl
@[simp] theorem exec_bGtz (a : NameF) (o : BitVec 16) (s : State) : exec (.bGtz a o) s = execBGtz a o s := rfl
@[simp] theorem exec_bLez (a : NameF) (o : BitVec 16) (s : State) : exec (.bLez a o) s = execBLez a o s := rfl
@[simp] theorem exec_bAny (a : NameF) (o : BitVec 16) (s : State) : exec (.bAny a o) s = execBAny a o s := rfl
@[simp] theorem exec_bAll (a : NameF) (o : BitVec 16) (s : State) : exec (.bAll a o) s = execBAll a o s := rfl
@[simp] theorem exec_br (o : BitVec 16) (s : State) : exec (.br o) s = execBr o s := rfl
@[simp] theorem exec_loop (a : NameF) (l : BitVec 11) (s : State) : exec (.loop a l) s = execLoop a l s := rfl
@[simp] theorem exec_sloop (d : NameF) (a : NameF) (l : BitVec 11) (s : State) : exec (.sloop d a l) s = execSloop d a l s := rfl
@[simp] theorem exec_swin (n : BitVec 5) (s : State) : exec (.swin n) s = execSwin n s := rfl
@[simp] theorem exec_vcfg (c : BitVec 2) (s : State) : exec (.vcfg c) s = execVcfg c s := rfl
@[simp] theorem exec_vshapeImm (j : BitVec 4) (imm : BitVec 4) (s : State) : exec (.vshapeImm j imm) s = execVshapeImm j imm s := rfl
@[simp] theorem exec_act (d : NameF) (a : NameF) (t : BitVec 4) (s : State) : exec (.act d a t) s = execAct d a t s := rfl
@[simp] theorem exec_actz (d : NameF) (a : NameF) (t : BitVec 4) (s : State) : exec (.actz d a t) s = execActz d a t s := rfl
@[simp] theorem exec_refImm (n : BitVec 4) (s : State) : exec (.refImm n) s = execRefImm n s := rfl
@[simp] theorem exec_ld (d : NameF) (a : NameF) (f : BitVec 3) (imm : BitVec 9) (s : State) : exec (.ld d a f imm) s = execLd d a f imm s := rfl
@[simp] theorem exec_st (d : NameF) (a : NameF) (f : BitVec 2) (imm : BitVec 9) (s : State) : exec (.st d a f imm) s = execSt d a f imm s := rfl
@[simp] theorem exec_stRel (d : NameF) (a : NameF) (f : BitVec 2) (imm : BitVec 9) (s : State) : exec (.stRel d a f imm) s = execStRel d a f imm s := rfl
@[simp] theorem exec_ldAcq (d : NameF) (a : NameF) (f : BitVec 3) (imm : BitVec 9) (s : State) : exec (.ldAcq d a f imm) s = execLdAcq d a f imm s := rfl
@[simp] theorem exec_ldc (d : NameF) (a : NameF) (imm : BitVec 10) (s : State) : exec (.ldc d a imm) s = execLdc d a imm s := rfl
@[simp] theorem exec_pfetch (d : NameF) (a : NameF) (imm : BitVec 10) (s : State) : exec (.pfetch d a imm) s = execPfetch d a imm s := rfl
@[simp] theorem exec_vadd (lastA : Bool) (lastB : Bool) (d : NameF) (a : NameF) (b : NameF) (s : State) : exec (.vadd lastA lastB d a b) s = execVadd lastA lastB d a b s := rfl
@[simp] theorem exec_vsub (lastA : Bool) (lastB : Bool) (d : NameF) (a : NameF) (b : NameF) (s : State) : exec (.vsub lastA lastB d a b) s = execVsub lastA lastB d a b s := rfl
@[simp] theorem exec_vmul (lastA : Bool) (lastB : Bool) (d : NameF) (a : NameF) (b : NameF) (s : State) : exec (.vmul lastA lastB d a b) s = execVmul lastA lastB d a b s := rfl
@[simp] theorem exec_vfma (lastA : Bool) (lastB : Bool) (d : NameF) (a : NameF) (b : NameF) (s : State) : exec (.vfma lastA lastB d a b) s = execVfma lastA lastB d a b s := rfl
@[simp] theorem exec_vfms (lastA : Bool) (lastB : Bool) (d : NameF) (a : NameF) (b : NameF) (s : State) : exec (.vfms lastA lastB d a b) s = execVfms lastA lastB d a b s := rfl
@[simp] theorem exec_vfnma (lastA : Bool) (lastB : Bool) (d : NameF) (a : NameF) (b : NameF) (s : State) : exec (.vfnma lastA lastB d a b) s = execVfnma lastA lastB d a b s := rfl
@[simp] theorem exec_vabs (lastA : Bool) (d : NameF) (a : NameF) (s : State) : exec (.vabs lastA d a) s = execVabs lastA d a s := rfl
@[simp] theorem exec_vneg (lastA : Bool) (d : NameF) (a : NameF) (s : State) : exec (.vneg lastA d a) s = execVneg lastA d a s := rfl
@[simp] theorem exec_vand (lastA : Bool) (lastB : Bool) (d : NameF) (a : NameF) (b : NameF) (s : State) : exec (.vand lastA lastB d a b) s = execVand lastA lastB d a b s := rfl
@[simp] theorem exec_vor (lastA : Bool) (lastB : Bool) (d : NameF) (a : NameF) (b : NameF) (s : State) : exec (.vor lastA lastB d a b) s = execVor lastA lastB d a b s := rfl
@[simp] theorem exec_vxor (lastA : Bool) (lastB : Bool) (d : NameF) (a : NameF) (b : NameF) (s : State) : exec (.vxor lastA lastB d a b) s = execVxor lastA lastB d a b s := rfl
@[simp] theorem exec_vandn (lastA : Bool) (lastB : Bool) (d : NameF) (a : NameF) (b : NameF) (s : State) : exec (.vandn lastA lastB d a b) s = execVandn lastA lastB d a b s := rfl
@[simp] theorem exec_vshl (lastA : Bool) (lastB : Bool) (d : NameF) (a : NameF) (b : NameF) (s : State) : exec (.vshl lastA lastB d a b) s = execVshl lastA lastB d a b s := rfl
@[simp] theorem exec_vshr (lastA : Bool) (lastB : Bool) (d : NameF) (a : NameF) (b : NameF) (s : State) : exec (.vshr lastA lastB d a b) s = execVshr lastA lastB d a b s := rfl
@[simp] theorem exec_vsar (lastA : Bool) (lastB : Bool) (d : NameF) (a : NameF) (b : NameF) (s : State) : exec (.vsar lastA lastB d a b) s = execVsar lastA lastB d a b s := rfl
@[simp] theorem exec_vsel (lastA : Bool) (lastB : Bool) (d : NameF) (a : NameF) (b : NameF) (s : State) : exec (.vsel lastA lastB d a b) s = execVsel lastA lastB d a b s := rfl
@[simp] theorem exec_vmin (lastA : Bool) (lastB : Bool) (d : NameF) (a : NameF) (b : NameF) (s : State) : exec (.vmin lastA lastB d a b) s = execVmin lastA lastB d a b s := rfl
@[simp] theorem exec_vminX (lastA : Bool) (lastB : Bool) (d : NameF) (a : NameF) (b : NameF) (s : State) : exec (.vminX lastA lastB d a b) s = execVminX lastA lastB d a b s := rfl
@[simp] theorem exec_vminN (lastA : Bool) (lastB : Bool) (d : NameF) (a : NameF) (b : NameF) (s : State) : exec (.vminN lastA lastB d a b) s = execVminN lastA lastB d a b s := rfl
@[simp] theorem exec_vmax (lastA : Bool) (lastB : Bool) (d : NameF) (a : NameF) (b : NameF) (s : State) : exec (.vmax lastA lastB d a b) s = execVmax lastA lastB d a b s := rfl
@[simp] theorem exec_vmaxX (lastA : Bool) (lastB : Bool) (d : NameF) (a : NameF) (b : NameF) (s : State) : exec (.vmaxX lastA lastB d a b) s = execVmaxX lastA lastB d a b s := rfl
@[simp] theorem exec_vmaxN (lastA : Bool) (lastB : Bool) (d : NameF) (a : NameF) (b : NameF) (s : State) : exec (.vmaxN lastA lastB d a b) s = execVmaxN lastA lastB d a b s := rfl
@[simp] theorem exec_vmulw (lastA : Bool) (lastB : Bool) (d : NameF) (a : NameF) (b : NameF) (s : State) : exec (.vmulw lastA lastB d a b) s = execVmulw lastA lastB d a b s := rfl
@[simp] theorem exec_vmulwX (lastA : Bool) (lastB : Bool) (d : NameF) (a : NameF) (b : NameF) (s : State) : exec (.vmulwX lastA lastB d a b) s = execVmulwX lastA lastB d a b s := rfl
@[simp] theorem exec_vmulwN (lastA : Bool) (lastB : Bool) (d : NameF) (a : NameF) (b : NameF) (s : State) : exec (.vmulwN lastA lastB d a b) s = execVmulwN lastA lastB d a b s := rfl
@[simp] theorem exec_vmerge (lastA : Bool) (d : NameF) (a : NameF) (b : NameF) (s : State) : exec (.vmerge lastA d a b) s = execVmerge lastA d a b s := rfl
@[simp] theorem exec_vrsqe (lastA : Bool) (d : NameF) (a : NameF) (s : State) : exec (.vrsqe lastA d a) s = execVrsqe lastA d a s := rfl
@[simp] theorem exec_vrcpe (lastA : Bool) (d : NameF) (a : NameF) (s : State) : exec (.vrcpe lastA d a) s = execVrcpe lastA d a s := rfl
@[simp] theorem exec_vexp2e (lastA : Bool) (d : NameF) (a : NameF) (s : State) : exec (.vexp2e lastA d a) s = execVexp2e lastA d a s := rfl
@[simp] theorem exec_viota (lastA : Bool) (d : NameF) (a : NameF) (s : State) : exec (.viota lastA d a) s = execViota lastA d a s := rfl
@[simp] theorem exec_vbcast (lastA : Bool) (d : NameF) (a : NameF) (b : NameF) (s : State) : exec (.vbcast lastA d a b) s = execVbcast lastA d a b s := rfl
@[simp] theorem exec_vclr (lastA : Bool) (d : NameF) (a : NameF) (s : State) : exec (.vclr lastA d a) s = execVclr lastA d a s := rfl
@[simp] theorem exec_vins (d : NameF) (a : NameF) (b : NameF) (s : State) : exec (.vins d a b) s = execVins d a b s := rfl
@[simp] theorem exec_vext (lastA : Bool) (d : NameF) (a : NameF) (b : NameF) (s : State) : exec (.vext lastA d a b) s = execVext lastA d a b s := rfl
@[simp] theorem exec_vslideUp (lastA : Bool) (d : NameF) (a : NameF) (b : NameF) (s : State) : exec (.vslideUp lastA d a b) s = execVslideUp lastA d a b s := rfl
@[simp] theorem exec_vslideDn (lastA : Bool) (d : NameF) (a : NameF) (b : NameF) (s : State) : exec (.vslideDn lastA d a b) s = execVslideDn lastA d a b s := rfl
@[simp] theorem exec_vperm (lastA : Bool) (lastB : Bool) (d : NameF) (a : NameF) (b : NameF) (s : State) : exec (.vperm lastA lastB d a b) s = execVperm lastA lastB d a b s := rfl
@[simp] theorem exec_vcopy (lastA : Bool) (d : NameF) (a : NameF) (s : State) : exec (.vcopy lastA d a) s = execVcopy lastA d a s := rfl
@[simp] theorem exec_vshape (a : NameF) (b : NameF) (s : State) : exec (.vshape a b) s = execVshape a b s := rfl
@[simp] theorem exec_pmovs (d : NameF) (a : NameF) (b : NameF) (s : State) : exec (.pmovs d a b) s = execPmovs d a b s := rfl
@[simp] theorem exec_vred (lastA : Bool) (d : NameF) (a : NameF) (x : BitVec 7) (s : State) : exec (.vred lastA d a x) s = execVred lastA d a x s := rfl
@[simp] theorem exec_vcmpEq (lastA : Bool) (lastB : Bool) (d : NameF) (a : NameF) (b : NameF) (s : State) : exec (.vcmpEq lastA lastB d a b) s = execVcmpEq lastA lastB d a b s := rfl
@[simp] theorem exec_vcmpNe (lastA : Bool) (lastB : Bool) (d : NameF) (a : NameF) (b : NameF) (s : State) : exec (.vcmpNe lastA lastB d a b) s = execVcmpNe lastA lastB d a b s := rfl
@[simp] theorem exec_vcmpLt (lastA : Bool) (lastB : Bool) (d : NameF) (a : NameF) (b : NameF) (s : State) : exec (.vcmpLt lastA lastB d a b) s = execVcmpLt lastA lastB d a b s := rfl
@[simp] theorem exec_vcmpLe (lastA : Bool) (lastB : Bool) (d : NameF) (a : NameF) (b : NameF) (s : State) : exec (.vcmpLe lastA lastB d a b) s = execVcmpLe lastA lastB d a b s := rfl
@[simp] theorem exec_vcmpUn (lastA : Bool) (lastB : Bool) (d : NameF) (a : NameF) (b : NameF) (s : State) : exec (.vcmpUn lastA lastB d a b) s = execVcmpUn lastA lastB d a b s := rfl
@[simp] theorem exec_vcmpLtX (lastA : Bool) (lastB : Bool) (d : NameF) (a : NameF) (b : NameF) (s : State) : exec (.vcmpLtX lastA lastB d a b) s = execVcmpLtX lastA lastB d a b s := rfl
@[simp] theorem exec_vcmpLeX (lastA : Bool) (lastB : Bool) (d : NameF) (a : NameF) (b : NameF) (s : State) : exec (.vcmpLeX lastA lastB d a b) s = execVcmpLeX lastA lastB d a b s := rfl
@[simp] theorem exec_vcmpLtN (lastA : Bool) (lastB : Bool) (d : NameF) (a : NameF) (b : NameF) (s : State) : exec (.vcmpLtN lastA lastB d a b) s = execVcmpLtN lastA lastB d a b s := rfl
@[simp] theorem exec_vcmpLeN (lastA : Bool) (lastB : Bool) (d : NameF) (a : NameF) (b : NameF) (s : State) : exec (.vcmpLeN lastA lastB d a b) s = execVcmpLeN lastA lastB d a b s := rfl
@[simp] theorem exec_vcvt (lastA : Bool) (d : NameF) (a : NameF) (r : BitVec 3) (t : BitVec 4) (s : State) : exec (.vcvt lastA d a r t) s = execVcvt lastA d a r t s := rfl
@[simp] theorem exec_vcvtX (lastA : Bool) (d : NameF) (a : NameF) (r : BitVec 3) (t : BitVec 4) (s : State) : exec (.vcvtX lastA d a r t) s = execVcvtX lastA d a r t s := rfl
@[simp] theorem exec_vcvtN (lastA : Bool) (d : NameF) (a : NameF) (r : BitVec 3) (t : BitVec 4) (s : State) : exec (.vcvtN lastA d a r t) s = execVcvtN lastA d a r t s := rfl
@[simp] theorem exec_vscl (lastA : Bool) (d : NameF) (a : NameF) (b : NameF) (s : State) : exec (.vscl lastA d a b) s = execVscl lastA d a b s := rfl
@[simp] theorem exec_pand (d : NameF) (a : NameF) (b : NameF) (s : State) : exec (.pand d a b) s = execPand d a b s := rfl
@[simp] theorem exec_por (d : NameF) (a : NameF) (b : NameF) (s : State) : exec (.por d a b) s = execPor d a b s := rfl
@[simp] theorem exec_pxor (d : NameF) (a : NameF) (b : NameF) (s : State) : exec (.pxor d a b) s = execPxor d a b s := rfl
@[simp] theorem exec_pandn (d : NameF) (a : NameF) (b : NameF) (s : State) : exec (.pandn d a b) s = execPandn d a b s := rfl
@[simp] theorem exec_pnot (d : NameF) (a : NameF) (s : State) : exec (.pnot d a) s = execPnot d a s := rfl
@[simp] theorem exec_pcnt (d : NameF) (a : NameF) (s : State) : exec (.pcnt d a) s = execPcnt d a s := rfl
@[simp] theorem exec_pfirst (d : NameF) (a : NameF) (s : State) : exec (.pfirst d a) s = execPfirst d a s := rfl
@[simp] theorem exec_pset (d : NameF) (a : NameF) (s : State) : exec (.pset d a) s = execPset d a s := rfl
@[simp] theorem exec_shuf (lastA : Bool) (d : NameF) (a : NameF) (b : NameF) (s : State) : exec (.shuf lastA d a b) s = execShuf lastA d a b s := rfl
@[simp] theorem exec_shufx (lastA : Bool) (d : NameF) (a : NameF) (b : NameF) (s : State) : exec (.shufx lastA d a b) s = execShufx lastA d a b s := rfl
@[simp] theorem exec_gbcast (lastA : Bool) (d : NameF) (a : NameF) (b : NameF) (s : State) : exec (.gbcast lastA d a b) s = execGbcast lastA d a b s := rfl
@[simp] theorem exec_gbar (s : State) : exec .gbar s = execGbar s := rfl
@[simp] theorem exec_gsplit (a : NameF) (b : NameF) (s : State) : exec (.gsplit a b) s = execGsplit a b s := rfl
@[simp] theorem exec_gjoin (s : State) : exec .gjoin s = execGjoin s := rfl
@[simp] theorem exec_gsync (s : State) : exec .gsync s = execGsync s := rfl
@[simp] theorem exec_gred (lastA : Bool) (d : NameF) (a : NameF) (x : BitVec 7) (s : State) : exec (.gred lastA d a x) s = execGred lastA d a x s := rfl
@[simp] theorem exec_wb (d : NameF) (s : State) : exec (.wb d) s = execWb d s := rfl
@[simp] theorem exec_pre (d : NameF) (s : State) : exec (.pre d) s = execPre d s := rfl
@[simp] theorem exec_rcopy (d : NameF) (a : NameF) (s : State) : exec (.rcopy d a) s = execRcopy d a s := rfl
@[simp] theorem exec_tag (d : NameF) (t : BitVec 4) (s : State) : exec (.tag d t) s = execTag d t s := rfl
@[simp] theorem exec_saverow (d : NameF) (a : NameF) (b : NameF) (s : State) : exec (.saverow d a b) s = execSaverow d a b s := rfl
@[simp] theorem exec_loadrow (d : NameF) (a : NameF) (b : NameF) (s : State) : exec (.loadrow d a b) s = execLoadrow d a b s := rfl
@[simp] theorem exec_refScalar (a : NameF) (s : State) : exec (.refScalar a) s = execRefScalar a s := rfl
@[simp] theorem exec_mshape (d : NameF) (a : NameF) (s : State) : exec (.mshape d a) s = execMshape d a s := rfl
@[simp] theorem exec_mzero (d : NameF) (s : State) : exec (.mzero d) s = execMzero d s := rfl
@[simp] theorem exec_mmf (lastA : Bool) (lastB : Bool) (d : NameF) (a : NameF) (b : NameF) (s : State) : exec (.mmf lastA lastB d a b) s = execMmf lastA lastB d a b s := rfl
@[simp] theorem exec_mmfO (lastA : Bool) (lastB : Bool) (d : NameF) (a : NameF) (b : NameF) (s : State) : exec (.mmfO lastA lastB d a b) s = execMmfO lastA lastB d a b s := rfl
@[simp] theorem exec_mwait (s : State) : exec .mwait s = execMwait s := rfl
@[simp] theorem exec_mstat (d : NameF) (a : NameF) (s : State) : exec (.mstat d a) s = execMstat d a s := rfl
@[simp] theorem exec_cset (a : NameF) (x : BitVec 7) (s : State) : exec (.cset a x) s = execCset a x s := rfl
@[simp] theorem exec_cgo (d : NameF) (s : State) : exec (.cgo d) s = execCgo d s := rfl
@[simp] theorem exec_cwait (d : NameF) (a : NameF) (s : State) : exec (.cwait d a) s = execCwait d a s := rfl
@[simp] theorem exec_cstat (d : NameF) (a : NameF) (s : State) : exec (.cstat d a) s = execCstat d a s := rfl
@[simp] theorem exec_ccancel (a : NameF) (s : State) : exec (.ccancel a) s = execCcancel a s := rfl
@[simp] theorem exec_cresume (a : NameF) (s : State) : exec (.cresume a) s = execCresume a s := rfl
@[simp] theorem exec_aadd (d : NameF) (a : NameF) (w32 : Bool) (o : BitVec 2) (c : BitVec 3) (s : State) : exec (.aadd d a w32 o c) s = execAadd d a w32 o c s := rfl
@[simp] theorem exec_ainc (d : NameF) (a : NameF) (w32 : Bool) (o : BitVec 2) (c : BitVec 3) (s : State) : exec (.ainc d a w32 o c) s = execAinc d a w32 o c s := rfl
@[simp] theorem exec_amins (d : NameF) (a : NameF) (w32 : Bool) (o : BitVec 2) (c : BitVec 3) (s : State) : exec (.amins d a w32 o c) s = execAmins d a w32 o c s := rfl
@[simp] theorem exec_amaxs (d : NameF) (a : NameF) (w32 : Bool) (o : BitVec 2) (c : BitVec 3) (s : State) : exec (.amaxs d a w32 o c) s = execAmaxs d a w32 o c s := rfl
@[simp] theorem exec_aminn (d : NameF) (a : NameF) (w32 : Bool) (o : BitVec 2) (c : BitVec 3) (s : State) : exec (.aminn d a w32 o c) s = execAminn d a w32 o c s := rfl
@[simp] theorem exec_amaxn (d : NameF) (a : NameF) (w32 : Bool) (o : BitVec 2) (c : BitVec 3) (s : State) : exec (.amaxn d a w32 o c) s = execAmaxn d a w32 o c s := rfl
@[simp] theorem exec_aand (d : NameF) (a : NameF) (w32 : Bool) (o : BitVec 2) (c : BitVec 3) (s : State) : exec (.aand d a w32 o c) s = execAand d a w32 o c s := rfl
@[simp] theorem exec_aor (d : NameF) (a : NameF) (w32 : Bool) (o : BitVec 2) (c : BitVec 3) (s : State) : exec (.aor d a w32 o c) s = execAor d a w32 o c s := rfl
@[simp] theorem exec_axor (d : NameF) (a : NameF) (w32 : Bool) (o : BitVec 2) (c : BitVec 3) (s : State) : exec (.axor d a w32 o c) s = execAxor d a w32 o c s := rfl
@[simp] theorem exec_axchg (d : NameF) (a : NameF) (w32 : Bool) (o : BitVec 2) (c : BitVec 3) (s : State) : exec (.axchg d a w32 o c) s = execAxchg d a w32 o c s := rfl
@[simp] theorem exec_acas (d : NameF) (a : NameF) (w32 : Bool) (o : BitVec 2) (c : BitVec 3) (s : State) : exec (.acas d a w32 o c) s = execAcas d a w32 o c s := rfl
@[simp] theorem exec_fence (x : BitVec 3) (s : State) : exec (.fence x) s = execFence x s := rfl
@[simp] theorem exec_fenceC (x : BitVec 3) (s : State) : exec (.fenceC x) s = execFenceC x s := rfl
@[simp] theorem exec_claim (d : NameF) (a : NameF) (b : NameF) (s : State) : exec (.claim d a b) s = execClaim d a b s := rfl
@[simp] theorem exec_mfc (d : NameF) (c : BitVec 7) (s : State) : exec (.mfc d c) s = execMfc d c s := rfl
@[simp] theorem exec_mtc (a : NameF) (c : BitVec 7) (s : State) : exec (.mtc a c) s = execMtc a c s := rfl
@[simp] theorem exec_trap (c : BitVec 7) (s : State) : exec (.trap c) s = execTrap c s := rfl
@[simp] theorem exec_eret (s : State) : exec .eret s = execEret s := rfl
@[simp] theorem exec_tlbinvVa (a : NameF) (s : State) : exec (.tlbinvVa a) s = execTlbinvVa a s := rfl
@[simp] theorem exec_tlbinvTok (a : NameF) (s : State) : exec (.tlbinvTok a) s = execTlbinvTok a s := rfl
@[simp] theorem exec_tlbinvAll (s : State) : exec .tlbinvAll s = execTlbinvAll s := rfl
@[simp] theorem exec_trace (a : NameF) (s : State) : exec (.trace a) s = execTrace a s := rfl
@[simp] theorem exec_jr (a : NameF) (s : State) : exec (.jr a) s = execJr a s := rfl
@[simp] theorem exec_exit (s : State) : exec .exit s = execExit s := rfl
@[simp] theorem exec_yield (s : State) : exec .yield s = execYield s := rfl
@[simp] theorem exec_nop (s : State) : exec .nop s = execNop s := rfl
@[simp] theorem exec_brk (s : State) : exec .brk s = execBrk s := rfl
@[simp] theorem exec_waitwEq (d : NameF) (a : NameF) (s : State) : exec (.waitwEq d a) s = execWaitwEq d a s := rfl
@[simp] theorem exec_waitwNe (d : NameF) (a : NameF) (s : State) : exec (.waitwNe d a) s = execWaitwNe d a s := rfl
@[simp] theorem exec_waitwGe (d : NameF) (a : NameF) (s : State) : exec (.waitwGe d a) s = execWaitwGe d a s := rfl
@[simp] theorem exec_illegalInstruction (w : BitVec 32) (s : State) : exec (.illegalInstruction w) s = execIllegalInstruction w s := rfl
@[simp] theorem exec_asyncTrapEntry (s : State) : exec .asyncTrapEntry s = execAsyncTrapEntry s := rfl
@[simp] theorem exec_yieldExpiry (id : Nat) (s : State) : exec (.yieldExpiry id) s = execYieldExpiry id s := rfl
@[simp] theorem exec_elementGroup (bank : Nat) (s : State) : exec (.elementGroup bank) s = execElementGroup bank s := rfl
@[simp] theorem exec_rowOperationStart (core : Nat) (bank : Nat) (s : State) : exec (.rowOperationStart core bank) s = execRowOperationStart core bank s := rfl
@[simp] theorem exec_refreshSlot (core : Nat) (bank : Nat) (s : State) : exec (.refreshSlot core bank) s = execRefreshSlot core bank s := rfl
@[simp] theorem exec_refreshAccrual (tier : Nat) (s : State) : exec (.refreshAccrual tier) s = execRefreshAccrual tier s := rfl
@[simp] theorem exec_forcedRefresh (core : Nat) (bank : Nat) (s : State) : exec (.forcedRefresh core bank) s = execForcedRefresh core bank s := rfl
@[simp] theorem exec_selfRefreshSlot (core : Nat) (bank : Nat) (s : State) : exec (.selfRefreshSlot core bank) s = execSelfRefreshSlot core bank s := rfl
@[simp] theorem exec_refreshBandCooling (tier : Nat) (s : State) : exec (.refreshBandCooling tier) s = execRefreshBandCooling tier s := rfl
@[simp] theorem exec_thermalHeating (tier : Nat) (temp : Nat) (s : State) : exec (.thermalHeating tier temp) s = execThermalHeating tier temp s := rfl
@[simp] theorem exec_thermalCooling (tier : Nat) (temp : Nat) (s : State) : exec (.thermalCooling tier temp) s = execThermalCooling tier temp s := rfl
@[simp] theorem exec_governorInterval (hprev : Nat) (used : List Nat) (s : State) : exec (.governorInterval hprev used) s = execGovernorInterval hprev used s := rfl
@[simp] theorem exec_governorCheck (stack : Nat) (proj : Nat) (hottest : Nat) (s : State) : exec (.governorCheck stack proj hottest) s = execGovernorCheck stack proj hottest s := rfl
@[simp] theorem exec_powerBrake (asserted : Bool) (s : State) : exec (.powerBrake asserted) s = execPowerBrake asserted s := rfl
@[simp] theorem exec_haspOverheat (s : State) : exec .haspOverheat s = execHaspOverheat s := rfl
@[simp] theorem exec_launchRecord (queue : Nat) (s : State) : exec (.launchRecord queue) s = execLaunchRecord queue s := rfl
@[simp] theorem exec_prerequisiteWake (seq : Nat) (s : State) : exec (.prerequisiteWake seq) s = execPrerequisiteWake seq s := rfl
@[simp] theorem exec_launchDispatch (s : State) : exec .launchDispatch s = execLaunchDispatch s := rfl
@[simp] theorem exec_launchCompletion (seq : Nat) (s : State) : exec (.launchCompletion seq) s = execLaunchCompletion seq s := rfl
@[simp] theorem exec_streamPlacement (s : State) : exec .streamPlacement s = execStreamPlacement s := rfl
@[simp] theorem exec_preemption (id : Nat) (s : State) : exec (.preemption id) s = execPreemption id s := rfl
@[simp] theorem exec_equalPrioPreempt (id : Nat) (s : State) : exec (.equalPrioPreempt id) s = execEqualPrioPreempt id s := rfl
@[simp] theorem exec_waitersGiveWay (id : Nat) (s : State) : exec (.waitersGiveWay id) s = execWaitersGiveWay id s := rfl
@[simp] theorem exec_invalidationArrival (core : Nat) (sel : InvSel) (s : State) : exec (.invalidationArrival core sel) s = execInvalidationArrival core sel s := rfl
@[simp] theorem exec_pageWalk (asid : Nat) (va : Nat) (s : State) : exec (.pageWalk asid va) s = execPageWalk asid va s := rfl
@[simp] theorem exec_pageRequest (asid : Nat) (va : Nat) (s : State) : exec (.pageRequest asid va) s = execPageRequest asid va s := rfl
@[simp] theorem exec_slotGrant (core : Nat) (s : State) : exec (.slotGrant core) s = execSlotGrant core s := rfl
@[simp] theorem exec_endpointActivation (core : Nat) (s : State) : exec (.endpointActivation core) s = execEndpointActivation core s := rfl
@[simp] theorem exec_loadResponse (id : Nat) (s : State) : exec (.loadResponse id) s = execLoadResponse id s := rfl
@[simp] theorem exec_storeAtHome (k : Nat) (s : State) : exec (.storeAtHome k) s = execStoreAtHome k s := rfl
@[simp] theorem exec_atomicAtHome (link : Nat) (kind : PeerAtomic) (pa : Nat) (d : BitVec 64) (new : BitVec 64) (s : State) : exec (.atomicAtHome link kind pa d new) s = execAtomicAtHome link kind pa d new s := rfl
@[simp] theorem exec_waitwWriteWake (core : Nat) (s : State) : exec (.waitwWriteWake core) s = execWaitwWriteWake core s := rfl
@[simp] theorem exec_waitwTimerWake (id : Nat) (s : State) : exec (.waitwTimerWake id) s = execWaitwTimerWake id s := rfl
@[simp] theorem exec_detentInstall (id : Nat) (s : State) : exec (.detentInstall id) s = execDetentInstall id s := rfl
@[simp] theorem exec_copySourceRead (core : Nat) (slot : Nat) (s : State) : exec (.copySourceRead core slot) s = execCopySourceRead core slot s := rfl
@[simp] theorem exec_recordDecompress (core : Nat) (slot : Nat) (s : State) : exec (.recordDecompress core slot) s = execRecordDecompress core slot s := rfl
@[simp] theorem exec_copyLanding (core : Nat) (slot : Nat) (s : State) : exec (.copyLanding core slot) s = execCopyLanding core slot s := rfl
@[simp] theorem exec_detentWmUpdate (core : Nat) (detent : Detent) (s : State) : exec (.detentWmUpdate core detent) s = execDetentWmUpdate core detent s := rfl
@[simp] theorem exec_detentFree (core : Nat) (slot : Nat) (s : State) : exec (.detentFree core slot) s = execDetentFree core slot s := rfl
@[simp] theorem exec_crewForm (core : Nat) (s : State) : exec (.crewForm core) s = execCrewForm core s := rfl
@[simp] theorem exec_mmfRelease (core : Nat) (s : State) : exec (.mmfRelease core) s = execMmfRelease core s := rfl
@[simp] theorem exec_mmfComplete (core : Nat) (s : State) : exec (.mmfComplete core) s = execMmfComplete core s := rfl
@[simp] theorem exec_hingeRetry (core : Nat) (s : State) : exec (.hingeRetry core) s = execHingeRetry core s := rfl
@[simp] theorem exec_hingeLinkFail (core : Nat) (s : State) : exec (.hingeLinkFail core) s = execHingeLinkFail core s := rfl
@[simp] theorem exec_tierOffline (tier : Nat) (s : State) : exec (.tierOffline tier) s = execTierOffline tier s := rfl
@[simp] theorem exec_offreq (tier : Nat) (s : State) : exec (.offreq tier) s = execOffreq tier s := rfl
@[simp] theorem exec_regionTableWrite (imm : Nat) (word : Nat) (v : BitVec 64) (s : State) : exec (.regionTableWrite imm word v) s = execRegionTableWrite imm word v s := rfl
@[simp] theorem exec_pbudgetWrite (v : BitVec 64) (s : State) : exec (.pbudgetWrite v) s = execPbudgetWrite v s := rfl
@[simp] theorem exec_savesetsWrite (v : BitVec 64) (s : State) : exec (.savesetsWrite v) s = execSavesetsWrite v s := rfl
@[simp] theorem exec_sreqWrite (core : Nat) (v : BitVec 64) (s : State) : exec (.sreqWrite core v) s = execSreqWrite core v s := rfl
@[simp] theorem exec_controlSpaceWrite (off : Nat) (v : BitVec 64) (s : State) : exec (.controlSpaceWrite off v) s = execControlSpaceWrite off v s := rfl
@[simp] theorem exec_hostAccess (port : Nat) (off : Nat) (n : Nat) (data : Option Nat) (s : State) : exec (.hostAccess port off n data) s = execHostAccess port off n data s := rfl
@[simp] theorem exec_peerAccess (link : Nat) (addr : Nat) (n : Nat) (data : Option Nat) (s : State) : exec (.peerAccess link addr n data) s = execPeerAccess link addr n data s := rfl
@[simp] theorem exec_linkRetrain (link : Nat) (s : State) : exec (.linkRetrain link) s = execLinkRetrain link s := rfl
@[simp] theorem exec_linkDown (host : Bool) (imm : Nat) (s : State) : exec (.linkDown host imm) s = execLinkDown host imm s := rfl
@[simp] theorem exec_hostPortTraining (port : Nat) (mode : Nat) (width : Nat) (s : State) : exec (.hostPortTraining port mode width) s = execHostPortTraining port mode width s := rfl
@[simp] theorem exec_hostPortHotReset (port : Nat) (s : State) : exec (.hostPortHotReset port) s = execHostPortHotReset port s := rfl
@[simp] theorem exec_coldReset (patch : Image) (runtime : Image) (s : State) : exec (.coldReset patch runtime) s = execColdReset patch runtime s := rfl
@[simp] theorem exec_deviceReset (session : Bool) (s : State) : exec (.deviceReset session) s = execDeviceReset session s := rfl
@[simp] theorem exec_spdmMessage (index : Nat) (s : State) : exec (.spdmMessage index) s = execSpdmMessage index s := rfl
@[simp] theorem exec_mgmtReadTables (off : Nat) (s : State) : exec (.mgmtReadTables off) s = execMgmtReadTables off s := rfl
@[simp] theorem exec_mgmtWritePbudget (session : Bool) (v : BitVec 64) (s : State) : exec (.mgmtWritePbudget session v) s = execMgmtWritePbudget session v s := rfl
@[simp] theorem exec_mgmtWriteOffreq (session : Bool) (tier : Nat) (s : State) : exec (.mgmtWriteOffreq session tier) s = execMgmtWriteOffreq session tier s := rfl
@[simp] theorem exec_mgmtLoadImage (session : Bool) (img : Image) (s : State) : exec (.mgmtLoadImage session img) s = execMgmtLoadImage session img s := rfl
@[simp] theorem exec_accessFilterDenial (s : State) : exec .accessFilterDenial s = execAccessFilterDenial s := rfl
@[simp] theorem exec_attach (queue : Nat) (s : State) : exec (.attach queue) s = execAttach queue s := rfl
@[simp] theorem exec_detach (queue : Nat) (s : State) : exec (.detach queue) s = execDetach queue s := rfl
@[simp] theorem exec_halt (queue : Nat) (s : State) : exec (.halt queue) s = execHalt queue s := rfl
@[simp] theorem exec_haltPointReached (id : Nat) (s : State) : exec (.haltPointReached id) s = execHaltPointReached id s := rfl
@[simp] theorem exec_resume (queue : Nat) (s : State) : exec (.resume queue) s = execResume queue s := rfl
@[simp] theorem exec_readmem (queue : Nat) (s : State) : exec (.readmem queue) s = execReadmem queue s := rfl
@[simp] theorem exec_writemem (queue : Nat) (s : State) : exec (.writemem queue) s = execWritemem queue s := rfl
@[simp] theorem exec_readctx (queue : Nat) (s : State) : exec (.readctx queue) s = execReadctx queue s := rfl
@[simp] theorem exec_writectx (queue : Nat) (s : State) : exec (.writectx queue) s = execWritectx queue s := rfl
@[simp] theorem exec_readslip (queue : Nat) (s : State) : exec (.readslip queue) s = execReadslip queue s := rfl
@[simp] theorem exec_instructionFetchFault (s : State) : exec .instructionFetchFault s = execInstructionFetchFault s := rfl
@[simp] theorem exec_matrixSliceFailure (core : Nat) (s : State) : exec (.matrixSliceFailure core) s = execMatrixSliceFailure core s := rfl
@[simp] theorem exec_druthesLinkTrained (link : Nat) (gen : Nat) (lanes : Nat) (peer : Nat) (s : State) : exec (.druthesLinkTrained link gen lanes peer) s = execDruthesLinkTrained link gen lanes peer s := rfl
@[simp] theorem exec_druthesFlitRetry (link : Nat) (s : State) : exec (.druthesFlitRetry link) s = execDruthesFlitRetry link s := rfl
@[simp] theorem exec_runtimeRelease (s : State) : exec .runtimeRelease s = execRuntimeRelease s := rfl
@[simp] theorem exec_runtimeEndsContext (id : Nat) (s : State) : exec (.runtimeEndsContext id) s = execRuntimeEndsContext id s := rfl

end Sys2Proof.Machine
end

