-- ==== Sys2Proof/Laws/State.lean ====
section
/-! SUPPORT. One lemma per field per update: what the setters of the state and of a context leave alone, and what they set. -/

namespace Sys2Proof.Machine

/-! The running context. -/

@[simp] theorem State.withCtx_ctx (s : State) (c : Context) : (s.withCtx c).ctx = c := rfl
@[simp] theorem State.withCtx_others (s : State) (c : Context) : (s.withCtx c).others = s.others := rfl
@[simp] theorem State.withCtx_mem (s : State) (c : Context) : (s.withCtx c).mem = s.mem := rfl
@[simp] theorem State.withCtx_marks (s : State) (c : Context) : (s.withCtx c).marks = s.marks := rfl
@[simp] theorem State.withCtx_murk (s : State) (c : Context) : (s.withCtx c).murk = s.murk := rfl
@[simp] theorem State.withCtx_writes (s : State) (c : Context) : (s.withCtx c).writes = s.writes := rfl
@[simp] theorem State.withCtx_regions (s : State) (c : Context) : (s.withCtx c).regions = s.regions := rfl
@[simp] theorem State.withCtx_asids (s : State) (c : Context) : (s.withCtx c).asids = s.asids := rfl
@[simp] theorem State.withCtx_preq (s : State) (c : Context) : (s.withCtx c).preq = s.preq := rfl
@[simp] theorem State.withCtx_invAll (s : State) (c : Context) : (s.withCtx c).invAll = s.invAll := rfl
@[simp] theorem State.withCtx_invs (s : State) (c : Context) : (s.withCtx c).invs = s.invs := rfl
@[simp] theorem State.withCtx_oldBinds (s : State) (c : Context) : (s.withCtx c).oldBinds = s.oldBinds := rfl
@[simp] theorem State.withCtx_ccache (s : State) (c : Context) : (s.withCtx c).ccache = s.ccache := rfl
@[simp] theorem State.withCtx_cores (s : State) (c : Context) : (s.withCtx c).cores = s.cores := rfl
@[simp] theorem State.withCtx_tiers (s : State) (c : Context) : (s.withCtx c).tiers = s.tiers := rfl
@[simp] theorem State.withCtx_stackTab (s : State) (c : Context) : (s.withCtx c).stackTab = s.stackTab := rfl
@[simp] theorem State.withCtx_pbudget (s : State) (c : Context) : (s.withCtx c).pbudget = s.pbudget := rfl
@[simp] theorem State.withCtx_savesets (s : State) (c : Context) : (s.withCtx c).savesets = s.savesets := rfl
@[simp] theorem State.withCtx_brake (s : State) (c : Context) : (s.withCtx c).brake = s.brake := rfl
@[simp] theorem State.withCtx_links (s : State) (c : Context) : (s.withCtx c).links = s.links := rfl
@[simp] theorem State.withCtx_ports (s : State) (c : Context) : (s.withCtx c).ports = s.ports := rfl
@[simp] theorem State.withCtx_queues (s : State) (c : Context) : (s.withCtx c).queues = s.queues := rfl
@[simp] theorem State.withCtx_launches (s : State) (c : Context) : (s.withCtx c).launches = s.launches := rfl
@[simp] theorem State.withCtx_posted (s : State) (c : Context) : (s.withCtx c).posted = s.posted := rfl
@[simp] theorem State.withCtx_traces (s : State) (c : Context) : (s.withCtx c).traces = s.traces := rfl
@[simp] theorem State.withCtx_pokes (s : State) (c : Context) : (s.withCtx c).pokes = s.pokes := rfl
@[simp] theorem State.withCtx_externals (s : State) (c : Context) : (s.withCtx c).externals = s.externals := rfl
@[simp] theorem State.withCtx_haspTurn (s : State) (c : Context) : (s.withCtx c).haspTurn = s.haspTurn := rfl
@[simp] theorem State.withCtx_report (s : State) (c : Context) : (s.withCtx c).report = s.report := rfl
@[simp] theorem State.withCtx_halts (s : State) (c : Context) : (s.withCtx c).halts = s.halts := rfl
@[simp] theorem State.withCtx_keyholder (s : State) (c : Context) : (s.withCtx c).keyholder = s.keyholder := rfl
@[simp] theorem State.withCtx_held (s : State) (c : Context) : (s.withCtx c).held = s.held := rfl
@[simp] theorem State.withCtx_retry (s : State) (c : Context) : (s.withCtx c).retry = s.retry := rfl
@[simp] theorem State.withCtx_cycle (s : State) (c : Context) : (s.withCtx c).cycle = s.cycle := rfl
@[simp] theorem State.withCtx_nextSeq (s : State) (c : Context) : (s.withCtx c).nextSeq = s.nextSeq := rfl
@[simp] theorem State.withCtx_nextCtx (s : State) (c : Context) : (s.withCtx c).nextCtx = s.nextCtx := rfl
@[simp] theorem State.withCtx_ticket (s : State) (c : Context) : (s.withCtx c).ticket = s.ticket := rfl
@[simp] theorem State.withCtx_runtimeTvec (s : State) (c : Context) : (s.withCtx c).runtimeTvec = s.runtimeTvec := rfl
@[simp] theorem State.withCtx_eager (s : State) (c : Context) : (s.withCtx c).eager = s.eager := rfl
@[simp] theorem State.withCtx_now (s : State) (c : Context) : (s.withCtx c).now = s.now := rfl
@[simp] theorem State.withCtx_reply (s : State) (c : Context) : (s.withCtx c).reply = s.reply := rfl
@[simp] theorem State.withCtx_inputs (s : State) (c : Context) : (s.withCtx c).inputs = s.inputs := rfl

/-! setCore. -/

@[simp] theorem State.setCore_ctx (s : State) (k : Nat) (r : CoreRec) : (s.setCore k r).ctx = s.ctx := rfl
@[simp] theorem State.setCore_others (s : State) (k : Nat) (r : CoreRec) : (s.setCore k r).others = s.others := rfl
@[simp] theorem State.setCore_mem (s : State) (k : Nat) (r : CoreRec) : (s.setCore k r).mem = s.mem := rfl
@[simp] theorem State.setCore_marks (s : State) (k : Nat) (r : CoreRec) : (s.setCore k r).marks = s.marks := rfl
@[simp] theorem State.setCore_murk (s : State) (k : Nat) (r : CoreRec) : (s.setCore k r).murk = s.murk := rfl
@[simp] theorem State.setCore_writes (s : State) (k : Nat) (r : CoreRec) : (s.setCore k r).writes = s.writes := rfl
@[simp] theorem State.setCore_regions (s : State) (k : Nat) (r : CoreRec) : (s.setCore k r).regions = s.regions := rfl
@[simp] theorem State.setCore_asids (s : State) (k : Nat) (r : CoreRec) : (s.setCore k r).asids = s.asids := rfl
@[simp] theorem State.setCore_preq (s : State) (k : Nat) (r : CoreRec) : (s.setCore k r).preq = s.preq := rfl
@[simp] theorem State.setCore_invAll (s : State) (k : Nat) (r : CoreRec) : (s.setCore k r).invAll = s.invAll := rfl
@[simp] theorem State.setCore_invs (s : State) (k : Nat) (r : CoreRec) : (s.setCore k r).invs = s.invs := rfl
@[simp] theorem State.setCore_oldBinds (s : State) (k : Nat) (r : CoreRec) : (s.setCore k r).oldBinds = s.oldBinds := rfl
@[simp] theorem State.setCore_ccache (s : State) (k : Nat) (r : CoreRec) : (s.setCore k r).ccache = s.ccache := rfl
@[simp] theorem State.setCore_tiers (s : State) (k : Nat) (r : CoreRec) : (s.setCore k r).tiers = s.tiers := rfl
@[simp] theorem State.setCore_stackTab (s : State) (k : Nat) (r : CoreRec) : (s.setCore k r).stackTab = s.stackTab := rfl
@[simp] theorem State.setCore_pbudget (s : State) (k : Nat) (r : CoreRec) : (s.setCore k r).pbudget = s.pbudget := rfl
@[simp] theorem State.setCore_savesets (s : State) (k : Nat) (r : CoreRec) : (s.setCore k r).savesets = s.savesets := rfl
@[simp] theorem State.setCore_brake (s : State) (k : Nat) (r : CoreRec) : (s.setCore k r).brake = s.brake := rfl
@[simp] theorem State.setCore_links (s : State) (k : Nat) (r : CoreRec) : (s.setCore k r).links = s.links := rfl
@[simp] theorem State.setCore_ports (s : State) (k : Nat) (r : CoreRec) : (s.setCore k r).ports = s.ports := rfl
@[simp] theorem State.setCore_queues (s : State) (k : Nat) (r : CoreRec) : (s.setCore k r).queues = s.queues := rfl
@[simp] theorem State.setCore_launches (s : State) (k : Nat) (r : CoreRec) : (s.setCore k r).launches = s.launches := rfl
@[simp] theorem State.setCore_posted (s : State) (k : Nat) (r : CoreRec) : (s.setCore k r).posted = s.posted := rfl
@[simp] theorem State.setCore_traces (s : State) (k : Nat) (r : CoreRec) : (s.setCore k r).traces = s.traces := rfl
@[simp] theorem State.setCore_pokes (s : State) (k : Nat) (r : CoreRec) : (s.setCore k r).pokes = s.pokes := rfl
@[simp] theorem State.setCore_externals (s : State) (k : Nat) (r : CoreRec) : (s.setCore k r).externals = s.externals := rfl
@[simp] theorem State.setCore_haspTurn (s : State) (k : Nat) (r : CoreRec) : (s.setCore k r).haspTurn = s.haspTurn := rfl
@[simp] theorem State.setCore_report (s : State) (k : Nat) (r : CoreRec) : (s.setCore k r).report = s.report := rfl
@[simp] theorem State.setCore_halts (s : State) (k : Nat) (r : CoreRec) : (s.setCore k r).halts = s.halts := rfl
@[simp] theorem State.setCore_keyholder (s : State) (k : Nat) (r : CoreRec) : (s.setCore k r).keyholder = s.keyholder := rfl
@[simp] theorem State.setCore_held (s : State) (k : Nat) (r : CoreRec) : (s.setCore k r).held = s.held := rfl
@[simp] theorem State.setCore_retry (s : State) (k : Nat) (r : CoreRec) : (s.setCore k r).retry = s.retry := rfl
@[simp] theorem State.setCore_cycle (s : State) (k : Nat) (r : CoreRec) : (s.setCore k r).cycle = s.cycle := rfl
@[simp] theorem State.setCore_nextSeq (s : State) (k : Nat) (r : CoreRec) : (s.setCore k r).nextSeq = s.nextSeq := rfl
@[simp] theorem State.setCore_nextCtx (s : State) (k : Nat) (r : CoreRec) : (s.setCore k r).nextCtx = s.nextCtx := rfl
@[simp] theorem State.setCore_ticket (s : State) (k : Nat) (r : CoreRec) : (s.setCore k r).ticket = s.ticket := rfl
@[simp] theorem State.setCore_runtimeTvec (s : State) (k : Nat) (r : CoreRec) : (s.setCore k r).runtimeTvec = s.runtimeTvec := rfl
@[simp] theorem State.setCore_eager (s : State) (k : Nat) (r : CoreRec) : (s.setCore k r).eager = s.eager := rfl
@[simp] theorem State.setCore_now (s : State) (k : Nat) (r : CoreRec) : (s.setCore k r).now = s.now := rfl
@[simp] theorem State.setCore_reply (s : State) (k : Nat) (r : CoreRec) : (s.setCore k r).reply = s.reply := rfl
@[simp] theorem State.setCore_inputs (s : State) (k : Nat) (r : CoreRec) : (s.setCore k r).inputs = s.inputs := rfl

/-! setTier. -/

@[simp] theorem State.setTier_ctx (s : State) (k : Nat) (r : TierRec) : (s.setTier k r).ctx = s.ctx := rfl
@[simp] theorem State.setTier_others (s : State) (k : Nat) (r : TierRec) : (s.setTier k r).others = s.others := rfl
@[simp] theorem State.setTier_mem (s : State) (k : Nat) (r : TierRec) : (s.setTier k r).mem = s.mem := rfl
@[simp] theorem State.setTier_marks (s : State) (k : Nat) (r : TierRec) : (s.setTier k r).marks = s.marks := rfl
@[simp] theorem State.setTier_murk (s : State) (k : Nat) (r : TierRec) : (s.setTier k r).murk = s.murk := rfl
@[simp] theorem State.setTier_writes (s : State) (k : Nat) (r : TierRec) : (s.setTier k r).writes = s.writes := rfl
@[simp] theorem State.setTier_regions (s : State) (k : Nat) (r : TierRec) : (s.setTier k r).regions = s.regions := rfl
@[simp] theorem State.setTier_asids (s : State) (k : Nat) (r : TierRec) : (s.setTier k r).asids = s.asids := rfl
@[simp] theorem State.setTier_preq (s : State) (k : Nat) (r : TierRec) : (s.setTier k r).preq = s.preq := rfl
@[simp] theorem State.setTier_invAll (s : State) (k : Nat) (r : TierRec) : (s.setTier k r).invAll = s.invAll := rfl
@[simp] theorem State.setTier_invs (s : State) (k : Nat) (r : TierRec) : (s.setTier k r).invs = s.invs := rfl
@[simp] theorem State.setTier_oldBinds (s : State) (k : Nat) (r : TierRec) : (s.setTier k r).oldBinds = s.oldBinds := rfl
@[simp] theorem State.setTier_ccache (s : State) (k : Nat) (r : TierRec) : (s.setTier k r).ccache = s.ccache := rfl
@[simp] theorem State.setTier_cores (s : State) (k : Nat) (r : TierRec) : (s.setTier k r).cores = s.cores := rfl
@[simp] theorem State.setTier_stackTab (s : State) (k : Nat) (r : TierRec) : (s.setTier k r).stackTab = s.stackTab := rfl
@[simp] theorem State.setTier_pbudget (s : State) (k : Nat) (r : TierRec) : (s.setTier k r).pbudget = s.pbudget := rfl
@[simp] theorem State.setTier_savesets (s : State) (k : Nat) (r : TierRec) : (s.setTier k r).savesets = s.savesets := rfl
@[simp] theorem State.setTier_brake (s : State) (k : Nat) (r : TierRec) : (s.setTier k r).brake = s.brake := rfl
@[simp] theorem State.setTier_links (s : State) (k : Nat) (r : TierRec) : (s.setTier k r).links = s.links := rfl
@[simp] theorem State.setTier_ports (s : State) (k : Nat) (r : TierRec) : (s.setTier k r).ports = s.ports := rfl
@[simp] theorem State.setTier_queues (s : State) (k : Nat) (r : TierRec) : (s.setTier k r).queues = s.queues := rfl
@[simp] theorem State.setTier_launches (s : State) (k : Nat) (r : TierRec) : (s.setTier k r).launches = s.launches := rfl
@[simp] theorem State.setTier_posted (s : State) (k : Nat) (r : TierRec) : (s.setTier k r).posted = s.posted := rfl
@[simp] theorem State.setTier_traces (s : State) (k : Nat) (r : TierRec) : (s.setTier k r).traces = s.traces := rfl
@[simp] theorem State.setTier_pokes (s : State) (k : Nat) (r : TierRec) : (s.setTier k r).pokes = s.pokes := rfl
@[simp] theorem State.setTier_externals (s : State) (k : Nat) (r : TierRec) : (s.setTier k r).externals = s.externals := rfl
@[simp] theorem State.setTier_haspTurn (s : State) (k : Nat) (r : TierRec) : (s.setTier k r).haspTurn = s.haspTurn := rfl
@[simp] theorem State.setTier_report (s : State) (k : Nat) (r : TierRec) : (s.setTier k r).report = s.report := rfl
@[simp] theorem State.setTier_halts (s : State) (k : Nat) (r : TierRec) : (s.setTier k r).halts = s.halts := rfl
@[simp] theorem State.setTier_keyholder (s : State) (k : Nat) (r : TierRec) : (s.setTier k r).keyholder = s.keyholder := rfl
@[simp] theorem State.setTier_held (s : State) (k : Nat) (r : TierRec) : (s.setTier k r).held = s.held := rfl
@[simp] theorem State.setTier_retry (s : State) (k : Nat) (r : TierRec) : (s.setTier k r).retry = s.retry := rfl
@[simp] theorem State.setTier_cycle (s : State) (k : Nat) (r : TierRec) : (s.setTier k r).cycle = s.cycle := rfl
@[simp] theorem State.setTier_nextSeq (s : State) (k : Nat) (r : TierRec) : (s.setTier k r).nextSeq = s.nextSeq := rfl
@[simp] theorem State.setTier_nextCtx (s : State) (k : Nat) (r : TierRec) : (s.setTier k r).nextCtx = s.nextCtx := rfl
@[simp] theorem State.setTier_ticket (s : State) (k : Nat) (r : TierRec) : (s.setTier k r).ticket = s.ticket := rfl
@[simp] theorem State.setTier_runtimeTvec (s : State) (k : Nat) (r : TierRec) : (s.setTier k r).runtimeTvec = s.runtimeTvec := rfl
@[simp] theorem State.setTier_eager (s : State) (k : Nat) (r : TierRec) : (s.setTier k r).eager = s.eager := rfl
@[simp] theorem State.setTier_now (s : State) (k : Nat) (r : TierRec) : (s.setTier k r).now = s.now := rfl
@[simp] theorem State.setTier_reply (s : State) (k : Nat) (r : TierRec) : (s.setTier k r).reply = s.reply := rfl
@[simp] theorem State.setTier_inputs (s : State) (k : Nat) (r : TierRec) : (s.setTier k r).inputs = s.inputs := rfl

/-! setStack. -/

@[simp] theorem State.setStack_ctx (s : State) (k : Nat) (r : StackRec) : (s.setStack k r).ctx = s.ctx := rfl
@[simp] theorem State.setStack_others (s : State) (k : Nat) (r : StackRec) : (s.setStack k r).others = s.others := rfl
@[simp] theorem State.setStack_mem (s : State) (k : Nat) (r : StackRec) : (s.setStack k r).mem = s.mem := rfl
@[simp] theorem State.setStack_marks (s : State) (k : Nat) (r : StackRec) : (s.setStack k r).marks = s.marks := rfl
@[simp] theorem State.setStack_murk (s : State) (k : Nat) (r : StackRec) : (s.setStack k r).murk = s.murk := rfl
@[simp] theorem State.setStack_writes (s : State) (k : Nat) (r : StackRec) : (s.setStack k r).writes = s.writes := rfl
@[simp] theorem State.setStack_regions (s : State) (k : Nat) (r : StackRec) : (s.setStack k r).regions = s.regions := rfl
@[simp] theorem State.setStack_asids (s : State) (k : Nat) (r : StackRec) : (s.setStack k r).asids = s.asids := rfl
@[simp] theorem State.setStack_preq (s : State) (k : Nat) (r : StackRec) : (s.setStack k r).preq = s.preq := rfl
@[simp] theorem State.setStack_invAll (s : State) (k : Nat) (r : StackRec) : (s.setStack k r).invAll = s.invAll := rfl
@[simp] theorem State.setStack_invs (s : State) (k : Nat) (r : StackRec) : (s.setStack k r).invs = s.invs := rfl
@[simp] theorem State.setStack_oldBinds (s : State) (k : Nat) (r : StackRec) : (s.setStack k r).oldBinds = s.oldBinds := rfl
@[simp] theorem State.setStack_ccache (s : State) (k : Nat) (r : StackRec) : (s.setStack k r).ccache = s.ccache := rfl
@[simp] theorem State.setStack_cores (s : State) (k : Nat) (r : StackRec) : (s.setStack k r).cores = s.cores := rfl
@[simp] theorem State.setStack_tiers (s : State) (k : Nat) (r : StackRec) : (s.setStack k r).tiers = s.tiers := rfl
@[simp] theorem State.setStack_pbudget (s : State) (k : Nat) (r : StackRec) : (s.setStack k r).pbudget = s.pbudget := rfl
@[simp] theorem State.setStack_savesets (s : State) (k : Nat) (r : StackRec) : (s.setStack k r).savesets = s.savesets := rfl
@[simp] theorem State.setStack_brake (s : State) (k : Nat) (r : StackRec) : (s.setStack k r).brake = s.brake := rfl
@[simp] theorem State.setStack_links (s : State) (k : Nat) (r : StackRec) : (s.setStack k r).links = s.links := rfl
@[simp] theorem State.setStack_ports (s : State) (k : Nat) (r : StackRec) : (s.setStack k r).ports = s.ports := rfl
@[simp] theorem State.setStack_queues (s : State) (k : Nat) (r : StackRec) : (s.setStack k r).queues = s.queues := rfl
@[simp] theorem State.setStack_launches (s : State) (k : Nat) (r : StackRec) : (s.setStack k r).launches = s.launches := rfl
@[simp] theorem State.setStack_posted (s : State) (k : Nat) (r : StackRec) : (s.setStack k r).posted = s.posted := rfl
@[simp] theorem State.setStack_traces (s : State) (k : Nat) (r : StackRec) : (s.setStack k r).traces = s.traces := rfl
@[simp] theorem State.setStack_pokes (s : State) (k : Nat) (r : StackRec) : (s.setStack k r).pokes = s.pokes := rfl
@[simp] theorem State.setStack_externals (s : State) (k : Nat) (r : StackRec) : (s.setStack k r).externals = s.externals := rfl
@[simp] theorem State.setStack_haspTurn (s : State) (k : Nat) (r : StackRec) : (s.setStack k r).haspTurn = s.haspTurn := rfl
@[simp] theorem State.setStack_report (s : State) (k : Nat) (r : StackRec) : (s.setStack k r).report = s.report := rfl
@[simp] theorem State.setStack_halts (s : State) (k : Nat) (r : StackRec) : (s.setStack k r).halts = s.halts := rfl
@[simp] theorem State.setStack_keyholder (s : State) (k : Nat) (r : StackRec) : (s.setStack k r).keyholder = s.keyholder := rfl
@[simp] theorem State.setStack_held (s : State) (k : Nat) (r : StackRec) : (s.setStack k r).held = s.held := rfl
@[simp] theorem State.setStack_retry (s : State) (k : Nat) (r : StackRec) : (s.setStack k r).retry = s.retry := rfl
@[simp] theorem State.setStack_cycle (s : State) (k : Nat) (r : StackRec) : (s.setStack k r).cycle = s.cycle := rfl
@[simp] theorem State.setStack_nextSeq (s : State) (k : Nat) (r : StackRec) : (s.setStack k r).nextSeq = s.nextSeq := rfl
@[simp] theorem State.setStack_nextCtx (s : State) (k : Nat) (r : StackRec) : (s.setStack k r).nextCtx = s.nextCtx := rfl
@[simp] theorem State.setStack_ticket (s : State) (k : Nat) (r : StackRec) : (s.setStack k r).ticket = s.ticket := rfl
@[simp] theorem State.setStack_runtimeTvec (s : State) (k : Nat) (r : StackRec) : (s.setStack k r).runtimeTvec = s.runtimeTvec := rfl
@[simp] theorem State.setStack_eager (s : State) (k : Nat) (r : StackRec) : (s.setStack k r).eager = s.eager := rfl
@[simp] theorem State.setStack_now (s : State) (k : Nat) (r : StackRec) : (s.setStack k r).now = s.now := rfl
@[simp] theorem State.setStack_reply (s : State) (k : Nat) (r : StackRec) : (s.setStack k r).reply = s.reply := rfl
@[simp] theorem State.setStack_inputs (s : State) (k : Nat) (r : StackRec) : (s.setStack k r).inputs = s.inputs := rfl

/-! setLink. -/

@[simp] theorem State.setLink_ctx (s : State) (k : Nat) (r : LinkRec) : (s.setLink k r).ctx = s.ctx := rfl
@[simp] theorem State.setLink_others (s : State) (k : Nat) (r : LinkRec) : (s.setLink k r).others = s.others := rfl
@[simp] theorem State.setLink_mem (s : State) (k : Nat) (r : LinkRec) : (s.setLink k r).mem = s.mem := rfl
@[simp] theorem State.setLink_marks (s : State) (k : Nat) (r : LinkRec) : (s.setLink k r).marks = s.marks := rfl
@[simp] theorem State.setLink_murk (s : State) (k : Nat) (r : LinkRec) : (s.setLink k r).murk = s.murk := rfl
@[simp] theorem State.setLink_writes (s : State) (k : Nat) (r : LinkRec) : (s.setLink k r).writes = s.writes := rfl
@[simp] theorem State.setLink_regions (s : State) (k : Nat) (r : LinkRec) : (s.setLink k r).regions = s.regions := rfl
@[simp] theorem State.setLink_asids (s : State) (k : Nat) (r : LinkRec) : (s.setLink k r).asids = s.asids := rfl
@[simp] theorem State.setLink_preq (s : State) (k : Nat) (r : LinkRec) : (s.setLink k r).preq = s.preq := rfl
@[simp] theorem State.setLink_invAll (s : State) (k : Nat) (r : LinkRec) : (s.setLink k r).invAll = s.invAll := rfl
@[simp] theorem State.setLink_invs (s : State) (k : Nat) (r : LinkRec) : (s.setLink k r).invs = s.invs := rfl
@[simp] theorem State.setLink_oldBinds (s : State) (k : Nat) (r : LinkRec) : (s.setLink k r).oldBinds = s.oldBinds := rfl
@[simp] theorem State.setLink_ccache (s : State) (k : Nat) (r : LinkRec) : (s.setLink k r).ccache = s.ccache := rfl
@[simp] theorem State.setLink_cores (s : State) (k : Nat) (r : LinkRec) : (s.setLink k r).cores = s.cores := rfl
@[simp] theorem State.setLink_tiers (s : State) (k : Nat) (r : LinkRec) : (s.setLink k r).tiers = s.tiers := rfl
@[simp] theorem State.setLink_stackTab (s : State) (k : Nat) (r : LinkRec) : (s.setLink k r).stackTab = s.stackTab := rfl
@[simp] theorem State.setLink_pbudget (s : State) (k : Nat) (r : LinkRec) : (s.setLink k r).pbudget = s.pbudget := rfl
@[simp] theorem State.setLink_savesets (s : State) (k : Nat) (r : LinkRec) : (s.setLink k r).savesets = s.savesets := rfl
@[simp] theorem State.setLink_brake (s : State) (k : Nat) (r : LinkRec) : (s.setLink k r).brake = s.brake := rfl
@[simp] theorem State.setLink_ports (s : State) (k : Nat) (r : LinkRec) : (s.setLink k r).ports = s.ports := rfl
@[simp] theorem State.setLink_queues (s : State) (k : Nat) (r : LinkRec) : (s.setLink k r).queues = s.queues := rfl
@[simp] theorem State.setLink_launches (s : State) (k : Nat) (r : LinkRec) : (s.setLink k r).launches = s.launches := rfl
@[simp] theorem State.setLink_posted (s : State) (k : Nat) (r : LinkRec) : (s.setLink k r).posted = s.posted := rfl
@[simp] theorem State.setLink_traces (s : State) (k : Nat) (r : LinkRec) : (s.setLink k r).traces = s.traces := rfl
@[simp] theorem State.setLink_pokes (s : State) (k : Nat) (r : LinkRec) : (s.setLink k r).pokes = s.pokes := rfl
@[simp] theorem State.setLink_externals (s : State) (k : Nat) (r : LinkRec) : (s.setLink k r).externals = s.externals := rfl
@[simp] theorem State.setLink_haspTurn (s : State) (k : Nat) (r : LinkRec) : (s.setLink k r).haspTurn = s.haspTurn := rfl
@[simp] theorem State.setLink_report (s : State) (k : Nat) (r : LinkRec) : (s.setLink k r).report = s.report := rfl
@[simp] theorem State.setLink_halts (s : State) (k : Nat) (r : LinkRec) : (s.setLink k r).halts = s.halts := rfl
@[simp] theorem State.setLink_keyholder (s : State) (k : Nat) (r : LinkRec) : (s.setLink k r).keyholder = s.keyholder := rfl
@[simp] theorem State.setLink_held (s : State) (k : Nat) (r : LinkRec) : (s.setLink k r).held = s.held := rfl
@[simp] theorem State.setLink_retry (s : State) (k : Nat) (r : LinkRec) : (s.setLink k r).retry = s.retry := rfl
@[simp] theorem State.setLink_cycle (s : State) (k : Nat) (r : LinkRec) : (s.setLink k r).cycle = s.cycle := rfl
@[simp] theorem State.setLink_nextSeq (s : State) (k : Nat) (r : LinkRec) : (s.setLink k r).nextSeq = s.nextSeq := rfl
@[simp] theorem State.setLink_nextCtx (s : State) (k : Nat) (r : LinkRec) : (s.setLink k r).nextCtx = s.nextCtx := rfl
@[simp] theorem State.setLink_ticket (s : State) (k : Nat) (r : LinkRec) : (s.setLink k r).ticket = s.ticket := rfl
@[simp] theorem State.setLink_runtimeTvec (s : State) (k : Nat) (r : LinkRec) : (s.setLink k r).runtimeTvec = s.runtimeTvec := rfl
@[simp] theorem State.setLink_eager (s : State) (k : Nat) (r : LinkRec) : (s.setLink k r).eager = s.eager := rfl
@[simp] theorem State.setLink_now (s : State) (k : Nat) (r : LinkRec) : (s.setLink k r).now = s.now := rfl
@[simp] theorem State.setLink_reply (s : State) (k : Nat) (r : LinkRec) : (s.setLink k r).reply = s.reply := rfl
@[simp] theorem State.setLink_inputs (s : State) (k : Nat) (r : LinkRec) : (s.setLink k r).inputs = s.inputs := rfl

/-! setPort. -/

@[simp] theorem State.setPort_ctx (s : State) (k : Nat) (r : PortRec) : (s.setPort k r).ctx = s.ctx := rfl
@[simp] theorem State.setPort_others (s : State) (k : Nat) (r : PortRec) : (s.setPort k r).others = s.others := rfl
@[simp] theorem State.setPort_mem (s : State) (k : Nat) (r : PortRec) : (s.setPort k r).mem = s.mem := rfl
@[simp] theorem State.setPort_marks (s : State) (k : Nat) (r : PortRec) : (s.setPort k r).marks = s.marks := rfl
@[simp] theorem State.setPort_murk (s : State) (k : Nat) (r : PortRec) : (s.setPort k r).murk = s.murk := rfl
@[simp] theorem State.setPort_writes (s : State) (k : Nat) (r : PortRec) : (s.setPort k r).writes = s.writes := rfl
@[simp] theorem State.setPort_regions (s : State) (k : Nat) (r : PortRec) : (s.setPort k r).regions = s.regions := rfl
@[simp] theorem State.setPort_asids (s : State) (k : Nat) (r : PortRec) : (s.setPort k r).asids = s.asids := rfl
@[simp] theorem State.setPort_preq (s : State) (k : Nat) (r : PortRec) : (s.setPort k r).preq = s.preq := rfl
@[simp] theorem State.setPort_invAll (s : State) (k : Nat) (r : PortRec) : (s.setPort k r).invAll = s.invAll := rfl
@[simp] theorem State.setPort_invs (s : State) (k : Nat) (r : PortRec) : (s.setPort k r).invs = s.invs := rfl
@[simp] theorem State.setPort_oldBinds (s : State) (k : Nat) (r : PortRec) : (s.setPort k r).oldBinds = s.oldBinds := rfl
@[simp] theorem State.setPort_ccache (s : State) (k : Nat) (r : PortRec) : (s.setPort k r).ccache = s.ccache := rfl
@[simp] theorem State.setPort_cores (s : State) (k : Nat) (r : PortRec) : (s.setPort k r).cores = s.cores := rfl
@[simp] theorem State.setPort_tiers (s : State) (k : Nat) (r : PortRec) : (s.setPort k r).tiers = s.tiers := rfl
@[simp] theorem State.setPort_stackTab (s : State) (k : Nat) (r : PortRec) : (s.setPort k r).stackTab = s.stackTab := rfl
@[simp] theorem State.setPort_pbudget (s : State) (k : Nat) (r : PortRec) : (s.setPort k r).pbudget = s.pbudget := rfl
@[simp] theorem State.setPort_savesets (s : State) (k : Nat) (r : PortRec) : (s.setPort k r).savesets = s.savesets := rfl
@[simp] theorem State.setPort_brake (s : State) (k : Nat) (r : PortRec) : (s.setPort k r).brake = s.brake := rfl
@[simp] theorem State.setPort_links (s : State) (k : Nat) (r : PortRec) : (s.setPort k r).links = s.links := rfl
@[simp] theorem State.setPort_queues (s : State) (k : Nat) (r : PortRec) : (s.setPort k r).queues = s.queues := rfl
@[simp] theorem State.setPort_launches (s : State) (k : Nat) (r : PortRec) : (s.setPort k r).launches = s.launches := rfl
@[simp] theorem State.setPort_posted (s : State) (k : Nat) (r : PortRec) : (s.setPort k r).posted = s.posted := rfl
@[simp] theorem State.setPort_traces (s : State) (k : Nat) (r : PortRec) : (s.setPort k r).traces = s.traces := rfl
@[simp] theorem State.setPort_pokes (s : State) (k : Nat) (r : PortRec) : (s.setPort k r).pokes = s.pokes := rfl
@[simp] theorem State.setPort_externals (s : State) (k : Nat) (r : PortRec) : (s.setPort k r).externals = s.externals := rfl
@[simp] theorem State.setPort_haspTurn (s : State) (k : Nat) (r : PortRec) : (s.setPort k r).haspTurn = s.haspTurn := rfl
@[simp] theorem State.setPort_report (s : State) (k : Nat) (r : PortRec) : (s.setPort k r).report = s.report := rfl
@[simp] theorem State.setPort_halts (s : State) (k : Nat) (r : PortRec) : (s.setPort k r).halts = s.halts := rfl
@[simp] theorem State.setPort_keyholder (s : State) (k : Nat) (r : PortRec) : (s.setPort k r).keyholder = s.keyholder := rfl
@[simp] theorem State.setPort_held (s : State) (k : Nat) (r : PortRec) : (s.setPort k r).held = s.held := rfl
@[simp] theorem State.setPort_retry (s : State) (k : Nat) (r : PortRec) : (s.setPort k r).retry = s.retry := rfl
@[simp] theorem State.setPort_cycle (s : State) (k : Nat) (r : PortRec) : (s.setPort k r).cycle = s.cycle := rfl
@[simp] theorem State.setPort_nextSeq (s : State) (k : Nat) (r : PortRec) : (s.setPort k r).nextSeq = s.nextSeq := rfl
@[simp] theorem State.setPort_nextCtx (s : State) (k : Nat) (r : PortRec) : (s.setPort k r).nextCtx = s.nextCtx := rfl
@[simp] theorem State.setPort_ticket (s : State) (k : Nat) (r : PortRec) : (s.setPort k r).ticket = s.ticket := rfl
@[simp] theorem State.setPort_runtimeTvec (s : State) (k : Nat) (r : PortRec) : (s.setPort k r).runtimeTvec = s.runtimeTvec := rfl
@[simp] theorem State.setPort_eager (s : State) (k : Nat) (r : PortRec) : (s.setPort k r).eager = s.eager := rfl
@[simp] theorem State.setPort_now (s : State) (k : Nat) (r : PortRec) : (s.setPort k r).now = s.now := rfl
@[simp] theorem State.setPort_reply (s : State) (k : Nat) (r : PortRec) : (s.setPort k r).reply = s.reply := rfl
@[simp] theorem State.setPort_inputs (s : State) (k : Nat) (r : PortRec) : (s.setPort k r).inputs = s.inputs := rfl

/-! setQueue. -/

@[simp] theorem State.setQueue_ctx (s : State) (k : Nat) (r : QueueRec) : (s.setQueue k r).ctx = s.ctx := rfl
@[simp] theorem State.setQueue_others (s : State) (k : Nat) (r : QueueRec) : (s.setQueue k r).others = s.others := rfl
@[simp] theorem State.setQueue_mem (s : State) (k : Nat) (r : QueueRec) : (s.setQueue k r).mem = s.mem := rfl
@[simp] theorem State.setQueue_marks (s : State) (k : Nat) (r : QueueRec) : (s.setQueue k r).marks = s.marks := rfl
@[simp] theorem State.setQueue_murk (s : State) (k : Nat) (r : QueueRec) : (s.setQueue k r).murk = s.murk := rfl
@[simp] theorem State.setQueue_writes (s : State) (k : Nat) (r : QueueRec) : (s.setQueue k r).writes = s.writes := rfl
@[simp] theorem State.setQueue_regions (s : State) (k : Nat) (r : QueueRec) : (s.setQueue k r).regions = s.regions := rfl
@[simp] theorem State.setQueue_asids (s : State) (k : Nat) (r : QueueRec) : (s.setQueue k r).asids = s.asids := rfl
@[simp] theorem State.setQueue_preq (s : State) (k : Nat) (r : QueueRec) : (s.setQueue k r).preq = s.preq := rfl
@[simp] theorem State.setQueue_invAll (s : State) (k : Nat) (r : QueueRec) : (s.setQueue k r).invAll = s.invAll := rfl
@[simp] theorem State.setQueue_invs (s : State) (k : Nat) (r : QueueRec) : (s.setQueue k r).invs = s.invs := rfl
@[simp] theorem State.setQueue_oldBinds (s : State) (k : Nat) (r : QueueRec) : (s.setQueue k r).oldBinds = s.oldBinds := rfl
@[simp] theorem State.setQueue_ccache (s : State) (k : Nat) (r : QueueRec) : (s.setQueue k r).ccache = s.ccache := rfl
@[simp] theorem State.setQueue_cores (s : State) (k : Nat) (r : QueueRec) : (s.setQueue k r).cores = s.cores := rfl
@[simp] theorem State.setQueue_tiers (s : State) (k : Nat) (r : QueueRec) : (s.setQueue k r).tiers = s.tiers := rfl
@[simp] theorem State.setQueue_stackTab (s : State) (k : Nat) (r : QueueRec) : (s.setQueue k r).stackTab = s.stackTab := rfl
@[simp] theorem State.setQueue_pbudget (s : State) (k : Nat) (r : QueueRec) : (s.setQueue k r).pbudget = s.pbudget := rfl
@[simp] theorem State.setQueue_savesets (s : State) (k : Nat) (r : QueueRec) : (s.setQueue k r).savesets = s.savesets := rfl
@[simp] theorem State.setQueue_brake (s : State) (k : Nat) (r : QueueRec) : (s.setQueue k r).brake = s.brake := rfl
@[simp] theorem State.setQueue_links (s : State) (k : Nat) (r : QueueRec) : (s.setQueue k r).links = s.links := rfl
@[simp] theorem State.setQueue_ports (s : State) (k : Nat) (r : QueueRec) : (s.setQueue k r).ports = s.ports := rfl
@[simp] theorem State.setQueue_launches (s : State) (k : Nat) (r : QueueRec) : (s.setQueue k r).launches = s.launches := rfl
@[simp] theorem State.setQueue_posted (s : State) (k : Nat) (r : QueueRec) : (s.setQueue k r).posted = s.posted := rfl
@[simp] theorem State.setQueue_traces (s : State) (k : Nat) (r : QueueRec) : (s.setQueue k r).traces = s.traces := rfl
@[simp] theorem State.setQueue_pokes (s : State) (k : Nat) (r : QueueRec) : (s.setQueue k r).pokes = s.pokes := rfl
@[simp] theorem State.setQueue_externals (s : State) (k : Nat) (r : QueueRec) : (s.setQueue k r).externals = s.externals := rfl
@[simp] theorem State.setQueue_haspTurn (s : State) (k : Nat) (r : QueueRec) : (s.setQueue k r).haspTurn = s.haspTurn := rfl
@[simp] theorem State.setQueue_report (s : State) (k : Nat) (r : QueueRec) : (s.setQueue k r).report = s.report := rfl
@[simp] theorem State.setQueue_halts (s : State) (k : Nat) (r : QueueRec) : (s.setQueue k r).halts = s.halts := rfl
@[simp] theorem State.setQueue_keyholder (s : State) (k : Nat) (r : QueueRec) : (s.setQueue k r).keyholder = s.keyholder := rfl
@[simp] theorem State.setQueue_held (s : State) (k : Nat) (r : QueueRec) : (s.setQueue k r).held = s.held := rfl
@[simp] theorem State.setQueue_retry (s : State) (k : Nat) (r : QueueRec) : (s.setQueue k r).retry = s.retry := rfl
@[simp] theorem State.setQueue_cycle (s : State) (k : Nat) (r : QueueRec) : (s.setQueue k r).cycle = s.cycle := rfl
@[simp] theorem State.setQueue_nextSeq (s : State) (k : Nat) (r : QueueRec) : (s.setQueue k r).nextSeq = s.nextSeq := rfl
@[simp] theorem State.setQueue_nextCtx (s : State) (k : Nat) (r : QueueRec) : (s.setQueue k r).nextCtx = s.nextCtx := rfl
@[simp] theorem State.setQueue_ticket (s : State) (k : Nat) (r : QueueRec) : (s.setQueue k r).ticket = s.ticket := rfl
@[simp] theorem State.setQueue_runtimeTvec (s : State) (k : Nat) (r : QueueRec) : (s.setQueue k r).runtimeTvec = s.runtimeTvec := rfl
@[simp] theorem State.setQueue_eager (s : State) (k : Nat) (r : QueueRec) : (s.setQueue k r).eager = s.eager := rfl
@[simp] theorem State.setQueue_now (s : State) (k : Nat) (r : QueueRec) : (s.setQueue k r).now = s.now := rfl
@[simp] theorem State.setQueue_reply (s : State) (k : Nat) (r : QueueRec) : (s.setQueue k r).reply = s.reply := rfl
@[simp] theorem State.setQueue_inputs (s : State) (k : Nat) (r : QueueRec) : (s.setQueue k r).inputs = s.inputs := rfl

/-! setSlot. -/

@[simp] theorem State.setSlot_ctx (s : State) (k n : Nat) (q : CopySlot) : (s.setSlot k n q).ctx = s.ctx := rfl
@[simp] theorem State.setSlot_others (s : State) (k n : Nat) (q : CopySlot) : (s.setSlot k n q).others = s.others := rfl
@[simp] theorem State.setSlot_mem (s : State) (k n : Nat) (q : CopySlot) : (s.setSlot k n q).mem = s.mem := rfl
@[simp] theorem State.setSlot_marks (s : State) (k n : Nat) (q : CopySlot) : (s.setSlot k n q).marks = s.marks := rfl
@[simp] theorem State.setSlot_murk (s : State) (k n : Nat) (q : CopySlot) : (s.setSlot k n q).murk = s.murk := rfl
@[simp] theorem State.setSlot_writes (s : State) (k n : Nat) (q : CopySlot) : (s.setSlot k n q).writes = s.writes := rfl
@[simp] theorem State.setSlot_regions (s : State) (k n : Nat) (q : CopySlot) : (s.setSlot k n q).regions = s.regions := rfl
@[simp] theorem State.setSlot_asids (s : State) (k n : Nat) (q : CopySlot) : (s.setSlot k n q).asids = s.asids := rfl
@[simp] theorem State.setSlot_preq (s : State) (k n : Nat) (q : CopySlot) : (s.setSlot k n q).preq = s.preq := rfl
@[simp] theorem State.setSlot_invAll (s : State) (k n : Nat) (q : CopySlot) : (s.setSlot k n q).invAll = s.invAll := rfl
@[simp] theorem State.setSlot_invs (s : State) (k n : Nat) (q : CopySlot) : (s.setSlot k n q).invs = s.invs := rfl
@[simp] theorem State.setSlot_oldBinds (s : State) (k n : Nat) (q : CopySlot) : (s.setSlot k n q).oldBinds = s.oldBinds := rfl
@[simp] theorem State.setSlot_ccache (s : State) (k n : Nat) (q : CopySlot) : (s.setSlot k n q).ccache = s.ccache := rfl
@[simp] theorem State.setSlot_tiers (s : State) (k n : Nat) (q : CopySlot) : (s.setSlot k n q).tiers = s.tiers := rfl
@[simp] theorem State.setSlot_stackTab (s : State) (k n : Nat) (q : CopySlot) : (s.setSlot k n q).stackTab = s.stackTab := rfl
@[simp] theorem State.setSlot_pbudget (s : State) (k n : Nat) (q : CopySlot) : (s.setSlot k n q).pbudget = s.pbudget := rfl
@[simp] theorem State.setSlot_savesets (s : State) (k n : Nat) (q : CopySlot) : (s.setSlot k n q).savesets = s.savesets := rfl
@[simp] theorem State.setSlot_brake (s : State) (k n : Nat) (q : CopySlot) : (s.setSlot k n q).brake = s.brake := rfl
@[simp] theorem State.setSlot_links (s : State) (k n : Nat) (q : CopySlot) : (s.setSlot k n q).links = s.links := rfl
@[simp] theorem State.setSlot_ports (s : State) (k n : Nat) (q : CopySlot) : (s.setSlot k n q).ports = s.ports := rfl
@[simp] theorem State.setSlot_queues (s : State) (k n : Nat) (q : CopySlot) : (s.setSlot k n q).queues = s.queues := rfl
@[simp] theorem State.setSlot_launches (s : State) (k n : Nat) (q : CopySlot) : (s.setSlot k n q).launches = s.launches := rfl
@[simp] theorem State.setSlot_posted (s : State) (k n : Nat) (q : CopySlot) : (s.setSlot k n q).posted = s.posted := rfl
@[simp] theorem State.setSlot_traces (s : State) (k n : Nat) (q : CopySlot) : (s.setSlot k n q).traces = s.traces := rfl
@[simp] theorem State.setSlot_pokes (s : State) (k n : Nat) (q : CopySlot) : (s.setSlot k n q).pokes = s.pokes := rfl
@[simp] theorem State.setSlot_externals (s : State) (k n : Nat) (q : CopySlot) : (s.setSlot k n q).externals = s.externals := rfl
@[simp] theorem State.setSlot_haspTurn (s : State) (k n : Nat) (q : CopySlot) : (s.setSlot k n q).haspTurn = s.haspTurn := rfl
@[simp] theorem State.setSlot_report (s : State) (k n : Nat) (q : CopySlot) : (s.setSlot k n q).report = s.report := rfl
@[simp] theorem State.setSlot_halts (s : State) (k n : Nat) (q : CopySlot) : (s.setSlot k n q).halts = s.halts := rfl
@[simp] theorem State.setSlot_keyholder (s : State) (k n : Nat) (q : CopySlot) : (s.setSlot k n q).keyholder = s.keyholder := rfl
@[simp] theorem State.setSlot_held (s : State) (k n : Nat) (q : CopySlot) : (s.setSlot k n q).held = s.held := rfl
@[simp] theorem State.setSlot_retry (s : State) (k n : Nat) (q : CopySlot) : (s.setSlot k n q).retry = s.retry := rfl
@[simp] theorem State.setSlot_cycle (s : State) (k n : Nat) (q : CopySlot) : (s.setSlot k n q).cycle = s.cycle := rfl
@[simp] theorem State.setSlot_nextSeq (s : State) (k n : Nat) (q : CopySlot) : (s.setSlot k n q).nextSeq = s.nextSeq := rfl
@[simp] theorem State.setSlot_nextCtx (s : State) (k n : Nat) (q : CopySlot) : (s.setSlot k n q).nextCtx = s.nextCtx := rfl
@[simp] theorem State.setSlot_ticket (s : State) (k n : Nat) (q : CopySlot) : (s.setSlot k n q).ticket = s.ticket := rfl
@[simp] theorem State.setSlot_runtimeTvec (s : State) (k n : Nat) (q : CopySlot) : (s.setSlot k n q).runtimeTvec = s.runtimeTvec := rfl
@[simp] theorem State.setSlot_eager (s : State) (k n : Nat) (q : CopySlot) : (s.setSlot k n q).eager = s.eager := rfl
@[simp] theorem State.setSlot_now (s : State) (k n : Nat) (q : CopySlot) : (s.setSlot k n q).now = s.now := rfl
@[simp] theorem State.setSlot_reply (s : State) (k n : Nat) (q : CopySlot) : (s.setSlot k n q).reply = s.reply := rfl
@[simp] theorem State.setSlot_inputs (s : State) (k n : Nat) (q : CopySlot) : (s.setSlot k n q).inputs = s.inputs := rfl

/-! A bank of the running context, and FPSR. -/

@[simp] theorem Context.setBank_id (c : Context) (j : Nat) (b : Bank) : (c.setBank j b).id = c.id := rfl
@[simp] theorem Context.setBank_seq (c : Context) (j : Nat) (b : Bank) : (c.setBank j b).seq = c.seq := rfl
@[simp] theorem Context.setBank_l (c : Context) (j : Nat) (b : Bank) : (c.setBank j b).l = c.l := rfl
@[simp] theorem Context.setBank_owner (c : Context) (j : Nat) (b : Bank) : (c.setBank j b).owner = c.owner := rfl
@[simp] theorem Context.setBank_prio (c : Context) (j : Nat) (b : Bank) : (c.setBank j b).prio = c.prio := rfl
@[simp] theorem Context.setBank_energy (c : Context) (j : Nat) (b : Bank) : (c.setBank j b).energy = c.energy := rfl
@[simp] theorem Context.setBank_ord (c : Context) (j : Nat) (b : Bank) : (c.setBank j b).ord = c.ord := rfl
@[simp] theorem Context.setBank_keep (c : Context) (j : Nat) (b : Bank) : (c.setBank j b).keep = c.keep := rfl
@[simp] theorem Context.setBank_nslots (c : Context) (j : Nat) (b : Bank) : (c.setBank j b).nslots = c.nslots := rfl
@[simp] theorem Context.setBank_core (c : Context) (j : Nat) (b : Bank) : (c.setBank j b).core = c.core := rfl
@[simp] theorem Context.setBank_saveset (c : Context) (j : Nat) (b : Bank) : (c.setBank j b).saveset = c.saveset := rfl
@[simp] theorem Context.setBank_block (c : Context) (j : Nat) (b : Bank) : (c.setBank j b).block = c.block := rfl
@[simp] theorem Context.setBank_place (c : Context) (j : Nat) (b : Bank) : (c.setBank j b).place = c.place := rfl
@[simp] theorem Context.setBank_pc (c : Context) (j : Nat) (b : Bank) : (c.setBank j b).pc = c.pc := rfl
@[simp] theorem Context.setBank_scalars (c : Context) (j : Nat) (b : Bank) : (c.setBank j b).scalars = c.scalars := rfl
@[simp] theorem Context.setBank_rm (c : Context) (j : Nat) (b : Bank) : (c.setBank j b).rm = c.rm := rfl
@[simp] theorem Context.setBank_fz (c : Context) (j : Nat) (b : Bank) : (c.setBank j b).fz = c.fz := rfl
@[simp] theorem Context.setBank_lt (c : Context) (j : Nat) (b : Bank) : (c.setBank j b).lt = c.lt := rfl
@[simp] theorem Context.setBank_fpsr (c : Context) (j : Nat) (b : Bank) : (c.setBank j b).fpsr = c.fpsr := rfl
@[simp] theorem Context.setBank_win (c : Context) (j : Nat) (b : Bank) : (c.setBank j b).win = c.win := rfl
@[simp] theorem Context.setBank_vcode (c : Context) (j : Nat) (b : Bank) : (c.setBank j b).vcode = c.vcode := rfl
@[simp] theorem Context.setBank_nrow (c : Context) (j : Nat) (b : Bank) : (c.setBank j b).nrow = c.nrow := rfl
@[simp] theorem Context.setBank_ncol (c : Context) (j : Nat) (b : Bank) : (c.setBank j b).ncol = c.ncol := rfl
@[simp] theorem Context.setBank_srem (c : Context) (j : Nat) (b : Bank) : (c.setBank j b).srem = c.srem := rfl
@[simp] theorem Context.setBank_smax (c : Context) (j : Nat) (b : Bank) : (c.setBank j b).smax = c.smax := rfl
@[simp] theorem Context.setBank_sord (c : Context) (j : Nat) (b : Bank) : (c.setBank j b).sord = c.sord := rfl
@[simp] theorem Context.setBank_sbeg (c : Context) (j : Nat) (b : Bank) : (c.setBank j b).sbeg = c.sbeg := rfl
@[simp] theorem Context.setBank_send (c : Context) (j : Nat) (b : Bank) : (c.setBank j b).send = c.send := rfl
@[simp] theorem Context.setBank_lc (c : Context) (j : Nat) (b : Bank) : (c.setBank j b).lc = c.lc := rfl
@[simp] theorem Context.setBank_lcPend (c : Context) (j : Nat) (b : Bank) : (c.setBank j b).lcPend = c.lcPend := rfl
@[simp] theorem Context.setBank_lcn (c : Context) (j : Nat) (b : Bank) : (c.setBank j b).lcn = c.lcn := rfl
@[simp] theorem Context.setBank_lbeg (c : Context) (j : Nat) (b : Bank) : (c.setBank j b).lbeg = c.lbeg := rfl
@[simp] theorem Context.setBank_lend (c : Context) (j : Nat) (b : Bank) : (c.setBank j b).lend = c.lend := rfl
@[simp] theorem Context.setBank_slip (c : Context) (j : Nat) (b : Bank) : (c.setBank j b).slip = c.slip := rfl
@[simp] theorem Context.setBank_gmBanks (c : Context) (j : Nat) (b : Bank) : (c.setBank j b).gmBanks = c.gmBanks := rfl
@[simp] theorem Context.setBank_gmBase (c : Context) (j : Nat) (b : Bank) : (c.setBank j b).gmBase = c.gmBase := rfl
@[simp] theorem Context.setBank_gmWlog (c : Context) (j : Nat) (b : Bank) : (c.setBank j b).gmWlog = c.gmWlog := rfl
@[simp] theorem Context.setBank_gmSub (c : Context) (j : Nat) (b : Bank) : (c.setBank j b).gmSub = c.gmSub := rfl
@[simp] theorem Context.setBank_rfth (c : Context) (j : Nat) (b : Bank) : (c.setBank j b).rfth = c.rfth := rfl
@[simp] theorem Context.setBank_fref (c : Context) (j : Nat) (b : Bank) : (c.setBank j b).fref = c.fref := rfl
@[simp] theorem Context.setBank_mrep (c : Context) (j : Nat) (b : Bank) : (c.setBank j b).mrep = c.mrep := rfl
@[simp] theorem Context.setBank_mprog (c : Context) (j : Nat) (b : Bank) : (c.setBank j b).mprog = c.mprog := rfl
@[simp] theorem Context.setBank_wid (c : Context) (j : Nat) (b : Bank) : (c.setBank j b).wid = c.wid := rfl
@[simp] theorem Context.setBank_sup (c : Context) (j : Nat) (b : Bank) : (c.setBank j b).sup = c.sup := rfl
@[simp] theorem Context.setBank_ad (c : Context) (j : Nat) (b : Bank) : (c.setBank j b).ad = c.ad := rfl
@[simp] theorem Context.setBank_tvec (c : Context) (j : Nat) (b : Bank) : (c.setBank j b).tvec = c.tvec := rfl
@[simp] theorem Context.setBank_tpc (c : Context) (j : Nat) (b : Bank) : (c.setBank j b).tpc = c.tpc := rfl
@[simp] theorem Context.setBank_tcause (c : Context) (j : Nat) (b : Bank) : (c.setBank j b).tcause = c.tcause := rfl
@[simp] theorem Context.setBank_tval (c : Context) (j : Nat) (b : Bank) : (c.setBank j b).tval = c.tval := rfl
@[simp] theorem Context.setBank_tstat (c : Context) (j : Nat) (b : Bank) : (c.setBank j b).tstat = c.tstat := rfl
@[simp] theorem Context.setBank_tscr (c : Context) (j : Nat) (b : Bank) : (c.setBank j b).tscr = c.tscr := rfl
@[simp] theorem Context.setBank_sib (c : Context) (j : Nat) (b : Bank) : (c.setBank j b).sib = c.sib := rfl
@[simp] theorem Context.setBank_sibHeld (c : Context) (j : Nat) (b : Bank) : (c.setBank j b).sibHeld = c.sibHeld := rfl
@[simp] theorem Context.setBank_turned (c : Context) (j : Nat) (b : Bank) : (c.setBank j b).turned = c.turned := rfl
@[simp] theorem Context.setBank_gbar (c : Context) (j : Nat) (b : Bank) : (c.setBank j b).gbar = c.gbar := rfl
@[simp] theorem Context.setBank_mg (c : Context) (j : Nat) (b : Bank) : (c.setBank j b).mg = c.mg := rfl
@[simp] theorem Context.setBank_mseq (c : Context) (j : Nat) (b : Bank) : (c.setBank j b).mseq = c.mseq := rfl
@[simp] theorem Context.setBank_staged (c : Context) (j : Nat) (b : Bank) : (c.setBank j b).staged = c.staged := rfl
@[simp] theorem Context.setBank_mmf (c : Context) (j : Nat) (b : Bank) : (c.setBank j b).mmf = c.mmf := rfl
@[simp] theorem Context.setBank_past (c : Context) (j : Nat) (b : Bank) : (c.setBank j b).past = c.past := rfl
@[simp] theorem Context.setBank_foldFault (c : Context) (j : Nat) (b : Bank) : (c.setBank j b).foldFault = c.foldFault := rfl
@[simp] theorem Context.setBank_doomQ (c : Context) (j : Nat) (b : Bank) : (c.setBank j b).doomQ = c.doomQ := rfl
@[simp] theorem Context.setBank_markTrap (c : Context) (j : Nat) (b : Bank) : (c.setBank j b).markTrap = c.markTrap := rfl
@[simp] theorem Context.setBank_owed (c : Context) (j : Nat) (b : Bank) : (c.setBank j b).owed = c.owed := rfl
@[simp] theorem Context.setBank_pend10 (c : Context) (j : Nat) (b : Bank) : (c.setBank j b).pend10 = c.pend10 := rfl
@[simp] theorem Context.setBank_pend11 (c : Context) (j : Nat) (b : Bank) : (c.setBank j b).pend11 = c.pend11 := rfl
@[simp] theorem Context.setBank_pend30 (c : Context) (j : Nat) (b : Bank) : (c.setBank j b).pend30 = c.pend30 := rfl
@[simp] theorem Context.setBank_parked (c : Context) (j : Nat) (b : Bank) : (c.setBank j b).parked = c.parked := rfl
@[simp] theorem Context.setBank_stall (c : Context) (j : Nat) (b : Bank) : (c.setBank j b).stall = c.stall := rfl
@[simp] theorem Context.setBank_yielding (c : Context) (j : Nat) (b : Bank) : (c.setBank j b).yielding = c.yielding := rfl
@[simp] theorem Context.setBank_pheld (c : Context) (j : Nat) (b : Bank) : (c.setBank j b).pheld = c.pheld := rfl
@[simp] theorem Context.setBank_heldNow (c : Context) (j : Nat) (b : Bank) : (c.setBank j b).heldNow = c.heldNow := rfl
@[simp] theorem Context.setBank_heldLast (c : Context) (j : Nat) (b : Bank) : (c.setBank j b).heldLast = c.heldLast := rfl
@[simp] theorem Context.setBank_since (c : Context) (j : Nat) (b : Bank) : (c.setBank j b).since = c.since := rfl
@[simp] theorem Context.setBank_turnScalar (c : Context) (j : Nat) (b : Bank) : (c.setBank j b).turnScalar = c.turnScalar := rfl
@[simp] theorem Context.setBank_turnBank (c : Context) (j : Nat) (b : Bank) : (c.setBank j b).turnBank = c.turnBank := rfl
@[simp] theorem Context.setBank_num (c : Context) (j : Nat) (b : Bank) : (c.setBank j b).num = c.num := rfl
@[simp] theorem Context.setBank_placedAt (c : Context) (j : Nat) (b : Bank) : (c.setBank j b).placedAt = c.placedAt := rfl
@[simp] theorem Context.setBank_fencedAt (c : Context) (j : Nat) (b : Bank) : (c.setBank j b).fencedAt = c.fencedAt := rfl
@[simp] theorem Context.setBank_syncAt (c : Context) (j : Nat) (b : Bank) : (c.setBank j b).syncAt = c.syncAt := rfl
@[simp] theorem Context.setBank_constAt (c : Context) (j : Nat) (b : Bank) : (c.setBank j b).constAt = c.constAt := rfl
@[simp] theorem Context.setBank_dbk (c : Context) (j : Nat) (b : Bank) : (c.setBank j b).dbk = c.dbk := rfl
@[simp] theorem Context.setBank_trc (c : Context) (j : Nat) (b : Bank) : (c.setBank j b).trc = c.trc := rfl
@[simp] theorem Context.setBank_trcBuf (c : Context) (j : Nat) (b : Bank) : (c.setBank j b).trcBuf = c.trcBuf := rfl
@[simp] theorem Context.setBank_trcLen (c : Context) (j : Nat) (b : Bank) : (c.setBank j b).trcLen = c.trcLen := rfl
@[simp] theorem Context.setBank_haltReq (c : Context) (j : Nat) (b : Bank) : (c.setBank j b).haltReq = c.haltReq := rfl
@[simp] theorem Context.setBank_stepOnce (c : Context) (j : Nat) (b : Bank) : (c.setBank j b).stepOnce = c.stepOnce := rfl
@[simp] theorem Context.setBank_claims (c : Context) (j : Nat) (b : Bank) : (c.setBank j b).claims = c.claims := rfl
@[simp] theorem Context.setBank_leaving (c : Context) (j : Nat) (b : Bank) : (c.setBank j b).leaving = c.leaving := rfl
@[simp] theorem Context.setBank_bad (c : Context) (j : Nat) (b : Bank) : (c.setBank j b).bad = c.bad := rfl
@[simp] theorem Context.setBank_asking (c : Context) (j : Nat) (b : Bank) : (c.setBank j b).asking = c.asking := rfl
@[simp] theorem Context.setBank_detentWait (c : Context) (j : Nat) (b : Bank) : (c.setBank j b).detentWait = c.detentWait := rfl
@[simp] theorem Context.setBank_inv (c : Context) (j : Nat) (b : Bank) : (c.setBank j b).inv = c.inv := rfl
@[simp] theorem Context.orFlags_id (c : Context) (f : FpFlags) : (c.orFlags f).id = c.id := rfl
@[simp] theorem Context.orFlags_seq (c : Context) (f : FpFlags) : (c.orFlags f).seq = c.seq := rfl
@[simp] theorem Context.orFlags_l (c : Context) (f : FpFlags) : (c.orFlags f).l = c.l := rfl
@[simp] theorem Context.orFlags_owner (c : Context) (f : FpFlags) : (c.orFlags f).owner = c.owner := rfl
@[simp] theorem Context.orFlags_prio (c : Context) (f : FpFlags) : (c.orFlags f).prio = c.prio := rfl
@[simp] theorem Context.orFlags_energy (c : Context) (f : FpFlags) : (c.orFlags f).energy = c.energy := rfl
@[simp] theorem Context.orFlags_ord (c : Context) (f : FpFlags) : (c.orFlags f).ord = c.ord := rfl
@[simp] theorem Context.orFlags_keep (c : Context) (f : FpFlags) : (c.orFlags f).keep = c.keep := rfl
@[simp] theorem Context.orFlags_nslots (c : Context) (f : FpFlags) : (c.orFlags f).nslots = c.nslots := rfl
@[simp] theorem Context.orFlags_core (c : Context) (f : FpFlags) : (c.orFlags f).core = c.core := rfl
@[simp] theorem Context.orFlags_saveset (c : Context) (f : FpFlags) : (c.orFlags f).saveset = c.saveset := rfl
@[simp] theorem Context.orFlags_block (c : Context) (f : FpFlags) : (c.orFlags f).block = c.block := rfl
@[simp] theorem Context.orFlags_place (c : Context) (f : FpFlags) : (c.orFlags f).place = c.place := rfl
@[simp] theorem Context.orFlags_pc (c : Context) (f : FpFlags) : (c.orFlags f).pc = c.pc := rfl
@[simp] theorem Context.orFlags_scalars (c : Context) (f : FpFlags) : (c.orFlags f).scalars = c.scalars := rfl
@[simp] theorem Context.orFlags_rm (c : Context) (f : FpFlags) : (c.orFlags f).rm = c.rm := rfl
@[simp] theorem Context.orFlags_fz (c : Context) (f : FpFlags) : (c.orFlags f).fz = c.fz := rfl
@[simp] theorem Context.orFlags_lt (c : Context) (f : FpFlags) : (c.orFlags f).lt = c.lt := rfl
@[simp] theorem Context.orFlags_win (c : Context) (f : FpFlags) : (c.orFlags f).win = c.win := rfl
@[simp] theorem Context.orFlags_vcode (c : Context) (f : FpFlags) : (c.orFlags f).vcode = c.vcode := rfl
@[simp] theorem Context.orFlags_nrow (c : Context) (f : FpFlags) : (c.orFlags f).nrow = c.nrow := rfl
@[simp] theorem Context.orFlags_ncol (c : Context) (f : FpFlags) : (c.orFlags f).ncol = c.ncol := rfl
@[simp] theorem Context.orFlags_srem (c : Context) (f : FpFlags) : (c.orFlags f).srem = c.srem := rfl
@[simp] theorem Context.orFlags_smax (c : Context) (f : FpFlags) : (c.orFlags f).smax = c.smax := rfl
@[simp] theorem Context.orFlags_sord (c : Context) (f : FpFlags) : (c.orFlags f).sord = c.sord := rfl
@[simp] theorem Context.orFlags_sbeg (c : Context) (f : FpFlags) : (c.orFlags f).sbeg = c.sbeg := rfl
@[simp] theorem Context.orFlags_send (c : Context) (f : FpFlags) : (c.orFlags f).send = c.send := rfl
@[simp] theorem Context.orFlags_lc (c : Context) (f : FpFlags) : (c.orFlags f).lc = c.lc := rfl
@[simp] theorem Context.orFlags_lcPend (c : Context) (f : FpFlags) : (c.orFlags f).lcPend = c.lcPend := rfl
@[simp] theorem Context.orFlags_lcn (c : Context) (f : FpFlags) : (c.orFlags f).lcn = c.lcn := rfl
@[simp] theorem Context.orFlags_lbeg (c : Context) (f : FpFlags) : (c.orFlags f).lbeg = c.lbeg := rfl
@[simp] theorem Context.orFlags_lend (c : Context) (f : FpFlags) : (c.orFlags f).lend = c.lend := rfl
@[simp] theorem Context.orFlags_slip (c : Context) (f : FpFlags) : (c.orFlags f).slip = c.slip := rfl
@[simp] theorem Context.orFlags_gmBanks (c : Context) (f : FpFlags) : (c.orFlags f).gmBanks = c.gmBanks := rfl
@[simp] theorem Context.orFlags_gmBase (c : Context) (f : FpFlags) : (c.orFlags f).gmBase = c.gmBase := rfl
@[simp] theorem Context.orFlags_gmWlog (c : Context) (f : FpFlags) : (c.orFlags f).gmWlog = c.gmWlog := rfl
@[simp] theorem Context.orFlags_gmSub (c : Context) (f : FpFlags) : (c.orFlags f).gmSub = c.gmSub := rfl
@[simp] theorem Context.orFlags_rfth (c : Context) (f : FpFlags) : (c.orFlags f).rfth = c.rfth := rfl
@[simp] theorem Context.orFlags_fref (c : Context) (f : FpFlags) : (c.orFlags f).fref = c.fref := rfl
@[simp] theorem Context.orFlags_mrep (c : Context) (f : FpFlags) : (c.orFlags f).mrep = c.mrep := rfl
@[simp] theorem Context.orFlags_mprog (c : Context) (f : FpFlags) : (c.orFlags f).mprog = c.mprog := rfl
@[simp] theorem Context.orFlags_wid (c : Context) (f : FpFlags) : (c.orFlags f).wid = c.wid := rfl
@[simp] theorem Context.orFlags_sup (c : Context) (f : FpFlags) : (c.orFlags f).sup = c.sup := rfl
@[simp] theorem Context.orFlags_ad (c : Context) (f : FpFlags) : (c.orFlags f).ad = c.ad := rfl
@[simp] theorem Context.orFlags_tvec (c : Context) (f : FpFlags) : (c.orFlags f).tvec = c.tvec := rfl
@[simp] theorem Context.orFlags_tpc (c : Context) (f : FpFlags) : (c.orFlags f).tpc = c.tpc := rfl
@[simp] theorem Context.orFlags_tcause (c : Context) (f : FpFlags) : (c.orFlags f).tcause = c.tcause := rfl
@[simp] theorem Context.orFlags_tval (c : Context) (f : FpFlags) : (c.orFlags f).tval = c.tval := rfl
@[simp] theorem Context.orFlags_tstat (c : Context) (f : FpFlags) : (c.orFlags f).tstat = c.tstat := rfl
@[simp] theorem Context.orFlags_tscr (c : Context) (f : FpFlags) : (c.orFlags f).tscr = c.tscr := rfl
@[simp] theorem Context.orFlags_sib (c : Context) (f : FpFlags) : (c.orFlags f).sib = c.sib := rfl
@[simp] theorem Context.orFlags_sibHeld (c : Context) (f : FpFlags) : (c.orFlags f).sibHeld = c.sibHeld := rfl
@[simp] theorem Context.orFlags_turned (c : Context) (f : FpFlags) : (c.orFlags f).turned = c.turned := rfl
@[simp] theorem Context.orFlags_gbar (c : Context) (f : FpFlags) : (c.orFlags f).gbar = c.gbar := rfl
@[simp] theorem Context.orFlags_mg (c : Context) (f : FpFlags) : (c.orFlags f).mg = c.mg := rfl
@[simp] theorem Context.orFlags_mseq (c : Context) (f : FpFlags) : (c.orFlags f).mseq = c.mseq := rfl
@[simp] theorem Context.orFlags_staged (c : Context) (f : FpFlags) : (c.orFlags f).staged = c.staged := rfl
@[simp] theorem Context.orFlags_mmf (c : Context) (f : FpFlags) : (c.orFlags f).mmf = c.mmf := rfl
@[simp] theorem Context.orFlags_past (c : Context) (f : FpFlags) : (c.orFlags f).past = c.past := rfl
@[simp] theorem Context.orFlags_foldFault (c : Context) (f : FpFlags) : (c.orFlags f).foldFault = c.foldFault := rfl
@[simp] theorem Context.orFlags_doomQ (c : Context) (f : FpFlags) : (c.orFlags f).doomQ = c.doomQ := rfl
@[simp] theorem Context.orFlags_markTrap (c : Context) (f : FpFlags) : (c.orFlags f).markTrap = c.markTrap := rfl
@[simp] theorem Context.orFlags_owed (c : Context) (f : FpFlags) : (c.orFlags f).owed = c.owed := rfl
@[simp] theorem Context.orFlags_banks (c : Context) (f : FpFlags) : (c.orFlags f).banks = c.banks := rfl
@[simp] theorem Context.orFlags_pend10 (c : Context) (f : FpFlags) : (c.orFlags f).pend10 = c.pend10 := rfl
@[simp] theorem Context.orFlags_pend11 (c : Context) (f : FpFlags) : (c.orFlags f).pend11 = c.pend11 := rfl
@[simp] theorem Context.orFlags_pend30 (c : Context) (f : FpFlags) : (c.orFlags f).pend30 = c.pend30 := rfl
@[simp] theorem Context.orFlags_parked (c : Context) (f : FpFlags) : (c.orFlags f).parked = c.parked := rfl
@[simp] theorem Context.orFlags_stall (c : Context) (f : FpFlags) : (c.orFlags f).stall = c.stall := rfl
@[simp] theorem Context.orFlags_yielding (c : Context) (f : FpFlags) : (c.orFlags f).yielding = c.yielding := rfl
@[simp] theorem Context.orFlags_pheld (c : Context) (f : FpFlags) : (c.orFlags f).pheld = c.pheld := rfl
@[simp] theorem Context.orFlags_heldNow (c : Context) (f : FpFlags) : (c.orFlags f).heldNow = c.heldNow := rfl
@[simp] theorem Context.orFlags_heldLast (c : Context) (f : FpFlags) : (c.orFlags f).heldLast = c.heldLast := rfl
@[simp] theorem Context.orFlags_since (c : Context) (f : FpFlags) : (c.orFlags f).since = c.since := rfl
@[simp] theorem Context.orFlags_turnScalar (c : Context) (f : FpFlags) : (c.orFlags f).turnScalar = c.turnScalar := rfl
@[simp] theorem Context.orFlags_turnBank (c : Context) (f : FpFlags) : (c.orFlags f).turnBank = c.turnBank := rfl
@[simp] theorem Context.orFlags_num (c : Context) (f : FpFlags) : (c.orFlags f).num = c.num := rfl
@[simp] theorem Context.orFlags_placedAt (c : Context) (f : FpFlags) : (c.orFlags f).placedAt = c.placedAt := rfl
@[simp] theorem Context.orFlags_fencedAt (c : Context) (f : FpFlags) : (c.orFlags f).fencedAt = c.fencedAt := rfl
@[simp] theorem Context.orFlags_syncAt (c : Context) (f : FpFlags) : (c.orFlags f).syncAt = c.syncAt := rfl
@[simp] theorem Context.orFlags_constAt (c : Context) (f : FpFlags) : (c.orFlags f).constAt = c.constAt := rfl
@[simp] theorem Context.orFlags_dbk (c : Context) (f : FpFlags) : (c.orFlags f).dbk = c.dbk := rfl
@[simp] theorem Context.orFlags_trc (c : Context) (f : FpFlags) : (c.orFlags f).trc = c.trc := rfl
@[simp] theorem Context.orFlags_trcBuf (c : Context) (f : FpFlags) : (c.orFlags f).trcBuf = c.trcBuf := rfl
@[simp] theorem Context.orFlags_trcLen (c : Context) (f : FpFlags) : (c.orFlags f).trcLen = c.trcLen := rfl
@[simp] theorem Context.orFlags_haltReq (c : Context) (f : FpFlags) : (c.orFlags f).haltReq = c.haltReq := rfl
@[simp] theorem Context.orFlags_stepOnce (c : Context) (f : FpFlags) : (c.orFlags f).stepOnce = c.stepOnce := rfl
@[simp] theorem Context.orFlags_claims (c : Context) (f : FpFlags) : (c.orFlags f).claims = c.claims := rfl
@[simp] theorem Context.orFlags_leaving (c : Context) (f : FpFlags) : (c.orFlags f).leaving = c.leaving := rfl
@[simp] theorem Context.orFlags_bad (c : Context) (f : FpFlags) : (c.orFlags f).bad = c.bad := rfl
@[simp] theorem Context.orFlags_asking (c : Context) (f : FpFlags) : (c.orFlags f).asking = c.asking := rfl
@[simp] theorem Context.orFlags_detentWait (c : Context) (f : FpFlags) : (c.orFlags f).detentWait = c.detentWait := rfl
@[simp] theorem Context.orFlags_inv (c : Context) (f : FpFlags) : (c.orFlags f).inv = c.inv := rfl

/-! A scalar. -/

@[simp] theorem Context.write_id (c : Context) (n : NameF) (v : Word) : (c.write n v).id = c.id := by
  unfold Context.write; split <;> rfl
@[simp] theorem Context.write_seq (c : Context) (n : NameF) (v : Word) : (c.write n v).seq = c.seq := by
  unfold Context.write; split <;> rfl
@[simp] theorem Context.write_l (c : Context) (n : NameF) (v : Word) : (c.write n v).l = c.l := by
  unfold Context.write; split <;> rfl
@[simp] theorem Context.write_owner (c : Context) (n : NameF) (v : Word) : (c.write n v).owner = c.owner := by
  unfold Context.write; split <;> rfl
@[simp] theorem Context.write_prio (c : Context) (n : NameF) (v : Word) : (c.write n v).prio = c.prio := by
  unfold Context.write; split <;> rfl
@[simp] theorem Context.write_energy (c : Context) (n : NameF) (v : Word) : (c.write n v).energy = c.energy := by
  unfold Context.write; split <;> rfl
@[simp] theorem Context.write_ord (c : Context) (n : NameF) (v : Word) : (c.write n v).ord = c.ord := by
  unfold Context.write; split <;> rfl
@[simp] theorem Context.write_keep (c : Context) (n : NameF) (v : Word) : (c.write n v).keep = c.keep := by
  unfold Context.write; split <;> rfl
@[simp] theorem Context.write_nslots (c : Context) (n : NameF) (v : Word) : (c.write n v).nslots = c.nslots := by
  unfold Context.write; split <;> rfl
@[simp] theorem Context.write_core (c : Context) (n : NameF) (v : Word) : (c.write n v).core = c.core := by
  unfold Context.write; split <;> rfl
@[simp] theorem Context.write_saveset (c : Context) (n : NameF) (v : Word) : (c.write n v).saveset = c.saveset := by
  unfold Context.write; split <;> rfl
@[simp] theorem Context.write_block (c : Context) (n : NameF) (v : Word) : (c.write n v).block = c.block := by
  unfold Context.write; split <;> rfl
@[simp] theorem Context.write_place (c : Context) (n : NameF) (v : Word) : (c.write n v).place = c.place := by
  unfold Context.write; split <;> rfl
@[simp] theorem Context.write_pc (c : Context) (n : NameF) (v : Word) : (c.write n v).pc = c.pc := by
  unfold Context.write; split <;> rfl
@[simp] theorem Context.write_rm (c : Context) (n : NameF) (v : Word) : (c.write n v).rm = c.rm := by
  unfold Context.write; split <;> rfl
@[simp] theorem Context.write_fz (c : Context) (n : NameF) (v : Word) : (c.write n v).fz = c.fz := by
  unfold Context.write; split <;> rfl
@[simp] theorem Context.write_lt (c : Context) (n : NameF) (v : Word) : (c.write n v).lt = c.lt := by
  unfold Context.write; split <;> rfl
@[simp] theorem Context.write_fpsr (c : Context) (n : NameF) (v : Word) : (c.write n v).fpsr = c.fpsr := by
  unfold Context.write; split <;> rfl
@[simp] theorem Context.write_win (c : Context) (n : NameF) (v : Word) : (c.write n v).win = c.win := by
  unfold Context.write; split <;> rfl
@[simp] theorem Context.write_vcode (c : Context) (n : NameF) (v : Word) : (c.write n v).vcode = c.vcode := by
  unfold Context.write; split <;> rfl
@[simp] theorem Context.write_nrow (c : Context) (n : NameF) (v : Word) : (c.write n v).nrow = c.nrow := by
  unfold Context.write; split <;> rfl
@[simp] theorem Context.write_ncol (c : Context) (n : NameF) (v : Word) : (c.write n v).ncol = c.ncol := by
  unfold Context.write; split <;> rfl
@[simp] theorem Context.write_srem (c : Context) (n : NameF) (v : Word) : (c.write n v).srem = c.srem := by
  unfold Context.write; split <;> rfl
@[simp] theorem Context.write_smax (c : Context) (n : NameF) (v : Word) : (c.write n v).smax = c.smax := by
  unfold Context.write; split <;> rfl
@[simp] theorem Context.write_sord (c : Context) (n : NameF) (v : Word) : (c.write n v).sord = c.sord := by
  unfold Context.write; split <;> rfl
@[simp] theorem Context.write_sbeg (c : Context) (n : NameF) (v : Word) : (c.write n v).sbeg = c.sbeg := by
  unfold Context.write; split <;> rfl
@[simp] theorem Context.write_send (c : Context) (n : NameF) (v : Word) : (c.write n v).send = c.send := by
  unfold Context.write; split <;> rfl
@[simp] theorem Context.write_lc (c : Context) (n : NameF) (v : Word) : (c.write n v).lc = c.lc := by
  unfold Context.write; split <;> rfl
@[simp] theorem Context.write_lcPend (c : Context) (n : NameF) (v : Word) : (c.write n v).lcPend = c.lcPend := by
  unfold Context.write; split <;> rfl
@[simp] theorem Context.write_lcn (c : Context) (n : NameF) (v : Word) : (c.write n v).lcn = c.lcn := by
  unfold Context.write; split <;> rfl
@[simp] theorem Context.write_lbeg (c : Context) (n : NameF) (v : Word) : (c.write n v).lbeg = c.lbeg := by
  unfold Context.write; split <;> rfl
@[simp] theorem Context.write_lend (c : Context) (n : NameF) (v : Word) : (c.write n v).lend = c.lend := by
  unfold Context.write; split <;> rfl
@[simp] theorem Context.write_slip (c : Context) (n : NameF) (v : Word) : (c.write n v).slip = c.slip := by
  unfold Context.write; split <;> rfl
@[simp] theorem Context.write_gmBanks (c : Context) (n : NameF) (v : Word) : (c.write n v).gmBanks = c.gmBanks := by
  unfold Context.write; split <;> rfl
@[simp] theorem Context.write_gmBase (c : Context) (n : NameF) (v : Word) : (c.write n v).gmBase = c.gmBase := by
  unfold Context.write; split <;> rfl
@[simp] theorem Context.write_gmWlog (c : Context) (n : NameF) (v : Word) : (c.write n v).gmWlog = c.gmWlog := by
  unfold Context.write; split <;> rfl
@[simp] theorem Context.write_gmSub (c : Context) (n : NameF) (v : Word) : (c.write n v).gmSub = c.gmSub := by
  unfold Context.write; split <;> rfl
@[simp] theorem Context.write_rfth (c : Context) (n : NameF) (v : Word) : (c.write n v).rfth = c.rfth := by
  unfold Context.write; split <;> rfl
@[simp] theorem Context.write_fref (c : Context) (n : NameF) (v : Word) : (c.write n v).fref = c.fref := by
  unfold Context.write; split <;> rfl
@[simp] theorem Context.write_mrep (c : Context) (n : NameF) (v : Word) : (c.write n v).mrep = c.mrep := by
  unfold Context.write; split <;> rfl
@[simp] theorem Context.write_mprog (c : Context) (n : NameF) (v : Word) : (c.write n v).mprog = c.mprog := by
  unfold Context.write; split <;> rfl
@[simp] theorem Context.write_wid (c : Context) (n : NameF) (v : Word) : (c.write n v).wid = c.wid := by
  unfold Context.write; split <;> rfl
@[simp] theorem Context.write_sup (c : Context) (n : NameF) (v : Word) : (c.write n v).sup = c.sup := by
  unfold Context.write; split <;> rfl
@[simp] theorem Context.write_ad (c : Context) (n : NameF) (v : Word) : (c.write n v).ad = c.ad := by
  unfold Context.write; split <;> rfl
@[simp] theorem Context.write_tvec (c : Context) (n : NameF) (v : Word) : (c.write n v).tvec = c.tvec := by
  unfold Context.write; split <;> rfl
@[simp] theorem Context.write_tpc (c : Context) (n : NameF) (v : Word) : (c.write n v).tpc = c.tpc := by
  unfold Context.write; split <;> rfl
@[simp] theorem Context.write_tcause (c : Context) (n : NameF) (v : Word) : (c.write n v).tcause = c.tcause := by
  unfold Context.write; split <;> rfl
@[simp] theorem Context.write_tval (c : Context) (n : NameF) (v : Word) : (c.write n v).tval = c.tval := by
  unfold Context.write; split <;> rfl
@[simp] theorem Context.write_tstat (c : Context) (n : NameF) (v : Word) : (c.write n v).tstat = c.tstat := by
  unfold Context.write; split <;> rfl
@[simp] theorem Context.write_tscr (c : Context) (n : NameF) (v : Word) : (c.write n v).tscr = c.tscr := by
  unfold Context.write; split <;> rfl
@[simp] theorem Context.write_sib (c : Context) (n : NameF) (v : Word) : (c.write n v).sib = c.sib := by
  unfold Context.write; split <;> rfl
@[simp] theorem Context.write_sibHeld (c : Context) (n : NameF) (v : Word) : (c.write n v).sibHeld = c.sibHeld := by
  unfold Context.write; split <;> rfl
@[simp] theorem Context.write_turned (c : Context) (n : NameF) (v : Word) : (c.write n v).turned = c.turned := by
  unfold Context.write; split <;> rfl
@[simp] theorem Context.write_gbar (c : Context) (n : NameF) (v : Word) : (c.write n v).gbar = c.gbar := by
  unfold Context.write; split <;> rfl
@[simp] theorem Context.write_mg (c : Context) (n : NameF) (v : Word) : (c.write n v).mg = c.mg := by
  unfold Context.write; split <;> rfl
@[simp] theorem Context.write_mseq (c : Context) (n : NameF) (v : Word) : (c.write n v).mseq = c.mseq := by
  unfold Context.write; split <;> rfl
@[simp] theorem Context.write_staged (c : Context) (n : NameF) (v : Word) : (c.write n v).staged = c.staged := by
  unfold Context.write; split <;> rfl
@[simp] theorem Context.write_mmf (c : Context) (n : NameF) (v : Word) : (c.write n v).mmf = c.mmf := by
  unfold Context.write; split <;> rfl
@[simp] theorem Context.write_past (c : Context) (n : NameF) (v : Word) : (c.write n v).past = c.past := by
  unfold Context.write; split <;> rfl
@[simp] theorem Context.write_foldFault (c : Context) (n : NameF) (v : Word) : (c.write n v).foldFault = c.foldFault := by
  unfold Context.write; split <;> rfl
@[simp] theorem Context.write_doomQ (c : Context) (n : NameF) (v : Word) : (c.write n v).doomQ = c.doomQ := by
  unfold Context.write; split <;> rfl
@[simp] theorem Context.write_markTrap (c : Context) (n : NameF) (v : Word) : (c.write n v).markTrap = c.markTrap := by
  unfold Context.write; split <;> rfl
@[simp] theorem Context.write_owed (c : Context) (n : NameF) (v : Word) : (c.write n v).owed = c.owed := by
  unfold Context.write; split <;> rfl
@[simp] theorem Context.write_banks (c : Context) (n : NameF) (v : Word) : (c.write n v).banks = c.banks := by
  unfold Context.write; split <;> rfl
@[simp] theorem Context.write_pend10 (c : Context) (n : NameF) (v : Word) : (c.write n v).pend10 = c.pend10 := by
  unfold Context.write; split <;> rfl
@[simp] theorem Context.write_pend11 (c : Context) (n : NameF) (v : Word) : (c.write n v).pend11 = c.pend11 := by
  unfold Context.write; split <;> rfl
@[simp] theorem Context.write_pend30 (c : Context) (n : NameF) (v : Word) : (c.write n v).pend30 = c.pend30 := by
  unfold Context.write; split <;> rfl
@[simp] theorem Context.write_parked (c : Context) (n : NameF) (v : Word) : (c.write n v).parked = c.parked := by
  unfold Context.write; split <;> rfl
@[simp] theorem Context.write_stall (c : Context) (n : NameF) (v : Word) : (c.write n v).stall = c.stall := by
  unfold Context.write; split <;> rfl
@[simp] theorem Context.write_yielding (c : Context) (n : NameF) (v : Word) : (c.write n v).yielding = c.yielding := by
  unfold Context.write; split <;> rfl
@[simp] theorem Context.write_pheld (c : Context) (n : NameF) (v : Word) : (c.write n v).pheld = c.pheld := by
  unfold Context.write; split <;> rfl
@[simp] theorem Context.write_heldNow (c : Context) (n : NameF) (v : Word) : (c.write n v).heldNow = c.heldNow := by
  unfold Context.write; split <;> rfl
@[simp] theorem Context.write_heldLast (c : Context) (n : NameF) (v : Word) : (c.write n v).heldLast = c.heldLast := by
  unfold Context.write; split <;> rfl
@[simp] theorem Context.write_since (c : Context) (n : NameF) (v : Word) : (c.write n v).since = c.since := by
  unfold Context.write; split <;> rfl
@[simp] theorem Context.write_turnScalar (c : Context) (n : NameF) (v : Word) : (c.write n v).turnScalar = c.turnScalar := by
  unfold Context.write; split <;> rfl
@[simp] theorem Context.write_turnBank (c : Context) (n : NameF) (v : Word) : (c.write n v).turnBank = c.turnBank := by
  unfold Context.write; split <;> rfl
@[simp] theorem Context.write_num (c : Context) (n : NameF) (v : Word) : (c.write n v).num = c.num := by
  unfold Context.write; split <;> rfl
@[simp] theorem Context.write_placedAt (c : Context) (n : NameF) (v : Word) : (c.write n v).placedAt = c.placedAt := by
  unfold Context.write; split <;> rfl
@[simp] theorem Context.write_fencedAt (c : Context) (n : NameF) (v : Word) : (c.write n v).fencedAt = c.fencedAt := by
  unfold Context.write; split <;> rfl
@[simp] theorem Context.write_syncAt (c : Context) (n : NameF) (v : Word) : (c.write n v).syncAt = c.syncAt := by
  unfold Context.write; split <;> rfl
@[simp] theorem Context.write_constAt (c : Context) (n : NameF) (v : Word) : (c.write n v).constAt = c.constAt := by
  unfold Context.write; split <;> rfl
@[simp] theorem Context.write_dbk (c : Context) (n : NameF) (v : Word) : (c.write n v).dbk = c.dbk := by
  unfold Context.write; split <;> rfl
@[simp] theorem Context.write_trc (c : Context) (n : NameF) (v : Word) : (c.write n v).trc = c.trc := by
  unfold Context.write; split <;> rfl
@[simp] theorem Context.write_trcBuf (c : Context) (n : NameF) (v : Word) : (c.write n v).trcBuf = c.trcBuf := by
  unfold Context.write; split <;> rfl
@[simp] theorem Context.write_trcLen (c : Context) (n : NameF) (v : Word) : (c.write n v).trcLen = c.trcLen := by
  unfold Context.write; split <;> rfl
@[simp] theorem Context.write_haltReq (c : Context) (n : NameF) (v : Word) : (c.write n v).haltReq = c.haltReq := by
  unfold Context.write; split <;> rfl
@[simp] theorem Context.write_stepOnce (c : Context) (n : NameF) (v : Word) : (c.write n v).stepOnce = c.stepOnce := by
  unfold Context.write; split <;> rfl
@[simp] theorem Context.write_claims (c : Context) (n : NameF) (v : Word) : (c.write n v).claims = c.claims := by
  unfold Context.write; split <;> rfl
@[simp] theorem Context.write_leaving (c : Context) (n : NameF) (v : Word) : (c.write n v).leaving = c.leaving := by
  unfold Context.write; split <;> rfl
@[simp] theorem Context.write_asking (c : Context) (n : NameF) (v : Word) : (c.write n v).asking = c.asking := by
  unfold Context.write; split <;> rfl
@[simp] theorem Context.write_detentWait (c : Context) (n : NameF) (v : Word) : (c.write n v).detentWait = c.detentWait := by
  unfold Context.write; split <;> rfl
@[simp] theorem Context.write_inv (c : Context) (n : NameF) (v : Word) : (c.write n v).inv = c.inv := by
  unfold Context.write; split <;> rfl

end Sys2Proof.Machine
end

