-- ==== Sys2Proof/Laws/Tab.lean ====
section
/-! SUPPORT. Tables: what is read after a set, and that the canonical form is kept. -/

namespace Sys2Proof.Machine

theorem tabFind_filter {α : Type} (t : Tab α) (p : Nat × α → Bool) (x : Nat) (h : ∀ v, p (x, v) = true) :
    tabFind (t.filter p) x = tabFind t x := by
  induction t with
  | nil => rfl
  | cons e t ih =>
    obtain ⟨k, v⟩ := e
    rw [List.filter_cons]
    by_cases hk : k = x
    · subst hk; simp [h, tabFind]
    · split <;> simp [tabFind, hk, ih]

theorem tabFind_filter_none {α : Type} (t : Tab α) (p : Nat × α → Bool) (x : Nat) (h : ∀ v, p (x, v) = false) :
    tabFind (t.filter p) x = none := by
  induction t with
  | nil => rfl
  | cons e t ih =>
    obtain ⟨k, v⟩ := e
    rw [List.filter_cons]
    by_cases hk : k = x
    · subst hk; simp [h, ih]
    · split <;> simp [tabFind, hk, ih]

theorem tabFind_append {α : Type} (s t : Tab α) (x : Nat) : tabFind (s ++ t) x = (tabFind s x).or (tabFind t x) := by
  induction s with
  | nil => simp [tabFind]
  | cons e s ih =>
    obtain ⟨k, v⟩ := e
    by_cases hk : k = x <;> simp [tabFind, hk, ih]

/-- An erased key is not listed; every other key is as before. -/
theorem tabFind_tabErase {α : Type} (t : Tab α) (x y : Nat) : tabFind (tabErase t x) y = if y = x then none else tabFind t y := by
  unfold tabErase
  split
  · subst y; exact tabFind_filter_none _ _ _ (by simp)
  · exact tabFind_filter _ _ _ (fun _ => by simpa using ‹y ≠ x›)

/-- A put key holds its value; every other key is as before. -/
theorem tabFind_tabPut {α : Type} (t : Tab α) (x y : Nat) (v : α) :
    tabFind (tabPut t x v) y = if y = x then some v else tabFind t y := by
  unfold tabPut
  rw [tabFind_append]
  by_cases h : y = x
  · subst y
    rw [tabFind_filter_none _ _ _ (by simp)]; simp [tabFind]
  · rw [if_neg h]
    simp only [tabFind, if_neg (Ne.symm h)]
    by_cases hl : y < x
    · rw [tabFind_filter _ _ _ (fun _ => by simpa using hl), tabFind_filter_none _ _ _ (by simp; omega)]; simp
    · rw [tabFind_filter_none _ _ _ (by simp; omega), tabFind_filter _ _ _ (fun _ => by simp; omega)]; simp

@[simp] theorem tabGet_tabErase {α : Type} (d : α) (t : Tab α) (x y : Nat) :
    tabGet d (tabErase t x) y = if y = x then d else tabGet d t y := by
  simp only [tabGet, tabFind_tabErase]; split <;> simp

@[simp] theorem tabGet_tabPut {α : Type} (d : α) (t : Tab α) (x y : Nat) (v : α) :
    tabGet d (tabPut t x v) y = if y = x then v else tabGet d t y := by
  simp only [tabGet, tabFind_tabPut]; split <;> simp

/-- A set key reads as its value; every other key reads as before. -/
@[simp] theorem tabGet_tabSet {α : Type} [DecidableEq α] (d : α) (t : Tab α) (x y : Nat) (v : α) :
    tabGet d (tabSet d t x v) y = if y = x then v else tabGet d t y := by
  unfold tabSet
  split
  · subst v; simp
  · simp

theorem tabGet_of_forall {α : Type} (P : α → Prop) (d : α) (hd : P d) :
    ∀ (t : Tab α) (x : Nat), (∀ e ∈ t, P e.2) → P (tabGet d t x)
  | [], _, _ => hd
  | (k, v) :: t, x, h => by
    by_cases e : k = x
    · simpa [tabGet, tabFind, e] using h (k, v) (.head _)
    · simpa [tabGet, tabFind, e] using tabGet_of_forall P d hd t x fun y hy => h y (.tail _ hy)
theorem tabGet_nil {α : Type} (d : α) (x : Nat) : tabGet d ([] : Tab α) x = d := rfl

/-! The canonical form. -/

/-- Every key of a table is at least b. -/
def tabFrom {α : Type} (b : Nat) (t : Tab α) : Prop := ∀ e ∈ t, b ≤ e.1

theorem tabSorted_cons {α : Type} (e : Nat × α) (t : Tab α) :
    tabSorted (e :: t) = true ↔ tabFrom (e.1 + 1) t ∧ tabSorted t = true := by
  induction t generalizing e with
  | nil => simp [tabSorted, tabFrom]
  | cons f t ih =>
    simp only [tabSorted, Bool.and_eq_true, decide_eq_true_eq]
    rw [ih f]
    constructor
    · rintro ⟨h1, h2, h3⟩
      refine ⟨?_, h2, h3⟩
      intro x hx
      rcases List.mem_cons.1 hx with rfl | hx
      · omega
      · have := h2 x hx; omega
    · rintro ⟨h1, h2, h3⟩
      exact ⟨h1 f (by simp), h2, h3⟩

theorem tabSorted_filter {α : Type} (t : Tab α) (p : Nat × α → Bool) (h : tabSorted t = true) : tabSorted (t.filter p) = true := by
  induction t with
  | nil => rfl
  | cons e t ih =>
    rw [tabSorted_cons] at h
    rw [List.filter_cons]
    split
    · rw [tabSorted_cons]
      exact ⟨fun x hx => h.1 x (List.mem_filter.1 hx).1, ih h.2⟩
    · exact ih h.2

theorem tabSorted_append {α : Type} (s t : Tab α) (b : Nat) (hs : tabSorted s = true) (ht : tabSorted t = true)
    (h1 : ∀ e ∈ s, e.1 < b) (h2 : tabFrom b t) : tabSorted (s ++ t) = true := by
  induction s with
  | nil => exact ht
  | cons e s ih =>
    rw [tabSorted_cons] at hs
    rw [List.cons_append, tabSorted_cons]
    refine ⟨?_, ih hs.2 (fun x hx => h1 x (by simp [hx]))⟩
    intro x hx
    rcases List.mem_append.1 hx with hx | hx
    · exact hs.1 x hx
    · have := h1 e (by simp); have := h2 x hx; omega

theorem tabWf_filter {α : Type} [DecidableEq α] (d : α) (t : Tab α) (p : Nat × α → Bool) (h : tabWf d t = true) :
    tabWf d (t.filter p) = true := by
  simp only [tabWf, Bool.and_eq_true, List.all_eq_true] at h ⊢
  exact ⟨tabSorted_filter _ _ h.1, fun x hx => h.2 x (List.mem_filter.1 hx).1⟩

/-- Erasing a key keeps the canonical form. -/
theorem tabWf_tabErase {α : Type} [DecidableEq α] (d : α) (t : Tab α) (x : Nat) (h : tabWf d t = true) :
    tabWf d (tabErase t x) = true := tabWf_filter _ _ _ h

/-- Setting a key keeps the canonical form. -/
theorem tabWf_tabSet {α : Type} [DecidableEq α] (d : α) (t : Tab α) (x : Nat) (v : α) (h : tabWf d t = true) :
    tabWf d (tabSet d t x v) = true := by
  unfold tabSet
  split
  · exact tabWf_tabErase _ _ _ h
  · simp only [tabWf, Bool.and_eq_true, List.all_eq_true] at h ⊢
    refine ⟨tabSorted_append _ _ x (tabSorted_filter _ _ h.1) ?_ (by simp) ?_, ?_⟩
    · rw [tabSorted_cons]
      refine ⟨fun e he => ?_, tabSorted_filter _ _ h.1⟩
      have := (List.mem_filter.1 he).2
      simp at this; omega
    · intro e he
      rcases List.mem_cons.1 he with rfl | he
      · exact Nat.le_refl _
      · have := (List.mem_filter.1 he).2
        simp at this; omega
    · intro e he
      rcases List.mem_append.1 he with he | he
      · exact h.2 e (List.mem_filter.1 he).1
      · rcases List.mem_cons.1 he with rfl | he
        · simpa using ‹v ≠ d›
        · exact h.2 e (List.mem_filter.1 he).1

/-- Two canonical tables that read alike are equal. -/
theorem tab_ext {α : Type} [DecidableEq α] (d : α) (s t : Tab α) (hs : tabWf d s = true) (ht : tabWf d t = true)
    (h : ∀ x, tabGet d s x = tabGet d t x) : s = t := by
  have low : ∀ (u : Tab α) (b x : Nat), tabFrom b u → x < b → tabFind u x = none := by
    intro u b x hu hx
    induction u with
    | nil => rfl
    | cons e u ih =>
      have he : b ≤ e.1 := hu e (by simp)
      obtain ⟨k, v⟩ := e
      have hk : k ≠ x := by simp at he; omega
      simp only [tabFind, if_neg hk]
      exact ih fun z hz => hu z (by simp [hz])
  induction s generalizing t with
  | nil =>
    cases t with
    | nil => rfl
    | cons f t =>
      exfalso
      have hf := h f.1
      simp only [tabWf, Bool.and_eq_true, List.all_eq_true] at ht
      have := ht.2 f (by simp)
      obtain ⟨k, v⟩ := f
      simp [tabGet, tabFind] at hf this
      exact this hf.symm
  | cons e s ih =>
    simp only [tabWf, Bool.and_eq_true, List.all_eq_true] at hs ht
    have hs1 := (tabSorted_cons _ _).1 hs.1
    cases t with
    | nil =>
      exfalso
      have he := h e.1
      have := hs.2 e (by simp)
      obtain ⟨k, v⟩ := e
      simp [tabGet, tabFind] at he this
      exact this he
    | cons f t =>
      have ht1 := (tabSorted_cons _ _).1 ht.1
      obtain ⟨k, v⟩ := e
      obtain ⟨m, w⟩ := f
      have hv : v ≠ d := by simpa using hs.2 (k, v) (by simp)
      have hw : w ≠ d := by simpa using ht.2 (m, w) (by simp)
      have hkm : k = m := by
        rcases Nat.lt_trichotomy k m with hlt | heq | hgt
        · exfalso
          have := h k
          simp only [tabGet, tabFind, if_neg (show ¬m = k by omega), if_true] at this
          rw [low t (m + 1) k ht1.1 (by omega)] at this
          exact hv this
        · exact heq
        · exfalso
          have := h m
          simp only [tabGet, tabFind, if_neg (show ¬k = m by omega), if_true] at this
          rw [low s (k + 1) m hs1.1 (by omega)] at this
          exact hw this.symm
      subst hkm
      have hvw : v = w := by simpa [tabGet, tabFind] using h k
      subst hvw
      congr 1
      refine ih t ?_ ?_ ?_
      · simp only [tabWf, Bool.and_eq_true, List.all_eq_true]
        exact ⟨hs1.2, fun x hx => hs.2 x (by simp [hx])⟩
      · simp only [tabWf, Bool.and_eq_true, List.all_eq_true]
        exact ⟨ht1.2, fun x hx => ht.2 x (by simp [hx])⟩
      · intro x
        by_cases hx : x = k
        · subst hx
          simp only [tabGet]
          rw [low s (x + 1) x hs1.1 (by omega), low t (x + 1) x ht1.1 (by omega)]
        · have := h x
          simpa [tabGet, tabFind, Ne.symm hx] using this

end Sys2Proof.Machine
end

