-- ==== Sys2Proof/Laws/Issue.lean ====
section
/-! SUPPORT. The checks an instruction passes at its issue, and what the shared shapes of instructions lead to when they do. -/

namespace Sys2Proof.Machine

/-! Stops. -/

@[simp] theorem require_true (k : Nat) (v : Word) : require true k v = .ok () := rfl
@[simp] theorem require_false (k : Nat) (v : Word) : require false k v = .error (.trap k v none) := rfl
@[simp] theorem waitUnless_true : waitUnless true = .ok () := rfl
@[simp] theorem waitUnless_false : waitUnless false = .error .wait := rfl
@[simp] theorem except_ok_bind {ε α β : Type} (a : α) (f : α → Except ε β) : (Except.ok a >>= f) = f a := rfl
@[simp] theorem except_error_bind {ε α β : Type} (e : ε) (f : α → Except ε β) : (Except.error e >>= f) = .error e := rfl
@[simp] theorem except_pure {ε α : Type} (a : α) : (pure a : Except ε α) = .ok a := rfl

@[simp] theorem Context.loopError_none (c : Context) (h : c.atLoopEnd = false) : c.loopError = none := by
  simp only [Context.atLoopEnd, Bool.or_eq_false_iff] at h
  simp [Context.loopError, Context.loopCtl, h.1, h.2]

/-- An effect stands where no loop register in error is met at the iteration boundary (R369). -/
theorem State.finish_ok (s t : State) (h : s.ctx.loopError = none) : s.finish (.ok t) = .next t := by
  simp [State.finish, h]

/-- At a loop's end an effect stands, unless a loop register in error traps it (R369). -/
theorem State.finish_ok_cases (s t u : State) (h : s.finish (.ok t) = .next u) : u = t ∨ ∃ v, u = s.takeTrap 0x0D v none := by
  simp only [State.finish] at h
  split at h
  · injection h with h; exact .inl h.symm
  · split at h <;> injection h with h
    · exact .inl h.symm
    · exact .inr ⟨_, h.symm⟩

@[simp] theorem State.finish_trap (s : State) (k : Nat) (v : Word) (b : Option Nat) :
    s.finish (.error (.trap k v b)) = .next (s.takeTrap k v b) := rfl
@[simp] theorem State.finish_wait (s : State) : s.finish (.error .wait) = .next s.hold := rfl

/-- Every instruction that ends in finish answers a next state. -/
theorem State.finish_next (s : State) (r : Except Stop State) : ∃ t, s.finish r = .next t := by
  rcases r with (_ | _) | t
  · exact ⟨_, rfl⟩
  · exact ⟨_, rfl⟩
  · simp only [State.finish]
    split
    · exact ⟨_, rfl⟩
    · split <;> exact ⟨_, rfl⟩

/-! Names. -/

theorem accepts_clsS (c : Context) (n : NameF) (h : isSz n) : c.accepts clsS n = true := by
  have := n.isLt
  unfold Context.accepts nameClass clsS
  rcases h with h | h
  · simp [h]
  · rw [if_neg (by omega), if_neg (by omega), if_neg (by omega), if_neg (by omega), if_neg (by omega)]; rfl

theorem accepts_clsS1 (c : Context) (n : NameF) (h : isSName n) : c.accepts clsS1 n = true := by
  unfold isSName at h
  unfold Context.accepts nameClass clsS1
  rw [if_neg (by omega), if_neg (by omega), if_neg (by omega), if_neg (by omega), if_neg (by omega)]; rfl

theorem accepts_clsP (c : Context) (n : NameF) (h : isPName n) : c.accepts clsP n = true := by
  unfold isPName at h
  unfold Context.accepts nameClass clsP
  rw [if_neg (by omega), if_neg (by omega), if_pos (by omega)]; rfl

theorem accepts_clsK (c : Context) (n : NameF) (h : isKName n) : c.accepts clsK n = true := by
  unfold isKName at h
  unfold Context.accepts nameClass clsK
  rw [if_neg (by omega), if_pos (by omega)]; rfl

theorem accepts_clsRow (c : Context) (n : NameF) (h : n.toNat < 8) (hc : c.isVName n) : c.accepts clsRow n = true := by
  unfold Context.isVName at hc
  unfold Context.accepts nameClass clsRow
  simp [h, hc]

/-- A name that is neither scalar nor z is refused where a scalar stands. -/
theorem accepts_clsS_false (c : Context) (n : NameF) (h : ¬isSz n) : c.accepts clsS n = false := by
  unfold isSz at h
  unfold Context.accepts nameClass clsS
  dsimp only
  split
  · simp
  · split
    · simp
    · split
      · simp
      · rw [if_neg (by omega), if_pos (by omega)]; rfl

theorem nameClass_s (n : NameF) : (nameClass n = .s) ↔ isSName n := by
  unfold nameClass isSName
  constructor
  · intro h
    dsimp only at h
    split at h
    · cases h
    · split at h
      · cases h
      · split at h
        · cases h
        · split at h
          · cases h
          · split at h
            · cases h
            · omega
  · intro h; rw [if_neg (by omega), if_neg (by omega), if_neg (by omega), if_neg (by omega), if_neg (by omega)]

/-- Accepted names pass. -/
theorem checkNames_ok (c : Context) (names : List (List NameClass × NameF)) (h : c.acceptsAll names) : c.checkNames names = .ok () := by
  induction names with
  | nil => rfl
  | cons p t ih =>
    obtain ⟨cls, n⟩ := p
    have h1 : c.accepts cls n = true := h (cls, n) (by simp)
    simp only [Context.checkNames, h1, if_true]
    exact ih fun q hq => h q (by simp [hq])

/-- The first name refused traps with 0x02. -/
theorem checkNames_trap (c : Context) (cls : List NameClass) (n : NameF) (t : List (List NameClass × NameF)) (h : c.accepts cls n = false) :
    c.checkNames ((cls, n) :: t) = .error (.trap 0x02 (n.setWidth 64) none) := by
  simp [Context.checkNames, h, trapS]

theorem checkNames_cons (c : Context) (cls : List NameClass) (n : NameF) (t : List (List NameClass × NameF)) (h : c.accepts cls n = true) :
    c.checkNames ((cls, n) :: t) = c.checkNames t := by
  simp [Context.checkNames, h]

/-- Operands without a soft error read. -/
theorem sound_ok (c : Context) (names : List NameF) (ctl : List Nat) (dst : List NameF) (h : c.intact names ctl dst) :
    c.sound names ctl dst = .ok () := by
  unfold Context.sound
  split
  · rfl
  · have h1 : (names.find? fun n => decide (nameClass n = .s) && tabGet false c.bad (c.physical n)) = none := by
      rw [List.find?_eq_none]
      intro n hn
      by_cases hs : nameClass n = .s
      · simp [hs, h.1 n hn ((nameClass_s n).1 hs)]
      · simp [hs]
    have h2 : (ctl.find? fun i => tabGet false c.bad (256 + i)) = none := by
      rw [List.find?_eq_none]
      intro i hi
      simp [h.2.1 i hi]
    have h3 : ((names ++ dst).any (fun n => decide (nameClass n = .s)) && tabGet false c.bad (256 + 0x02)) = false := by
      cases hs : (names ++ dst).any fun n => decide (nameClass n = .s) with
      | false => rfl
      | true =>
        obtain ⟨n, hn, hc⟩ := List.any_eq_true.1 hs
        exact h.2.2.1 ⟨n, hn, (nameClass_s n).1 (of_decide_eq_true hc)⟩
    rw [h1, h2, if_neg (by rw [h3]; decide)]

/-- A soft error traps with 0x0D (R369). -/
theorem sound_cases (c : Context) (names : List NameF) (ctl : List Nat) (dst : List NameF) :
    c.sound names ctl dst = .ok () ∨ ∃ v, c.sound names ctl dst = .error (.trap 0x0D v none) := by
  unfold Context.sound
  split
  · exact .inl rfl
  · split
    · exact .inr ⟨_, rfl⟩
    · split
      · exact .inr ⟨_, rfl⟩
      · split
        · exact .inr ⟨_, rfl⟩
        · exact .inl rfl

/-! Scalar instructions. -/

/-- A scalar instruction whose names are accepted and whose operands are intact completes with its effect (R97). -/
theorem scalarOp_next (s : State) (names : List (List NameClass × NameF)) (reads : List NameF) (ctl : List Nat) (f : Context → Context)
    (hn : s.ctx.acceptsAll names) (hi : s.ctx.intact reads ctl (names.map Prod.snd)) :
    scalarOp s names reads ctl f = .next (s.withCtx (f s.ctx)).advance := by
  simp only [scalarOp, checkNames_ok _ _ hn, sound_ok _ _ _ _ hi, except_ok_bind, except_pure]
  exact State.finish_ok _ _ hi.2.2.2

/-- What an instruction reads of WIN and of the loop registers does not depend on how often a name is listed. -/
theorem Context.intact.names {c : Context} {xs ctl : _} {dst dst' : List NameF} (h : c.intact xs ctl dst)
    (hd : ∀ n ∈ dst', n ∈ xs ++ dst) : c.intact xs ctl dst' := by
  refine ⟨h.1, h.2.1, fun ⟨n, hn, h32⟩ => h.2.2.1 ⟨n, ?_, h32⟩, h.2.2.2⟩
  rcases List.mem_append.1 hn with hn | hn
  · exact List.mem_append_left _ hn
  · exact hd n hn

theorem binaryOp_next (d a b : NameF) (s : State) (f : Word → Word → Word) (hd : isSz d) (ha : isSz a) (hb : isSz b)
    (hi : s.ctx.intact [a, b] [] [d]) : binaryOp d a b s f = .next (s.wrote d (f (s.ctx.read a) (s.ctx.read b))) := by
  unfold binaryOp State.wrote
  exact scalarOp_next _ _ _ _ _ (by simp [Context.acceptsAll, accepts_clsS, hd, ha, hb]) (hi.names (by simp))

theorem unaryOp_next (d a : NameF) (s : State) (f : Word → Word) (hd : isSz d) (ha : isSz a) (hi : s.ctx.intact [a] [] [d]) :
    unaryOp d a s f = .next (s.wrote d (f (s.ctx.read a))) := by
  unfold unaryOp State.wrote
  exact scalarOp_next _ _ _ _ _ (by simp [Context.acceptsAll, accepts_clsS, hd, ha]) (hi.names (by simp))

theorem ternaryOp_next (d a b : NameF) (s : State) (f : Word → Word → Word → Word) (hd : isSz d) (ha : isSz a) (hb : isSz b)
    (hi : s.ctx.intact [d, a, b] []) :
    ternaryOp d a b s f = .next (s.wrote d (f (s.ctx.read d) (s.ctx.read a) (s.ctx.read b))) := by
  unfold ternaryOp State.wrote
  exact scalarOp_next _ _ _ _ _ (by simp [Context.acceptsAll, accepts_clsS, hd, ha, hb]) (hi.names (by simp))

/-- The cases a scalar instruction has: a trap of its names or of a soft error, or its effect. -/
theorem scalarOp_cases (s t : State) (names : List (List NameClass × NameF)) (reads : List NameF) (ctl : List Nat) (f : Context → Context)
    (h : scalarOp s names reads ctl f = .next t) :
    (∃ k v, (k = 0x02 ∨ k = 0x0D) ∧ t = s.takeTrap k v none) ∨ t = (s.withCtx (f s.ctx)).advance := by
  have hn : ∀ ns, s.ctx.checkNames ns = .ok () ∨ ∃ v, s.ctx.checkNames ns = .error (.trap 0x02 v none) := by
    intro ns
    induction ns with
    | nil => exact .inl rfl
    | cons p ns ih =>
      obtain ⟨cls, n⟩ := p
      unfold Context.checkNames
      split
      · exact ih
      · exact .inr ⟨_, rfl⟩
  unfold scalarOp at h
  rcases hn names with hn | ⟨v, hn⟩
  · rcases sound_cases s.ctx reads ctl (names.map Prod.snd) with hs | ⟨v, hs⟩
    · simp only [hn, hs, except_ok_bind, except_pure] at h
      rcases State.finish_ok_cases _ _ _ h with h | ⟨v, h⟩
      · exact .inr h
      · exact .inl ⟨_, v, .inr rfl, h⟩
    · simp [hn, hs] at h; exact .inl ⟨_, v, .inr rfl, h.symm⟩
  · simp [hn] at h; exact .inl ⟨_, v, .inl rfl, h.symm⟩

/-! Bank-class instructions. -/

/-- What a bank-class instruction acts on once it may issue (R166, R205). -/
theorem ready_ok (s : State) (h : s.mayIssue) : s.ready = .ok s.readied := by
  unfold State.ready
  rw [if_neg]
  rcases h with h | h <;> simp [h]

theorem issued_ok (s : State) (h : s.mayIssue) : s.issued = .ok s.begun := by
  unfold State.issued
  rw [if_neg]
  rcases h with h | h <;> simp [h]

/-- A GBAR holds a bank-class instruction while an MMF is in flight (R205). -/
theorem ready_wait (s : State) (hg : s.ctx.gbar = true) (hf : s.ctx.workingHere = true) : s.ready = .error .wait ∧ s.issued = .error .wait := by
  simp [State.ready, State.issued, hg, hf]

/-- The state an instruction that takes a slot acts on (R164). -/
theorem onset_ok (f : SlotForm) (s : State) (h : s.mayIssue) : f.onset s = .ok (f.primed s) := by
  unfold SlotForm.onset SlotForm.primed
  split
  · exact ready_ok s h
  · exact issued_ok s h

/-- The state a row operation acts on (R150). -/
theorem rowReady_ok (s : State) (h : s.mayIssue) : s.rowReady = .ok s.rowReadied := by
  simp [State.rowReady, State.rowReadied, ready_ok s h]

/-- Checks that find nothing in any bank pass. -/
theorem checkBanks_ok (check : Nat → List (Nat × Word)) (js : List Nat) (h : ∀ j ∈ js, check j = []) : checkBanks check js = .ok () := by
  induction js with
  | nil => rfl
  | cons j js ih =>
    simp only [checkBanks, h j (by simp), worstFailure]
    exact ih fun i hi => h i (by simp [hi])

/-- Operands without a soft error are no failure of a bank-class instruction. -/
theorem soundFails_nil (c : Context) (names : List NameF) (ctl : List Nat) (dst : List NameF) (h : c.sound names ctl dst = .ok ()) :
    c.soundFails names ctl dst = [] := by
  simp [Context.soundFails, h]

/-- Checks that find nothing in any bank pass beside operands without a soft error (R131, R408). -/
theorem checkBanks_pass (check : Nat → List (Nat × Word)) (c : Context) (names : List NameF) (ctl : List Nat) (dst : List NameF)
    (js : List Nat) (h : ∀ j ∈ js, check j = []) (hs : c.sound names ctl dst = .ok ()) :
    checkBanks (fun j => check j ++ c.soundFails names ctl dst) js = .ok () :=
  checkBanks_ok _ _ fun j hj => by simp [h j hj, soundFails_nil c names ctl dst hs]

/-- An instruction that takes a slot, whose checks pass, starts (R164 to R168): into a slot of each bank while one is free there, or
whole. -/
theorem slotOp_next (i : Instr) (f : SlotForm) (names : List (List NameClass × NameF)) (reads : List NameF)
    (check : State → Nat → List (Nat × Word)) (s : State) (hf : slotForm i = some f) (hn : s.ctx.acceptsAll names) (hm : s.mayIssue)
    (hc : ∀ j ∈ bankList (f.primed s).ctx.gmBanks, check (f.primed s) j = [])
    (hi : (f.primed s).ctx.sound reads vecCtl (names.map Prod.snd) = .ok ()) (hu : f.unheld i (f.primed s))
    (hl : f.lazily i (f.primed s) = false ∨ (f.primed s).ctx.slotsFree = true) (he : s.ctx.loopError = none) :
    slotOp i names reads check s = .next (f.start i (f.primed s)).advance := by
  have h1 : (!f.cross || !(f.primed s).ctx.workingHere) = true := by
    cases hx : f.cross
    · rfl
    · simp [hu.2 hx]
  have h2 : (!f.lazily i (f.primed s) || (f.primed s).ctx.slotsFree) = true := by rcases hl with h | h <;> simp [h]
  have h3 := checkBanks_pass _ _ _ _ _ _ hc hi
  simp only [slotOp, hf, checkNames_ok _ _ hn, onset_ok f s hm, h3, hu.1, h1, h2, except_ok_bind, waitUnless_true, except_pure]
  exact State.finish_ok _ _ he

/-- The lowest bank with a failure traps, with its first cause (R408). -/
theorem checkBanks_trap (check : Nat → List (Nat × Word)) (js ks : List Nat) (j k : Nat) (v : Word) (h : ∀ i ∈ js, check i = [])
    (hj : worstFailure (check j) = some (k, v)) : checkBanks check (js ++ j :: ks) = .error (.trap k v (some j)) := by
  induction js with
  | nil => simp [checkBanks, hj]
  | cons i js ih =>
    rw [List.cons_append]
    unfold checkBanks
    rw [h i (by simp)]
    simpa [worstFailure] using ih fun i hi => h i (by simp [hi])

/-! Banks. -/

@[simp] theorem Context.bank_setBank (c : Context) (j i : Nat) (b : Bank) : (c.setBank j b).bank i = if i = j then b else c.bank i := by
  simp [Context.bank, Context.setBank]

@[simp] theorem Context.bank_orFlags (c : Context) (f : FpFlags) (j : Nat) : (c.orFlags f).bank j = c.bank j := rfl

@[simp] theorem Bank.row_setRow (b : Bank) (i k : Nat) (r : RowReg) : (b.setRow i r).row k = if k = i then r else b.row k := by
  simp [Bank.row, Bank.setRow]

@[simp] theorem Bank.pred_setPred (b : Bank) (i k : Nat) (p : BitVec 16384) : (b.setPred i p).pred k = if k = i then p else b.pred k := by
  simp [Bank.pred, Bank.setPred]

@[simp] theorem Bank.row_setPred (b : Bank) (i k : Nat) (p : BitVec 16384) : (b.setPred i p).row k = b.row k := rfl
@[simp] theorem Bank.pred_setRow (b : Bank) (i k : Nat) (r : RowReg) : (b.setRow i r).pred k = b.pred k := rfl

theorem bankList_nodup (g : BitVec 16) : (bankList g).Nodup := List.Pairwise.filter _ List.nodup_range

theorem mem_bankList (g : BitVec 16) (j : Nat) : j ∈ bankList g ↔ j < 16 ∧ g.getLsbD j = true := by simp [bankList]

/-- A per-bank run leaves each bank with its own result, and the other banks alone. -/
theorem overBanks_bank (run : Nat → Bank → Bank × FpFlags) (js : List Nat) (hj : js.Nodup) (c : Context) (i : Nat) :
    (c.overBanks run js).bank i = if i ∈ js then (run i (c.bank i)).1 else c.bank i := by
  induction js generalizing c with
  | nil => simp [Context.overBanks]
  | cons j js ih =>
    have hn := List.nodup_cons.1 hj
    simp only [Context.overBanks]
    rw [ih hn.2]
    simp only [Context.bank_orFlags, Context.bank_setBank, List.mem_cons]
    by_cases h : i = j
    · subst h; simp [hn.1]
    · simp [h]

end Sys2Proof.Machine
end

