-- ==== Sys2Proof/Laws/Memory.lean ====
section
/-! SUPPORT. Memory: what a byte reads after a write, the number n bytes make, and the one shared store of the model, writeLoc. -/

namespace Sys2Proof.Machine

/-! Bytes of a write. -/

theorem memCells_bounds (a n v : Nat) (e : Nat × Byte) (h : e ∈ memCells a n v) : a ≤ e.1 ∧ e.1 < a + n ∧ e.2 ≠ 0 := by
  simp only [memCells, List.mem_filterMap, List.mem_range] at h
  obtain ⟨i, hi, h⟩ := h
  split at h
  · exact absurd h (by simp)
  · rename_i hb
    have := Option.some.inj h
    subst this
    exact ⟨by simp, by simp; omega, by simpa using hb⟩

theorem tabFind_filterMap_range (g : Nat → Option (Nat × Byte)) (a : Nat) (hg : ∀ i e, g i = some e → e.1 = a + i) (n b : Nat) :
    tabFind ((List.range' b n).filterMap g) (a + x) =
      if b ≤ x ∧ x < b + n then (g x).map Prod.snd else none := by
  induction n generalizing b with
  | zero => rw [if_neg (by omega)]; rfl
  | succ n ih =>
    rw [List.range'_succ, List.filterMap_cons]
    cases hgb : g b with
    | none =>
      simp only [ih]
      by_cases hx : b = x
      · subst hx; rw [if_neg (by omega), if_pos (by omega), hgb]; rfl
      · by_cases h2 : b + 1 ≤ x ∧ x < b + 1 + n
        · rw [if_pos h2, if_pos (by omega)]
        · rw [if_neg h2, if_neg (by omega)]
    | some e =>
      have hk := hg b e hgb
      obtain ⟨k, v⟩ := e
      simp only [tabFind]
      simp only at hk
      by_cases hx : b = x
      · subst hx; rw [if_pos hk, if_pos (by omega), hgb]; rfl
      · rw [if_neg (by omega), ih]
        by_cases h2 : b + 1 ≤ x ∧ x < b + 1 + n
        · rw [if_pos h2, if_pos (by omega)]
        · rw [if_neg h2, if_neg (by omega)]

theorem tabFind_memCells (a n v x : Nat) : tabFind (memCells a n v) (a + x) =
    if x < n ∧ BitVec.ofNat 8 (v >>> (8 * x)) ≠ (0 : Byte) then some (BitVec.ofNat 8 (v >>> (8 * x))) else none := by
  unfold memCells
  rw [List.range_eq_range', tabFind_filterMap_range (a := a) (hg := ?_)]
  · by_cases h : x < n
    · rw [if_pos (by omega)]
      by_cases hb : BitVec.ofNat 8 (v >>> (8 * x)) = 0#8 <;> simp [hb, h]
    · rw [if_neg (by omega), if_neg (by omega)]
  · intro i e h
    dsimp only at h
    split at h
    · exact absurd h (by simp)
    · rw [← Option.some.inj h]

theorem tabFind_memCells_out (a n v y : Nat) (h : y < a ∨ a + n ≤ y) : tabFind (memCells a n v) y = none := by
  have : ∀ (u : Tab Byte), (∀ e ∈ u, e.1 ≠ y) → tabFind u y = none := by
    intro u hu
    induction u with
    | nil => rfl
    | cons e u ih =>
      obtain ⟨k, w⟩ := e
      simp only [tabFind]
      rw [if_neg (hu (k, w) (by simp))]
      exact ih fun z hz => hu z (by simp [hz])
  refine this _ fun e he => ?_
  have := memCells_bounds _ _ _ _ he
  omega

/-- A byte reads as it was written, and as before outside. -/
theorem memByte_memWrite (m : Tab Byte) (a n v y : Nat) : memByte (memWrite m a n v) y =
    if a ≤ y ∧ y < a + n then BitVec.ofNat 8 (v >>> (8 * (y - a))) else memByte m y := by
  unfold memByte tabGet memWrite
  rw [tabFind_append, tabFind_append]
  by_cases h1 : y < a
  · rw [if_neg (by omega), tabFind_filter _ _ _ (fun _ => by simpa using h1), tabFind_memCells_out _ _ _ _ (by omega),
      tabFind_filter_none _ _ _ (by simp; omega)]; simp
  · rw [tabFind_filter_none _ _ _ (by simp; omega)]
    by_cases h2 : a + n ≤ y
    · rw [if_neg (by omega), tabFind_memCells_out _ _ _ _ (by omega), tabFind_filter _ _ _ (fun _ => by simpa using h2)]; simp
    · rw [if_pos (by omega), tabFind_filter_none _ _ _ (by simp; omega)]
      obtain ⟨x, rfl⟩ : ∃ x, y = a + x := ⟨y - a, by omega⟩
      rw [tabFind_memCells, Nat.add_sub_cancel_left]
      by_cases hb : BitVec.ofNat 8 (v >>> (8 * x)) = (0 : Byte)
      · rw [if_neg (by simp [hb])]; simp [hb]
      · rw [if_pos ⟨by omega, hb⟩]; simp

theorem memByte_memWrite_in (m : Tab Byte) (a n v k : Nat) (h : k < n) :
    memByte (memWrite m a n v) (a + k) = BitVec.ofNat 8 (v / 2 ^ (8 * k)) := by
  rw [memByte_memWrite, if_pos (by omega), Nat.add_sub_cancel_left, Nat.shiftRight_eq_div_pow]

theorem memByte_memWrite_out (m : Tab Byte) (a n v y : Nat) (h : y < a ∨ a + n ≤ y) :
    memByte (memWrite m a n v) y = memByte m y := by rw [memByte_memWrite, if_neg (by omega)]

theorem tabSorted_memCells (a n v : Nat) : tabSorted (memCells a n v) = true := by
  unfold memCells
  rw [List.range_eq_range']
  generalize 0 = b
  induction n generalizing b with
  | zero => rfl
  | succ n ih =>
    rw [List.range'_succ, List.filterMap_cons]
    split
    · exact ih _
    · rename_i e he
      dsimp only at he
      split at he
      · exact absurd he (by simp)
      · have he := Option.some.inj he
        rw [tabSorted_cons]
        refine ⟨?_, ih _⟩
        intro f hf
        simp only [List.mem_filterMap, List.mem_range'] at hf
        obtain ⟨i, ⟨q, hq, rfl⟩, hf⟩ := hf
        split at hf
        · exact absurd hf (by simp)
        · have hf := Option.some.inj hf
          subst he hf
          simp; omega

/-- A write keeps the canonical form of memory. -/
theorem memWf_memWrite (m : Tab Byte) (a n v : Nat) (h : memWf m = true) : memWf (memWrite m a n v) = true := by
  simp only [memWf, tabWf, Bool.and_eq_true, List.all_eq_true, memWrite] at h ⊢
  constructor
  · rw [List.append_assoc]
    refine tabSorted_append _ _ a (tabSorted_filter _ _ h.1) ?_ (fun e he => by simpa using (List.mem_filter.1 he).2) ?_
    · refine tabSorted_append _ _ (a + n) (tabSorted_memCells _ _ _) (tabSorted_filter _ _ h.1) ?_ ?_
      · intro e he; exact (memCells_bounds _ _ _ _ he).2.1
      · intro e he; simpa using (List.mem_filter.1 he).2
    · intro e he
      rcases List.mem_append.1 he with he | he
      · exact (memCells_bounds _ _ _ _ he).1
      · have := (List.mem_filter.1 he).2
        simp at this; omega
  · intro e he
    rcases List.mem_append.1 he with he | he
    · rcases List.mem_append.1 he with he | he
      · exact h.2 e (List.mem_filter.1 he).1
      · have := (memCells_bounds _ _ _ _ he).2.2
        simpa using this
    · exact h.2 e (List.mem_filter.1 he).1

/-! The number that n bytes make. -/

theorem memRead_succ (m : Tab Byte) (a n : Nat) :
    memRead m a (n + 1) = memRead m a n + (memByte m (a + n)).toNat * 2 ^ (8 * n) := by
  have aux : ∀ (l : List Nat) (z : Nat), l.foldr (fun i acc => acc + (memByte m (a + i)).toNat <<< (8 * i)) z =
      l.foldr (fun i acc => acc + (memByte m (a + i)).toNat <<< (8 * i)) 0 + z := by
    intro l z
    induction l with
    | nil => simp
    | cons i l ih => simp only [List.foldr_cons, ih]; omega
  unfold memRead
  rw [List.range_succ, List.foldr_append, aux]
  simp [Nat.shiftLeft_eq]

theorem memRead_lt (m : Tab Byte) (a n : Nat) : memRead m a n < 2 ^ (8 * n) := by
  induction n with
  | zero => simp [memRead]
  | succ n ih =>
    rw [memRead_succ]
    have h1 := (memByte m (a + n)).isLt
    have h2 : 2 ^ (8 * (n + 1)) = 2 ^ 8 * 2 ^ (8 * n) := by rw [← Nat.pow_add]; congr 1; omega
    have h3 : (memByte m (a + n)).toNat * 2 ^ (8 * n) ≤ (2 ^ 8 - 1) * 2 ^ (8 * n) := Nat.mul_le_mul_right _ (by omega)
    omega

/-- n bytes read back as the number they were written with. -/
theorem memRead_memWrite (m : Tab Byte) (a n v : Nat) : memRead (memWrite m a n v) a n = v % 2 ^ (8 * n) := by
  have : ∀ k, k ≤ n → memRead (memWrite m a n v) a k = v % 2 ^ (8 * k) := by
    intro k
    induction k with
    | zero => intro _; simp [memRead, Nat.mod_one]
    | succ k ih =>
      intro hk
      rw [memRead_succ, ih (by omega), memByte_memWrite_in _ _ _ _ _ (by omega)]
      rw [show 8 * (k + 1) = 8 * k + 8 by omega, Nat.pow_add, Nat.mod_mul, BitVec.toNat_ofNat, Nat.mul_comm (2 ^ (8 * k))]
  exact this n (Nat.le_refl n)

/-- The number depends on the bytes alone. -/
theorem memRead_congr (m k : Tab Byte) (a b n : Nat) (h : ∀ i < n, memByte m (a + i) = memByte k (b + i)) :
    memRead m a n = memRead k b n := by
  induction n with
  | zero => rfl
  | succ n ih => rw [memRead_succ, memRead_succ, ih fun i hi => h i (by omega), h n (by omega)]

/-! The shared store. -/

@[simp] theorem State.mapCtxs_mem (s : State) (f : Context → Context) : (s.mapCtxs f).mem = s.mem := rfl
@[simp] theorem State.updCtx_mem (s : State) (id : Nat) (f : Context → Context) : (s.updCtx id f).mem = s.mem := rfl
@[simp] theorem State.wake_mem (s : State) (l n : Nat) : (s.wake l n).mem = s.mem := rfl

/-- A field that every step of a fold leaves alone stays. -/
theorem foldl_keeps {α β γ : Type} (f : α → β → α) (get : α → γ) (h : ∀ a b, get (f a b) = get a) (bs : List β) (a : α) :
    get (bs.foldl f a) = get a := by
  induction bs generalizing a with
  | nil => rfl
  | cons b bs ih => rw [List.foldl_cons, ih, h]

@[simp] theorem State.wakeBucket_mem (s : State) (l : Nat) : (s.wakeBucket l).mem = s.mem := by
  unfold State.wakeBucket; dsimp only; split <;> rfl

@[simp] theorem State.wakeBuckets_mem (s : State) (l n : Nat) : (s.wakeBuckets l n).mem = s.mem := by
  unfold State.wakeBuckets
  split
  · exact foldl_keeps _ State.mem (fun t i => State.wakeBucket_mem t _) _ _
  · rfl

@[simp] theorem State.corrected_mem (s : State) (l n : Nat) : (s.corrected l n).mem = s.mem := by
  unfold State.corrected; split <;> rfl

@[simp] theorem State.rewritten_mem (s : State) (l n : Nat) : (s.rewritten l n).mem = s.mem := by
  unfold State.rewritten
  split
  · rfl
  · exact foldl_keeps _ State.mem (fun t k => by split <;> simp) _ _

@[simp] theorem State.writeLoc_mem (s : State) (l n v : Nat) : (s.writeLoc l n v).mem = memWrite s.mem l n v := by
  simp [State.writeLoc]

@[simp] theorem State.signed_mem (s : State) (w : Writer) : (s.signed w).mem = s.mem := rfl

@[simp] theorem State.murky_mem (s : State) (l n v : Nat) : (s.murky l n v).mem = s.mem := by
  unfold State.murky
  split
  · exact foldl_keeps _ State.mem (fun t i => by split <;> rfl) _ _
  · rfl

@[simp] theorem State.notice_mem (s : State) (pa n : Nat) : (s.notice pa n).mem = s.mem := by
  unfold State.notice
  split
  · refine foldl_keeps _ State.mem ?_ _ _
    intro t k
    rfl
  · rfl

@[simp] theorem State.writeBytes_mem (s : State) (l n v : Nat) : (s.writeBytes l n v).mem = memWrite s.mem l n v := by
  simp [State.writeBytes]

/-- A write of n bytes at a physical address changes the bytes of its location, and no others. -/
@[simp] theorem State.writeCells_mem (s : State) (pa n v : Nat) : (s.writeCells pa n v).mem = memWrite s.mem (s.locOf pa) n v := by
  simp [State.writeCells]

@[simp] theorem State.reached_mem (s : State) (core cls pa : Nat) : (s.reached core cls pa).mem = s.mem := by
  unfold State.reached
  dsimp only
  split <;> split <;> rfl

@[simp] theorem State.counted_mem (s : State) (pa : Nat) : (s.counted pa).mem = s.mem := by
  unfold State.counted; split <;> rfl

@[simp] theorem State.serve_mem (s : State) (pa : Nat) : (s.serve pa).mem = s.mem := by simp [State.serve]

theorem State.writeCells_byte_in (s : State) (pa n v k : Nat) (h : k < n) :
    memByte (s.writeCells pa n v).mem (s.locOf pa + k) = BitVec.ofNat 8 (v / 2 ^ (8 * k)) := by
  rw [State.writeCells_mem, memByte_memWrite_in _ _ _ _ _ h]

theorem State.writeCells_byte_out (s : State) (pa n v y : Nat) (h : y < s.locOf pa ∨ s.locOf pa + n ≤ y) :
    memByte (s.writeCells pa n v).mem y = memByte s.mem y := by
  rw [State.writeCells_mem, memByte_memWrite_out _ _ _ _ _ h]

end Sys2Proof.Machine
end

