-- ==== Sys2Proof/Laws/PerInstr.lean ====
section
/-! SUPPORT. The facts of each instruction as syntax: the number its fields make is a word (R69). -/

namespace Sys2Proof.Laws

/-- An encoded instruction's number fits one 32-bit word; a step without an encoding has none. -/
def Shape.Statement (i : Instr) : Prop := ∀ n, encodeNat i = some n → n < 2 ^ 32

theorem Shape.every (i : Instr) : Shape.Statement i := by
  intro n h
  cases i with
  | add d a b => cases h; have := d.isLt; have := a.isLt; have := b.isLt; omega
  | sub d a b => cases h; have := d.isLt; have := a.isLt; have := b.isLt; omega
  | and d a b => cases h; have := d.isLt; have := a.isLt; have := b.isLt; omega
  | or d a b => cases h; have := d.isLt; have := a.isLt; have := b.isLt; omega
  | xor d a b => cases h; have := d.isLt; have := a.isLt; have := b.isLt; omega
  | andn d a b => cases h; have := d.isLt; have := a.isLt; have := b.isLt; omega
  | shl d a b => cases h; have := d.isLt; have := a.isLt; have := b.isLt; omega
  | shr d a b => cases h; have := d.isLt; have := a.isLt; have := b.isLt; omega
  | sar d a b => cases h; have := d.isLt; have := a.isLt; have := b.isLt; omega
  | rol d a b => cases h; have := d.isLt; have := a.isLt; have := b.isLt; omega
  | mul d a b => cases h; have := d.isLt; have := a.isLt; have := b.isLt; omega
  | mulhs d a b => cases h; have := d.isLt; have := a.isLt; have := b.isLt; omega
  | mulhn d a b => cases h; have := d.isLt; have := a.isLt; have := b.isLt; omega
  | divs d a b => cases h; have := d.isLt; have := a.isLt; have := b.isLt; omega
  | divn d a b => cases h; have := d.isLt; have := a.isLt; have := b.isLt; omega
  | rems d a b => cases h; have := d.isLt; have := a.isLt; have := b.isLt; omega
  | remn d a b => cases h; have := d.isLt; have := a.isLt; have := b.isLt; omega
  | mins d a b => cases h; have := d.isLt; have := a.isLt; have := b.isLt; omega
  | maxs d a b => cases h; have := d.isLt; have := a.isLt; have := b.isLt; omega
  | minn d a b => cases h; have := d.isLt; have := a.isLt; have := b.isLt; omega
  | maxn d a b => cases h; have := d.isLt; have := a.isLt; have := b.isLt; omega
  | clz d a => cases h; have := d.isLt; have := a.isLt; omega
  | ctz d a => cases h; have := d.isLt; have := a.isLt; omega
  | popc d a => cases h; have := d.isLt; have := a.isLt; omega
  | bswap d a => cases h; have := d.isLt; have := a.isLt; omega
  | seq d a b => cases h; have := d.isLt; have := a.isLt; have := b.isLt; omega
  | sne d a b => cases h; have := d.isLt; have := a.isLt; have := b.isLt; omega
  | slts d a b => cases h; have := d.isLt; have := a.isLt; have := b.isLt; omega
  | sltn d a b => cases h; have := d.isLt; have := a.isLt; have := b.isLt; omega
  | sles d a b => cases h; have := d.isLt; have := a.isLt; have := b.isLt; omega
  | slen d a b => cases h; have := d.isLt; have := a.isLt; have := b.isLt; omega
  | sel d a b => cases h; have := d.isLt; have := a.isLt; have := b.isLt; omega
  | extsX8 d a => cases h; have := d.isLt; have := a.isLt; omega
  | extsX16 d a => cases h; have := d.isLt; have := a.isLt; omega
  | extsX32 d a => cases h; have := d.isLt; have := a.isLt; omega
  | extzN8 d a => cases h; have := d.isLt; have := a.isLt; omega
  | extzN16 d a => cases h; have := d.isLt; have := a.isLt; omega
  | extzN32 d a => cases h; have := d.isLt; have := a.isLt; omega
  | bfx d a b => cases h; have := d.isLt; have := a.isLt; have := b.isLt; omega
  | bfi d a b => cases h; have := d.isLt; have := a.isLt; have := b.isLt; omega
  | faddS d a b => cases h; have := d.isLt; have := a.isLt; have := b.isLt; omega
  | fsubS d a b => cases h; have := d.isLt; have := a.isLt; have := b.isLt; omega
  | fmulS d a b => cases h; have := d.isLt; have := a.isLt; have := b.isLt; omega
  | fdivS d a b => cases h; have := d.isLt; have := a.isLt; have := b.isLt; omega
  | fminS d a b => cases h; have := d.isLt; have := a.isLt; have := b.isLt; omega
  | fmaxS d a b => cases h; have := d.isLt; have := a.isLt; have := b.isLt; omega
  | fcmpS d a b => cases h; have := d.isLt; have := a.isLt; have := b.isLt; omega
  | ffmaS d a b => cases h; have := d.isLt; have := a.isLt; have := b.isLt; omega
  | faddD d a b => cases h; have := d.isLt; have := a.isLt; have := b.isLt; omega
  | fsubD d a b => cases h; have := d.isLt; have := a.isLt; have := b.isLt; omega
  | fmulD d a b => cases h; have := d.isLt; have := a.isLt; have := b.isLt; omega
  | fdivD d a b => cases h; have := d.isLt; have := a.isLt; have := b.isLt; omega
  | fminD d a b => cases h; have := d.isLt; have := a.isLt; have := b.isLt; omega
  | fmaxD d a b => cases h; have := d.isLt; have := a.isLt; have := b.isLt; omega
  | fcmpD d a b => cases h; have := d.isLt; have := a.isLt; have := b.isLt; omega
  | ffmaD d a b => cases h; have := d.isLt; have := a.isLt; have := b.isLt; omega
  | fsqrt d a dbl => cases h; have := d.isLt; have := a.isLt; have := Bool.toNat_lt dbl; omega
  | frsqe d a dbl => cases h; have := d.isLt; have := a.isLt; have := Bool.toNat_lt dbl; omega
  | frcpe d a dbl => cases h; have := d.isLt; have := a.isLt; have := Bool.toNat_lt dbl; omega
  | fclass d a dbl => cases h; have := d.isLt; have := a.isLt; have := Bool.toNat_lt dbl; omega
  | fcvt d a s => cases h; have := d.isLt; have := a.isLt; have := s.isLt; omega
  | addi d a i => cases h; have := d.isLt; have := a.isLt; have := i.isLt; omega
  | andi d a i => cases h; have := d.isLt; have := a.isLt; have := i.isLt; omega
  | ori d a i => cases h; have := d.isLt; have := a.isLt; have := i.isLt; omega
  | xori d a i => cases h; have := d.isLt; have := a.isLt; have := i.isLt; omega
  | shli d a i => cases h; have := d.isLt; have := a.isLt; have := i.isLt; omega
  | shri d a i => cases h; have := d.isLt; have := a.isLt; have := i.isLt; omega
  | sari d a i => cases h; have := d.isLt; have := a.isLt; have := i.isLt; omega
  | sltsi d a i => cases h; have := d.isLt; have := a.isLt; have := i.isLt; omega
  | sltni d a i => cases h; have := d.isLt; have := a.isLt; have := i.isLt; omega
  | movi d i => cases h; have := d.isLt; have := i.isLt; omega
  | lui d i => cases h; have := d.isLt; have := i.isLt; omega
  | addpc d i => cases h; have := d.isLt; have := i.isLt; omega
  | call d i => cases h; have := d.isLt; have := i.isLt; omega
  | bEqz a o => cases h; have := a.isLt; have := o.isLt; omega
  | bNez a o => cases h; have := a.isLt; have := o.isLt; omega
  | bLtz a o => cases h; have := a.isLt; have := o.isLt; omega
  | bGez a o => cases h; have := a.isLt; have := o.isLt; omega
  | bGtz a o => cases h; have := a.isLt; have := o.isLt; omega
  | bLez a o => cases h; have := a.isLt; have := o.isLt; omega
  | bAny a o => cases h; have := a.isLt; have := o.isLt; omega
  | bAll a o => cases h; have := a.isLt; have := o.isLt; omega
  | br o => cases h; have := o.isLt; omega
  | loop a l => cases h; have := a.isLt; have := l.isLt; omega
  | sloop d a l => cases h; have := d.isLt; have := a.isLt; have := l.isLt; omega
  | swin n => cases h; have := n.isLt; omega
  | vcfg c => cases h; have := c.isLt; omega
  | vshapeImm j i => cases h; have := j.isLt; have := i.isLt; omega
  | act d a t => cases h; have := d.isLt; have := a.isLt; have := t.isLt; omega
  | actz d a t => cases h; have := d.isLt; have := a.isLt; have := t.isLt; omega
  | refImm n => cases h; have := n.isLt; omega
  | ld d a f i => cases h; have := d.isLt; have := a.isLt; have := f.isLt; have := i.isLt; omega
  | st d a f i => cases h; have := d.isLt; have := a.isLt; have := f.isLt; have := i.isLt; omega
  | stRel d a f i => cases h; have := d.isLt; have := a.isLt; have := f.isLt; have := i.isLt; omega
  | ldAcq d a f i => cases h; have := d.isLt; have := a.isLt; have := f.isLt; have := i.isLt; omega
  | ldc d a i => cases h; have := d.isLt; have := a.isLt; have := i.isLt; omega
  | pfetch d a i => cases h; have := d.isLt; have := a.isLt; have := i.isLt; omega
  | vadd lastA lastB d a b => cases h; have := Bool.toNat_lt lastA; have := Bool.toNat_lt lastB; have := d.isLt; have := a.isLt; have := b.isLt; omega
  | vsub lastA lastB d a b => cases h; have := Bool.toNat_lt lastA; have := Bool.toNat_lt lastB; have := d.isLt; have := a.isLt; have := b.isLt; omega
  | vmul lastA lastB d a b => cases h; have := Bool.toNat_lt lastA; have := Bool.toNat_lt lastB; have := d.isLt; have := a.isLt; have := b.isLt; omega
  | vfma lastA lastB d a b => cases h; have := Bool.toNat_lt lastA; have := Bool.toNat_lt lastB; have := d.isLt; have := a.isLt; have := b.isLt; omega
  | vfms lastA lastB d a b => cases h; have := Bool.toNat_lt lastA; have := Bool.toNat_lt lastB; have := d.isLt; have := a.isLt; have := b.isLt; omega
  | vfnma lastA lastB d a b => cases h; have := Bool.toNat_lt lastA; have := Bool.toNat_lt lastB; have := d.isLt; have := a.isLt; have := b.isLt; omega
  | vabs lastA d a => cases h; have := Bool.toNat_lt lastA; have := d.isLt; have := a.isLt; omega
  | vneg lastA d a => cases h; have := Bool.toNat_lt lastA; have := d.isLt; have := a.isLt; omega
  | vand lastA lastB d a b => cases h; have := Bool.toNat_lt lastA; have := Bool.toNat_lt lastB; have := d.isLt; have := a.isLt; have := b.isLt; omega
  | vor lastA lastB d a b => cases h; have := Bool.toNat_lt lastA; have := Bool.toNat_lt lastB; have := d.isLt; have := a.isLt; have := b.isLt; omega
  | vxor lastA lastB d a b => cases h; have := Bool.toNat_lt lastA; have := Bool.toNat_lt lastB; have := d.isLt; have := a.isLt; have := b.isLt; omega
  | vandn lastA lastB d a b => cases h; have := Bool.toNat_lt lastA; have := Bool.toNat_lt lastB; have := d.isLt; have := a.isLt; have := b.isLt; omega
  | vshl lastA lastB d a b => cases h; have := Bool.toNat_lt lastA; have := Bool.toNat_lt lastB; have := d.isLt; have := a.isLt; have := b.isLt; omega
  | vshr lastA lastB d a b => cases h; have := Bool.toNat_lt lastA; have := Bool.toNat_lt lastB; have := d.isLt; have := a.isLt; have := b.isLt; omega
  | vsar lastA lastB d a b => cases h; have := Bool.toNat_lt lastA; have := Bool.toNat_lt lastB; have := d.isLt; have := a.isLt; have := b.isLt; omega
  | vsel lastA lastB d a b => cases h; have := Bool.toNat_lt lastA; have := Bool.toNat_lt lastB; have := d.isLt; have := a.isLt; have := b.isLt; omega
  | vmin lastA lastB d a b => cases h; have := Bool.toNat_lt lastA; have := Bool.toNat_lt lastB; have := d.isLt; have := a.isLt; have := b.isLt; omega
  | vminX lastA lastB d a b => cases h; have := Bool.toNat_lt lastA; have := Bool.toNat_lt lastB; have := d.isLt; have := a.isLt; have := b.isLt; omega
  | vminN lastA lastB d a b => cases h; have := Bool.toNat_lt lastA; have := Bool.toNat_lt lastB; have := d.isLt; have := a.isLt; have := b.isLt; omega
  | vmax lastA lastB d a b => cases h; have := Bool.toNat_lt lastA; have := Bool.toNat_lt lastB; have := d.isLt; have := a.isLt; have := b.isLt; omega
  | vmaxX lastA lastB d a b => cases h; have := Bool.toNat_lt lastA; have := Bool.toNat_lt lastB; have := d.isLt; have := a.isLt; have := b.isLt; omega
  | vmaxN lastA lastB d a b => cases h; have := Bool.toNat_lt lastA; have := Bool.toNat_lt lastB; have := d.isLt; have := a.isLt; have := b.isLt; omega
  | vmulw lastA lastB d a b => cases h; have := Bool.toNat_lt lastA; have := Bool.toNat_lt lastB; have := d.isLt; have := a.isLt; have := b.isLt; omega
  | vmulwX lastA lastB d a b => cases h; have := Bool.toNat_lt lastA; have := Bool.toNat_lt lastB; have := d.isLt; have := a.isLt; have := b.isLt; omega
  | vmulwN lastA lastB d a b => cases h; have := Bool.toNat_lt lastA; have := Bool.toNat_lt lastB; have := d.isLt; have := a.isLt; have := b.isLt; omega
  | vmerge lastA d a b => cases h; have := Bool.toNat_lt lastA; have := d.isLt; have := a.isLt; have := b.isLt; omega
  | vrsqe lastA d a => cases h; have := Bool.toNat_lt lastA; have := d.isLt; have := a.isLt; omega
  | vrcpe lastA d a => cases h; have := Bool.toNat_lt lastA; have := d.isLt; have := a.isLt; omega
  | vexp2e lastA d a => cases h; have := Bool.toNat_lt lastA; have := d.isLt; have := a.isLt; omega
  | viota lastA d a => cases h; have := Bool.toNat_lt lastA; have := d.isLt; have := a.isLt; omega
  | vbcast lastA d a b => cases h; have := Bool.toNat_lt lastA; have := d.isLt; have := a.isLt; have := b.isLt; omega
  | vclr lastA d a => cases h; have := Bool.toNat_lt lastA; have := d.isLt; have := a.isLt; omega
  | vins d a b => cases h; have := d.isLt; have := a.isLt; have := b.isLt; omega
  | vext lastA d a b => cases h; have := Bool.toNat_lt lastA; have := d.isLt; have := a.isLt; have := b.isLt; omega
  | vslideUp lastA d a b => cases h; have := Bool.toNat_lt lastA; have := d.isLt; have := a.isLt; have := b.isLt; omega
  | vslideDn lastA d a b => cases h; have := Bool.toNat_lt lastA; have := d.isLt; have := a.isLt; have := b.isLt; omega
  | vperm lastA lastB d a b => cases h; have := Bool.toNat_lt lastA; have := Bool.toNat_lt lastB; have := d.isLt; have := a.isLt; have := b.isLt; omega
  | vcopy lastA d a => cases h; have := Bool.toNat_lt lastA; have := d.isLt; have := a.isLt; omega
  | vshape a b => cases h; have := a.isLt; have := b.isLt; omega
  | pmovs d a b => cases h; have := d.isLt; have := a.isLt; have := b.isLt; omega
  | vred lastA d a s => cases h; have := Bool.toNat_lt lastA; have := d.isLt; have := a.isLt; have := s.isLt; omega
  | vcmpEq lastA lastB d a b => cases h; have := Bool.toNat_lt lastA; have := Bool.toNat_lt lastB; have := d.isLt; have := a.isLt; have := b.isLt; omega
  | vcmpNe lastA lastB d a b => cases h; have := Bool.toNat_lt lastA; have := Bool.toNat_lt lastB; have := d.isLt; have := a.isLt; have := b.isLt; omega
  | vcmpLt lastA lastB d a b => cases h; have := Bool.toNat_lt lastA; have := Bool.toNat_lt lastB; have := d.isLt; have := a.isLt; have := b.isLt; omega
  | vcmpLe lastA lastB d a b => cases h; have := Bool.toNat_lt lastA; have := Bool.toNat_lt lastB; have := d.isLt; have := a.isLt; have := b.isLt; omega
  | vcmpUn lastA lastB d a b => cases h; have := Bool.toNat_lt lastA; have := Bool.toNat_lt lastB; have := d.isLt; have := a.isLt; have := b.isLt; omega
  | vcmpLtX lastA lastB d a b => cases h; have := Bool.toNat_lt lastA; have := Bool.toNat_lt lastB; have := d.isLt; have := a.isLt; have := b.isLt; omega
  | vcmpLeX lastA lastB d a b => cases h; have := Bool.toNat_lt lastA; have := Bool.toNat_lt lastB; have := d.isLt; have := a.isLt; have := b.isLt; omega
  | vcmpLtN lastA lastB d a b => cases h; have := Bool.toNat_lt lastA; have := Bool.toNat_lt lastB; have := d.isLt; have := a.isLt; have := b.isLt; omega
  | vcmpLeN lastA lastB d a b => cases h; have := Bool.toNat_lt lastA; have := Bool.toNat_lt lastB; have := d.isLt; have := a.isLt; have := b.isLt; omega
  | vcvt lastA d a r t => cases h; have := Bool.toNat_lt lastA; have := d.isLt; have := a.isLt; have := r.isLt; have := t.isLt; omega
  | vcvtX lastA d a r t => cases h; have := Bool.toNat_lt lastA; have := d.isLt; have := a.isLt; have := r.isLt; have := t.isLt; omega
  | vcvtN lastA d a r t => cases h; have := Bool.toNat_lt lastA; have := d.isLt; have := a.isLt; have := r.isLt; have := t.isLt; omega
  | vscl lastA d a b => cases h; have := Bool.toNat_lt lastA; have := d.isLt; have := a.isLt; have := b.isLt; omega
  | pand d a b => cases h; have := d.isLt; have := a.isLt; have := b.isLt; omega
  | por d a b => cases h; have := d.isLt; have := a.isLt; have := b.isLt; omega
  | pxor d a b => cases h; have := d.isLt; have := a.isLt; have := b.isLt; omega
  | pandn d a b => cases h; have := d.isLt; have := a.isLt; have := b.isLt; omega
  | pnot d a => cases h; have := d.isLt; have := a.isLt; omega
  | pcnt d a => cases h; have := d.isLt; have := a.isLt; omega
  | pfirst d a => cases h; have := d.isLt; have := a.isLt; omega
  | pset d a => cases h; have := d.isLt; have := a.isLt; omega
  | shuf lastA d a b => cases h; have := Bool.toNat_lt lastA; have := d.isLt; have := a.isLt; have := b.isLt; omega
  | shufx lastA d a b => cases h; have := Bool.toNat_lt lastA; have := d.isLt; have := a.isLt; have := b.isLt; omega
  | gbcast lastA d a b => cases h; have := Bool.toNat_lt lastA; have := d.isLt; have := a.isLt; have := b.isLt; omega
  | gbar => cases h; omega
  | gsplit a b => cases h; have := a.isLt; have := b.isLt; omega
  | gjoin => cases h; omega
  | gsync => cases h; omega
  | gred lastA d a s => cases h; have := Bool.toNat_lt lastA; have := d.isLt; have := a.isLt; have := s.isLt; omega
  | wb d => cases h; have := d.isLt; omega
  | pre d => cases h; have := d.isLt; omega
  | rcopy d a => cases h; have := d.isLt; have := a.isLt; omega
  | tag d t => cases h; have := d.isLt; have := t.isLt; omega
  | saverow d a b => cases h; have := d.isLt; have := a.isLt; have := b.isLt; omega
  | loadrow d a b => cases h; have := d.isLt; have := a.isLt; have := b.isLt; omega
  | refScalar a => cases h; have := a.isLt; omega
  | mshape d a => cases h; have := d.isLt; have := a.isLt; omega
  | mzero d => cases h; have := d.isLt; omega
  | mmf lastA lastB d a b => cases h; have := Bool.toNat_lt lastA; have := Bool.toNat_lt lastB; have := d.isLt; have := a.isLt; have := b.isLt; omega
  | mmfO lastA lastB d a b => cases h; have := Bool.toNat_lt lastA; have := Bool.toNat_lt lastB; have := d.isLt; have := a.isLt; have := b.isLt; omega
  | mwait => cases h; omega
  | mstat d a => cases h; have := d.isLt; have := a.isLt; omega
  | cset a s => cases h; have := a.isLt; have := s.isLt; omega
  | cgo d => cases h; have := d.isLt; omega
  | cwait d a => cases h; have := d.isLt; have := a.isLt; omega
  | cstat d a => cases h; have := d.isLt; have := a.isLt; omega
  | ccancel a => cases h; have := a.isLt; omega
  | cresume a => cases h; have := a.isLt; omega
  | aadd d a w32 o c => cases h; have := d.isLt; have := a.isLt; have := Bool.toNat_lt w32; have := o.isLt; have := c.isLt; omega
  | ainc d a w32 o c => cases h; have := d.isLt; have := a.isLt; have := Bool.toNat_lt w32; have := o.isLt; have := c.isLt; omega
  | amins d a w32 o c => cases h; have := d.isLt; have := a.isLt; have := Bool.toNat_lt w32; have := o.isLt; have := c.isLt; omega
  | amaxs d a w32 o c => cases h; have := d.isLt; have := a.isLt; have := Bool.toNat_lt w32; have := o.isLt; have := c.isLt; omega
  | aminn d a w32 o c => cases h; have := d.isLt; have := a.isLt; have := Bool.toNat_lt w32; have := o.isLt; have := c.isLt; omega
  | amaxn d a w32 o c => cases h; have := d.isLt; have := a.isLt; have := Bool.toNat_lt w32; have := o.isLt; have := c.isLt; omega
  | aand d a w32 o c => cases h; have := d.isLt; have := a.isLt; have := Bool.toNat_lt w32; have := o.isLt; have := c.isLt; omega
  | aor d a w32 o c => cases h; have := d.isLt; have := a.isLt; have := Bool.toNat_lt w32; have := o.isLt; have := c.isLt; omega
  | axor d a w32 o c => cases h; have := d.isLt; have := a.isLt; have := Bool.toNat_lt w32; have := o.isLt; have := c.isLt; omega
  | axchg d a w32 o c => cases h; have := d.isLt; have := a.isLt; have := Bool.toNat_lt w32; have := o.isLt; have := c.isLt; omega
  | acas d a w32 o c => cases h; have := d.isLt; have := a.isLt; have := Bool.toNat_lt w32; have := o.isLt; have := c.isLt; omega
  | fence s => cases h; have := s.isLt; omega
  | fenceC s => cases h; have := s.isLt; omega
  | claim d a b => cases h; have := d.isLt; have := a.isLt; have := b.isLt; omega
  | mfc d c => cases h; have := d.isLt; have := c.isLt; omega
  | mtc a c => cases h; have := a.isLt; have := c.isLt; omega
  | trap c => cases h; have := c.isLt; omega
  | eret => cases h; omega
  | tlbinvVa a => cases h; have := a.isLt; omega
  | tlbinvTok a => cases h; have := a.isLt; omega
  | tlbinvAll => cases h; omega
  | trace a => cases h; have := a.isLt; omega
  | jr a => cases h; have := a.isLt; omega
  | exit => cases h; omega
  | yield => cases h; omega
  | nop => cases h; omega
  | brk => cases h; omega
  | waitwEq d a => cases h; have := d.isLt; have := a.isLt; omega
  | waitwNe d a => cases h; have := d.isLt; have := a.isLt; omega
  | waitwGe d a => cases h; have := d.isLt; have := a.isLt; omega
  | illegalInstruction => simp [encodeNat] at h
  | asyncTrapEntry => simp [encodeNat] at h
  | yieldExpiry => simp [encodeNat] at h
  | elementGroup => simp [encodeNat] at h
  | rowOperationStart => simp [encodeNat] at h
  | refreshSlot => simp [encodeNat] at h
  | refreshAccrual => simp [encodeNat] at h
  | forcedRefresh => simp [encodeNat] at h
  | selfRefreshSlot => simp [encodeNat] at h
  | refreshBandCooling => simp [encodeNat] at h
  | thermalHeating => simp [encodeNat] at h
  | thermalCooling => simp [encodeNat] at h
  | governorInterval => simp [encodeNat] at h
  | governorCheck => simp [encodeNat] at h
  | powerBrake => simp [encodeNat] at h
  | haspOverheat => simp [encodeNat] at h
  | launchRecord => simp [encodeNat] at h
  | prerequisiteWake => simp [encodeNat] at h
  | launchDispatch => simp [encodeNat] at h
  | launchCompletion => simp [encodeNat] at h
  | streamPlacement => simp [encodeNat] at h
  | preemption => simp [encodeNat] at h
  | equalPrioPreempt => simp [encodeNat] at h
  | waitersGiveWay => simp [encodeNat] at h
  | invalidationArrival => simp [encodeNat] at h
  | pageWalk => simp [encodeNat] at h
  | pageRequest => simp [encodeNat] at h
  | slotGrant => simp [encodeNat] at h
  | endpointActivation => simp [encodeNat] at h
  | loadResponse => simp [encodeNat] at h
  | storeAtHome => simp [encodeNat] at h
  | atomicAtHome => simp [encodeNat] at h
  | waitwWriteWake => simp [encodeNat] at h
  | waitwTimerWake => simp [encodeNat] at h
  | detentInstall => simp [encodeNat] at h
  | copySourceRead => simp [encodeNat] at h
  | recordDecompress => simp [encodeNat] at h
  | copyLanding => simp [encodeNat] at h
  | detentWmUpdate => simp [encodeNat] at h
  | detentFree => simp [encodeNat] at h
  | crewForm => simp [encodeNat] at h
  | mmfRelease => simp [encodeNat] at h
  | mmfComplete => simp [encodeNat] at h
  | hingeRetry => simp [encodeNat] at h
  | hingeLinkFail => simp [encodeNat] at h
  | tierOffline => simp [encodeNat] at h
  | offreq => simp [encodeNat] at h
  | regionTableWrite => simp [encodeNat] at h
  | pbudgetWrite => simp [encodeNat] at h
  | savesetsWrite => simp [encodeNat] at h
  | sreqWrite => simp [encodeNat] at h
  | controlSpaceWrite => simp [encodeNat] at h
  | hostAccess => simp [encodeNat] at h
  | peerAccess => simp [encodeNat] at h
  | linkRetrain => simp [encodeNat] at h
  | linkDown => simp [encodeNat] at h
  | hostPortTraining => simp [encodeNat] at h
  | hostPortHotReset => simp [encodeNat] at h
  | coldReset => simp [encodeNat] at h
  | deviceReset => simp [encodeNat] at h
  | spdmMessage => simp [encodeNat] at h
  | mgmtReadTables => simp [encodeNat] at h
  | mgmtWritePbudget => simp [encodeNat] at h
  | mgmtWriteOffreq => simp [encodeNat] at h
  | mgmtLoadImage => simp [encodeNat] at h
  | accessFilterDenial => simp [encodeNat] at h
  | attach => simp [encodeNat] at h
  | detach => simp [encodeNat] at h
  | halt => simp [encodeNat] at h
  | haltPointReached => simp [encodeNat] at h
  | resume => simp [encodeNat] at h
  | readmem => simp [encodeNat] at h
  | writemem => simp [encodeNat] at h
  | readctx => simp [encodeNat] at h
  | writectx => simp [encodeNat] at h
  | readslip => simp [encodeNat] at h
  | instructionFetchFault => simp [encodeNat] at h
  | matrixSliceFailure => simp [encodeNat] at h
  | druthesLinkTrained => simp [encodeNat] at h
  | druthesFlitRetry => simp [encodeNat] at h
  | runtimeRelease => simp [encodeNat] at h
  | runtimeEndsContext => simp [encodeNat] at h

theorem Shape.add (d : NameF) (a : NameF) (b : NameF) : Shape.Statement (.add d a b) := Shape.every _
theorem Shape.sub (d : NameF) (a : NameF) (b : NameF) : Shape.Statement (.sub d a b) := Shape.every _
theorem Shape.and (d : NameF) (a : NameF) (b : NameF) : Shape.Statement (.and d a b) := Shape.every _
theorem Shape.or (d : NameF) (a : NameF) (b : NameF) : Shape.Statement (.or d a b) := Shape.every _
theorem Shape.xor (d : NameF) (a : NameF) (b : NameF) : Shape.Statement (.xor d a b) := Shape.every _
theorem Shape.andn (d : NameF) (a : NameF) (b : NameF) : Shape.Statement (.andn d a b) := Shape.every _
theorem Shape.shl (d : NameF) (a : NameF) (b : NameF) : Shape.Statement (.shl d a b) := Shape.every _
theorem Shape.shr (d : NameF) (a : NameF) (b : NameF) : Shape.Statement (.shr d a b) := Shape.every _
theorem Shape.sar (d : NameF) (a : NameF) (b : NameF) : Shape.Statement (.sar d a b) := Shape.every _
theorem Shape.rol (d : NameF) (a : NameF) (b : NameF) : Shape.Statement (.rol d a b) := Shape.every _
theorem Shape.mul (d : NameF) (a : NameF) (b : NameF) : Shape.Statement (.mul d a b) := Shape.every _
theorem Shape.mulhs (d : NameF) (a : NameF) (b : NameF) : Shape.Statement (.mulhs d a b) := Shape.every _
theorem Shape.mulhn (d : NameF) (a : NameF) (b : NameF) : Shape.Statement (.mulhn d a b) := Shape.every _
theorem Shape.divs (d : NameF) (a : NameF) (b : NameF) : Shape.Statement (.divs d a b) := Shape.every _
theorem Shape.divn (d : NameF) (a : NameF) (b : NameF) : Shape.Statement (.divn d a b) := Shape.every _
theorem Shape.rems (d : NameF) (a : NameF) (b : NameF) : Shape.Statement (.rems d a b) := Shape.every _
theorem Shape.remn (d : NameF) (a : NameF) (b : NameF) : Shape.Statement (.remn d a b) := Shape.every _
theorem Shape.mins (d : NameF) (a : NameF) (b : NameF) : Shape.Statement (.mins d a b) := Shape.every _
theorem Shape.maxs (d : NameF) (a : NameF) (b : NameF) : Shape.Statement (.maxs d a b) := Shape.every _
theorem Shape.minn (d : NameF) (a : NameF) (b : NameF) : Shape.Statement (.minn d a b) := Shape.every _
theorem Shape.maxn (d : NameF) (a : NameF) (b : NameF) : Shape.Statement (.maxn d a b) := Shape.every _
theorem Shape.clz (d : NameF) (a : NameF) : Shape.Statement (.clz d a) := Shape.every _
theorem Shape.ctz (d : NameF) (a : NameF) : Shape.Statement (.ctz d a) := Shape.every _
theorem Shape.popc (d : NameF) (a : NameF) : Shape.Statement (.popc d a) := Shape.every _
theorem Shape.bswap (d : NameF) (a : NameF) : Shape.Statement (.bswap d a) := Shape.every _
theorem Shape.seq (d : NameF) (a : NameF) (b : NameF) : Shape.Statement (.seq d a b) := Shape.every _
theorem Shape.sne (d : NameF) (a : NameF) (b : NameF) : Shape.Statement (.sne d a b) := Shape.every _
theorem Shape.slts (d : NameF) (a : NameF) (b : NameF) : Shape.Statement (.slts d a b) := Shape.every _
theorem Shape.sltn (d : NameF) (a : NameF) (b : NameF) : Shape.Statement (.sltn d a b) := Shape.every _
theorem Shape.sles (d : NameF) (a : NameF) (b : NameF) : Shape.Statement (.sles d a b) := Shape.every _
theorem Shape.slen (d : NameF) (a : NameF) (b : NameF) : Shape.Statement (.slen d a b) := Shape.every _
theorem Shape.sel (d : NameF) (a : NameF) (b : NameF) : Shape.Statement (.sel d a b) := Shape.every _
theorem Shape.extsX8 (d : NameF) (a : NameF) : Shape.Statement (.extsX8 d a) := Shape.every _
theorem Shape.extsX16 (d : NameF) (a : NameF) : Shape.Statement (.extsX16 d a) := Shape.every _
theorem Shape.extsX32 (d : NameF) (a : NameF) : Shape.Statement (.extsX32 d a) := Shape.every _
theorem Shape.extzN8 (d : NameF) (a : NameF) : Shape.Statement (.extzN8 d a) := Shape.every _
theorem Shape.extzN16 (d : NameF) (a : NameF) : Shape.Statement (.extzN16 d a) := Shape.every _
theorem Shape.extzN32 (d : NameF) (a : NameF) : Shape.Statement (.extzN32 d a) := Shape.every _
theorem Shape.bfx (d : NameF) (a : NameF) (b : NameF) : Shape.Statement (.bfx d a b) := Shape.every _
theorem Shape.bfi (d : NameF) (a : NameF) (b : NameF) : Shape.Statement (.bfi d a b) := Shape.every _
theorem Shape.faddS (d : NameF) (a : NameF) (b : NameF) : Shape.Statement (.faddS d a b) := Shape.every _
theorem Shape.fsubS (d : NameF) (a : NameF) (b : NameF) : Shape.Statement (.fsubS d a b) := Shape.every _
theorem Shape.fmulS (d : NameF) (a : NameF) (b : NameF) : Shape.Statement (.fmulS d a b) := Shape.every _
theorem Shape.fdivS (d : NameF) (a : NameF) (b : NameF) : Shape.Statement (.fdivS d a b) := Shape.every _
theorem Shape.fminS (d : NameF) (a : NameF) (b : NameF) : Shape.Statement (.fminS d a b) := Shape.every _
theorem Shape.fmaxS (d : NameF) (a : NameF) (b : NameF) : Shape.Statement (.fmaxS d a b) := Shape.every _
theorem Shape.fcmpS (d : NameF) (a : NameF) (b : NameF) : Shape.Statement (.fcmpS d a b) := Shape.every _
theorem Shape.ffmaS (d : NameF) (a : NameF) (b : NameF) : Shape.Statement (.ffmaS d a b) := Shape.every _
theorem Shape.faddD (d : NameF) (a : NameF) (b : NameF) : Shape.Statement (.faddD d a b) := Shape.every _
theorem Shape.fsubD (d : NameF) (a : NameF) (b : NameF) : Shape.Statement (.fsubD d a b) := Shape.every _
theorem Shape.fmulD (d : NameF) (a : NameF) (b : NameF) : Shape.Statement (.fmulD d a b) := Shape.every _
theorem Shape.fdivD (d : NameF) (a : NameF) (b : NameF) : Shape.Statement (.fdivD d a b) := Shape.every _
theorem Shape.fminD (d : NameF) (a : NameF) (b : NameF) : Shape.Statement (.fminD d a b) := Shape.every _
theorem Shape.fmaxD (d : NameF) (a : NameF) (b : NameF) : Shape.Statement (.fmaxD d a b) := Shape.every _
theorem Shape.fcmpD (d : NameF) (a : NameF) (b : NameF) : Shape.Statement (.fcmpD d a b) := Shape.every _
theorem Shape.ffmaD (d : NameF) (a : NameF) (b : NameF) : Shape.Statement (.ffmaD d a b) := Shape.every _
theorem Shape.fsqrt (d : NameF) (a : NameF) (dbl : Bool) : Shape.Statement (.fsqrt d a dbl) := Shape.every _
theorem Shape.frsqe (d : NameF) (a : NameF) (dbl : Bool) : Shape.Statement (.frsqe d a dbl) := Shape.every _
theorem Shape.frcpe (d : NameF) (a : NameF) (dbl : Bool) : Shape.Statement (.frcpe d a dbl) := Shape.every _
theorem Shape.fclass (d : NameF) (a : NameF) (dbl : Bool) : Shape.Statement (.fclass d a dbl) := Shape.every _
theorem Shape.fcvt (d : NameF) (a : NameF) (s : BitVec 4) : Shape.Statement (.fcvt d a s) := Shape.every _
theorem Shape.addi (d : NameF) (a : NameF) (i : BitVec 12) : Shape.Statement (.addi d a i) := Shape.every _
theorem Shape.andi (d : NameF) (a : NameF) (i : BitVec 12) : Shape.Statement (.andi d a i) := Shape.every _
theorem Shape.ori (d : NameF) (a : NameF) (i : BitVec 12) : Shape.Statement (.ori d a i) := Shape.every _
theorem Shape.xori (d : NameF) (a : NameF) (i : BitVec 12) : Shape.Statement (.xori d a i) := Shape.every _
theorem Shape.shli (d : NameF) (a : NameF) (i : BitVec 6) : Shape.Statement (.shli d a i) := Shape.every _
theorem Shape.shri (d : NameF) (a : NameF) (i : BitVec 6) : Shape.Statement (.shri d a i) := Shape.every _
theorem Shape.sari (d : NameF) (a : NameF) (i : BitVec 6) : Shape.Statement (.sari d a i) := Shape.every _
theorem Shape.sltsi (d : NameF) (a : NameF) (i : BitVec 12) : Shape.Statement (.sltsi d a i) := Shape.every _
theorem Shape.sltni (d : NameF) (a : NameF) (i : BitVec 12) : Shape.Statement (.sltni d a i) := Shape.every _
theorem Shape.movi (d : NameF) (i : BitVec 17) : Shape.Statement (.movi d i) := Shape.every _
theorem Shape.lui (d : NameF) (i : BitVec 17) : Shape.Statement (.lui d i) := Shape.every _
theorem Shape.addpc (d : NameF) (i : BitVec 17) : Shape.Statement (.addpc d i) := Shape.every _
theorem Shape.call (d : NameF) (i : BitVec 19) : Shape.Statement (.call d i) := Shape.every _
theorem Shape.bEqz (a : NameF) (o : BitVec 16) : Shape.Statement (.bEqz a o) := Shape.every _
theorem Shape.bNez (a : NameF) (o : BitVec 16) : Shape.Statement (.bNez a o) := Shape.every _
theorem Shape.bLtz (a : NameF) (o : BitVec 16) : Shape.Statement (.bLtz a o) := Shape.every _
theorem Shape.bGez (a : NameF) (o : BitVec 16) : Shape.Statement (.bGez a o) := Shape.every _
theorem Shape.bGtz (a : NameF) (o : BitVec 16) : Shape.Statement (.bGtz a o) := Shape.every _
theorem Shape.bLez (a : NameF) (o : BitVec 16) : Shape.Statement (.bLez a o) := Shape.every _
theorem Shape.bAny (a : NameF) (o : BitVec 16) : Shape.Statement (.bAny a o) := Shape.every _
theorem Shape.bAll (a : NameF) (o : BitVec 16) : Shape.Statement (.bAll a o) := Shape.every _
theorem Shape.br (o : BitVec 16) : Shape.Statement (.br o) := Shape.every _
theorem Shape.loop (a : NameF) (l : BitVec 11) : Shape.Statement (.loop a l) := Shape.every _
theorem Shape.sloop (d : NameF) (a : NameF) (l : BitVec 11) : Shape.Statement (.sloop d a l) := Shape.every _
theorem Shape.swin (n : BitVec 5) : Shape.Statement (.swin n) := Shape.every _
theorem Shape.vcfg (c : BitVec 2) : Shape.Statement (.vcfg c) := Shape.every _
theorem Shape.vshapeImm (j : BitVec 4) (i : BitVec 4) : Shape.Statement (.vshapeImm j i) := Shape.every _
theorem Shape.act (d : NameF) (a : NameF) (t : BitVec 4) : Shape.Statement (.act d a t) := Shape.every _
theorem Shape.actz (d : NameF) (a : NameF) (t : BitVec 4) : Shape.Statement (.actz d a t) := Shape.every _
theorem Shape.refImm (n : BitVec 4) : Shape.Statement (.refImm n) := Shape.every _
theorem Shape.ld (d : NameF) (a : NameF) (f : BitVec 3) (i : BitVec 9) : Shape.Statement (.ld d a f i) := Shape.every _
theorem Shape.st (d : NameF) (a : NameF) (f : BitVec 2) (i : BitVec 9) : Shape.Statement (.st d a f i) := Shape.every _
theorem Shape.stRel (d : NameF) (a : NameF) (f : BitVec 2) (i : BitVec 9) : Shape.Statement (.stRel d a f i) := Shape.every _
theorem Shape.ldAcq (d : NameF) (a : NameF) (f : BitVec 3) (i : BitVec 9) : Shape.Statement (.ldAcq d a f i) := Shape.every _
theorem Shape.ldc (d : NameF) (a : NameF) (i : BitVec 10) : Shape.Statement (.ldc d a i) := Shape.every _
theorem Shape.pfetch (d : NameF) (a : NameF) (i : BitVec 10) : Shape.Statement (.pfetch d a i) := Shape.every _
theorem Shape.vadd (lastA : Bool) (lastB : Bool) (d : NameF) (a : NameF) (b : NameF) : Shape.Statement (.vadd lastA lastB d a b) := Shape.every _
theorem Shape.vsub (lastA : Bool) (lastB : Bool) (d : NameF) (a : NameF) (b : NameF) : Shape.Statement (.vsub lastA lastB d a b) := Shape.every _
theorem Shape.vmul (lastA : Bool) (lastB : Bool) (d : NameF) (a : NameF) (b : NameF) : Shape.Statement (.vmul lastA lastB d a b) := Shape.every _
theorem Shape.vfma (lastA : Bool) (lastB : Bool) (d : NameF) (a : NameF) (b : NameF) : Shape.Statement (.vfma lastA lastB d a b) := Shape.every _
theorem Shape.vfms (lastA : Bool) (lastB : Bool) (d : NameF) (a : NameF) (b : NameF) : Shape.Statement (.vfms lastA lastB d a b) := Shape.every _
theorem Shape.vfnma (lastA : Bool) (lastB : Bool) (d : NameF) (a : NameF) (b : NameF) : Shape.Statement (.vfnma lastA lastB d a b) := Shape.every _
theorem Shape.vabs (lastA : Bool) (d : NameF) (a : NameF) : Shape.Statement (.vabs lastA d a) := Shape.every _
theorem Shape.vneg (lastA : Bool) (d : NameF) (a : NameF) : Shape.Statement (.vneg lastA d a) := Shape.every _
theorem Shape.vand (lastA : Bool) (lastB : Bool) (d : NameF) (a : NameF) (b : NameF) : Shape.Statement (.vand lastA lastB d a b) := Shape.every _
theorem Shape.vor (lastA : Bool) (lastB : Bool) (d : NameF) (a : NameF) (b : NameF) : Shape.Statement (.vor lastA lastB d a b) := Shape.every _
theorem Shape.vxor (lastA : Bool) (lastB : Bool) (d : NameF) (a : NameF) (b : NameF) : Shape.Statement (.vxor lastA lastB d a b) := Shape.every _
theorem Shape.vandn (lastA : Bool) (lastB : Bool) (d : NameF) (a : NameF) (b : NameF) : Shape.Statement (.vandn lastA lastB d a b) := Shape.every _
theorem Shape.vshl (lastA : Bool) (lastB : Bool) (d : NameF) (a : NameF) (b : NameF) : Shape.Statement (.vshl lastA lastB d a b) := Shape.every _
theorem Shape.vshr (lastA : Bool) (lastB : Bool) (d : NameF) (a : NameF) (b : NameF) : Shape.Statement (.vshr lastA lastB d a b) := Shape.every _
theorem Shape.vsar (lastA : Bool) (lastB : Bool) (d : NameF) (a : NameF) (b : NameF) : Shape.Statement (.vsar lastA lastB d a b) := Shape.every _
theorem Shape.vsel (lastA : Bool) (lastB : Bool) (d : NameF) (a : NameF) (b : NameF) : Shape.Statement (.vsel lastA lastB d a b) := Shape.every _
theorem Shape.vmin (lastA : Bool) (lastB : Bool) (d : NameF) (a : NameF) (b : NameF) : Shape.Statement (.vmin lastA lastB d a b) := Shape.every _
theorem Shape.vminX (lastA : Bool) (lastB : Bool) (d : NameF) (a : NameF) (b : NameF) : Shape.Statement (.vminX lastA lastB d a b) := Shape.every _
theorem Shape.vminN (lastA : Bool) (lastB : Bool) (d : NameF) (a : NameF) (b : NameF) : Shape.Statement (.vminN lastA lastB d a b) := Shape.every _
theorem Shape.vmax (lastA : Bool) (lastB : Bool) (d : NameF) (a : NameF) (b : NameF) : Shape.Statement (.vmax lastA lastB d a b) := Shape.every _
theorem Shape.vmaxX (lastA : Bool) (lastB : Bool) (d : NameF) (a : NameF) (b : NameF) : Shape.Statement (.vmaxX lastA lastB d a b) := Shape.every _
theorem Shape.vmaxN (lastA : Bool) (lastB : Bool) (d : NameF) (a : NameF) (b : NameF) : Shape.Statement (.vmaxN lastA lastB d a b) := Shape.every _
theorem Shape.vmulw (lastA : Bool) (lastB : Bool) (d : NameF) (a : NameF) (b : NameF) : Shape.Statement (.vmulw lastA lastB d a b) := Shape.every _
theorem Shape.vmulwX (lastA : Bool) (lastB : Bool) (d : NameF) (a : NameF) (b : NameF) : Shape.Statement (.vmulwX lastA lastB d a b) := Shape.every _
theorem Shape.vmulwN (lastA : Bool) (lastB : Bool) (d : NameF) (a : NameF) (b : NameF) : Shape.Statement (.vmulwN lastA lastB d a b) := Shape.every _
theorem Shape.vmerge (lastA : Bool) (d : NameF) (a : NameF) (b : NameF) : Shape.Statement (.vmerge lastA d a b) := Shape.every _
theorem Shape.vrsqe (lastA : Bool) (d : NameF) (a : NameF) : Shape.Statement (.vrsqe lastA d a) := Shape.every _
theorem Shape.vrcpe (lastA : Bool) (d : NameF) (a : NameF) : Shape.Statement (.vrcpe lastA d a) := Shape.every _
theorem Shape.vexp2e (lastA : Bool) (d : NameF) (a : NameF) : Shape.Statement (.vexp2e lastA d a) := Shape.every _
theorem Shape.viota (lastA : Bool) (d : NameF) (a : NameF) : Shape.Statement (.viota lastA d a) := Shape.every _
theorem Shape.vbcast (lastA : Bool) (d : NameF) (a : NameF) (b : NameF) : Shape.Statement (.vbcast lastA d a b) := Shape.every _
theorem Shape.vclr (lastA : Bool) (d : NameF) (a : NameF) : Shape.Statement (.vclr lastA d a) := Shape.every _
theorem Shape.vins (d : NameF) (a : NameF) (b : NameF) : Shape.Statement (.vins d a b) := Shape.every _
theorem Shape.vext (lastA : Bool) (d : NameF) (a : NameF) (b : NameF) : Shape.Statement (.vext lastA d a b) := Shape.every _
theorem Shape.vslideUp (lastA : Bool) (d : NameF) (a : NameF) (b : NameF) : Shape.Statement (.vslideUp lastA d a b) := Shape.every _
theorem Shape.vslideDn (lastA : Bool) (d : NameF) (a : NameF) (b : NameF) : Shape.Statement (.vslideDn lastA d a b) := Shape.every _
theorem Shape.vperm (lastA : Bool) (lastB : Bool) (d : NameF) (a : NameF) (b : NameF) : Shape.Statement (.vperm lastA lastB d a b) := Shape.every _
theorem Shape.vcopy (lastA : Bool) (d : NameF) (a : NameF) : Shape.Statement (.vcopy lastA d a) := Shape.every _
theorem Shape.vshape (a : NameF) (b : NameF) : Shape.Statement (.vshape a b) := Shape.every _
theorem Shape.pmovs (d : NameF) (a : NameF) (b : NameF) : Shape.Statement (.pmovs d a b) := Shape.every _
theorem Shape.vred (lastA : Bool) (d : NameF) (a : NameF) (s : BitVec 7) : Shape.Statement (.vred lastA d a s) := Shape.every _
theorem Shape.vcmpEq (lastA : Bool) (lastB : Bool) (d : NameF) (a : NameF) (b : NameF) : Shape.Statement (.vcmpEq lastA lastB d a b) := Shape.every _
theorem Shape.vcmpNe (lastA : Bool) (lastB : Bool) (d : NameF) (a : NameF) (b : NameF) : Shape.Statement (.vcmpNe lastA lastB d a b) := Shape.every _
theorem Shape.vcmpLt (lastA : Bool) (lastB : Bool) (d : NameF) (a : NameF) (b : NameF) : Shape.Statement (.vcmpLt lastA lastB d a b) := Shape.every _
theorem Shape.vcmpLe (lastA : Bool) (lastB : Bool) (d : NameF) (a : NameF) (b : NameF) : Shape.Statement (.vcmpLe lastA lastB d a b) := Shape.every _
theorem Shape.vcmpUn (lastA : Bool) (lastB : Bool) (d : NameF) (a : NameF) (b : NameF) : Shape.Statement (.vcmpUn lastA lastB d a b) := Shape.every _
theorem Shape.vcmpLtX (lastA : Bool) (lastB : Bool) (d : NameF) (a : NameF) (b : NameF) : Shape.Statement (.vcmpLtX lastA lastB d a b) := Shape.every _
theorem Shape.vcmpLeX (lastA : Bool) (lastB : Bool) (d : NameF) (a : NameF) (b : NameF) : Shape.Statement (.vcmpLeX lastA lastB d a b) := Shape.every _
theorem Shape.vcmpLtN (lastA : Bool) (lastB : Bool) (d : NameF) (a : NameF) (b : NameF) : Shape.Statement (.vcmpLtN lastA lastB d a b) := Shape.every _
theorem Shape.vcmpLeN (lastA : Bool) (lastB : Bool) (d : NameF) (a : NameF) (b : NameF) : Shape.Statement (.vcmpLeN lastA lastB d a b) := Shape.every _
theorem Shape.vcvt (lastA : Bool) (d : NameF) (a : NameF) (r : BitVec 3) (t : BitVec 4) : Shape.Statement (.vcvt lastA d a r t) := Shape.every _
theorem Shape.vcvtX (lastA : Bool) (d : NameF) (a : NameF) (r : BitVec 3) (t : BitVec 4) : Shape.Statement (.vcvtX lastA d a r t) := Shape.every _
theorem Shape.vcvtN (lastA : Bool) (d : NameF) (a : NameF) (r : BitVec 3) (t : BitVec 4) : Shape.Statement (.vcvtN lastA d a r t) := Shape.every _
theorem Shape.vscl (lastA : Bool) (d : NameF) (a : NameF) (b : NameF) : Shape.Statement (.vscl lastA d a b) := Shape.every _
theorem Shape.pand (d : NameF) (a : NameF) (b : NameF) : Shape.Statement (.pand d a b) := Shape.every _
theorem Shape.por (d : NameF) (a : NameF) (b : NameF) : Shape.Statement (.por d a b) := Shape.every _
theorem Shape.pxor (d : NameF) (a : NameF) (b : NameF) : Shape.Statement (.pxor d a b) := Shape.every _
theorem Shape.pandn (d : NameF) (a : NameF) (b : NameF) : Shape.Statement (.pandn d a b) := Shape.every _
theorem Shape.pnot (d : NameF) (a : NameF) : Shape.Statement (.pnot d a) := Shape.every _
theorem Shape.pcnt (d : NameF) (a : NameF) : Shape.Statement (.pcnt d a) := Shape.every _
theorem Shape.pfirst (d : NameF) (a : NameF) : Shape.Statement (.pfirst d a) := Shape.every _
theorem Shape.pset (d : NameF) (a : NameF) : Shape.Statement (.pset d a) := Shape.every _
theorem Shape.shuf (lastA : Bool) (d : NameF) (a : NameF) (b : NameF) : Shape.Statement (.shuf lastA d a b) := Shape.every _
theorem Shape.shufx (lastA : Bool) (d : NameF) (a : NameF) (b : NameF) : Shape.Statement (.shufx lastA d a b) := Shape.every _
theorem Shape.gbcast (lastA : Bool) (d : NameF) (a : NameF) (b : NameF) : Shape.Statement (.gbcast lastA d a b) := Shape.every _
theorem Shape.gbar : Shape.Statement .gbar := Shape.every _
theorem Shape.gsplit (a : NameF) (b : NameF) : Shape.Statement (.gsplit a b) := Shape.every _
theorem Shape.gjoin : Shape.Statement .gjoin := Shape.every _
theorem Shape.gsync : Shape.Statement .gsync := Shape.every _
theorem Shape.gred (lastA : Bool) (d : NameF) (a : NameF) (s : BitVec 7) : Shape.Statement (.gred lastA d a s) := Shape.every _
theorem Shape.wb (d : NameF) : Shape.Statement (.wb d) := Shape.every _
theorem Shape.pre (d : NameF) : Shape.Statement (.pre d) := Shape.every _
theorem Shape.rcopy (d : NameF) (a : NameF) : Shape.Statement (.rcopy d a) := Shape.every _
theorem Shape.tag (d : NameF) (t : BitVec 4) : Shape.Statement (.tag d t) := Shape.every _
theorem Shape.saverow (d : NameF) (a : NameF) (b : NameF) : Shape.Statement (.saverow d a b) := Shape.every _
theorem Shape.loadrow (d : NameF) (a : NameF) (b : NameF) : Shape.Statement (.loadrow d a b) := Shape.every _
theorem Shape.refScalar (a : NameF) : Shape.Statement (.refScalar a) := Shape.every _
theorem Shape.mshape (d : NameF) (a : NameF) : Shape.Statement (.mshape d a) := Shape.every _
theorem Shape.mzero (d : NameF) : Shape.Statement (.mzero d) := Shape.every _
theorem Shape.mmf (lastA : Bool) (lastB : Bool) (d : NameF) (a : NameF) (b : NameF) : Shape.Statement (.mmf lastA lastB d a b) := Shape.every _
theorem Shape.mmfO (lastA : Bool) (lastB : Bool) (d : NameF) (a : NameF) (b : NameF) : Shape.Statement (.mmfO lastA lastB d a b) := Shape.every _
theorem Shape.mwait : Shape.Statement .mwait := Shape.every _
theorem Shape.mstat (d : NameF) (a : NameF) : Shape.Statement (.mstat d a) := Shape.every _
theorem Shape.cset (a : NameF) (s : BitVec 7) : Shape.Statement (.cset a s) := Shape.every _
theorem Shape.cgo (d : NameF) : Shape.Statement (.cgo d) := Shape.every _
theorem Shape.cwait (d : NameF) (a : NameF) : Shape.Statement (.cwait d a) := Shape.every _
theorem Shape.cstat (d : NameF) (a : NameF) : Shape.Statement (.cstat d a) := Shape.every _
theorem Shape.ccancel (a : NameF) : Shape.Statement (.ccancel a) := Shape.every _
theorem Shape.cresume (a : NameF) : Shape.Statement (.cresume a) := Shape.every _
theorem Shape.aadd (d : NameF) (a : NameF) (w32 : Bool) (o : BitVec 2) (c : BitVec 3) : Shape.Statement (.aadd d a w32 o c) := Shape.every _
theorem Shape.ainc (d : NameF) (a : NameF) (w32 : Bool) (o : BitVec 2) (c : BitVec 3) : Shape.Statement (.ainc d a w32 o c) := Shape.every _
theorem Shape.amins (d : NameF) (a : NameF) (w32 : Bool) (o : BitVec 2) (c : BitVec 3) : Shape.Statement (.amins d a w32 o c) := Shape.every _
theorem Shape.amaxs (d : NameF) (a : NameF) (w32 : Bool) (o : BitVec 2) (c : BitVec 3) : Shape.Statement (.amaxs d a w32 o c) := Shape.every _
theorem Shape.aminn (d : NameF) (a : NameF) (w32 : Bool) (o : BitVec 2) (c : BitVec 3) : Shape.Statement (.aminn d a w32 o c) := Shape.every _
theorem Shape.amaxn (d : NameF) (a : NameF) (w32 : Bool) (o : BitVec 2) (c : BitVec 3) : Shape.Statement (.amaxn d a w32 o c) := Shape.every _
theorem Shape.aand (d : NameF) (a : NameF) (w32 : Bool) (o : BitVec 2) (c : BitVec 3) : Shape.Statement (.aand d a w32 o c) := Shape.every _
theorem Shape.aor (d : NameF) (a : NameF) (w32 : Bool) (o : BitVec 2) (c : BitVec 3) : Shape.Statement (.aor d a w32 o c) := Shape.every _
theorem Shape.axor (d : NameF) (a : NameF) (w32 : Bool) (o : BitVec 2) (c : BitVec 3) : Shape.Statement (.axor d a w32 o c) := Shape.every _
theorem Shape.axchg (d : NameF) (a : NameF) (w32 : Bool) (o : BitVec 2) (c : BitVec 3) : Shape.Statement (.axchg d a w32 o c) := Shape.every _
theorem Shape.acas (d : NameF) (a : NameF) (w32 : Bool) (o : BitVec 2) (c : BitVec 3) : Shape.Statement (.acas d a w32 o c) := Shape.every _
theorem Shape.fence (s : BitVec 3) : Shape.Statement (.fence s) := Shape.every _
theorem Shape.fenceC (s : BitVec 3) : Shape.Statement (.fenceC s) := Shape.every _
theorem Shape.claim (d : NameF) (a : NameF) (b : NameF) : Shape.Statement (.claim d a b) := Shape.every _
theorem Shape.mfc (d : NameF) (c : BitVec 7) : Shape.Statement (.mfc d c) := Shape.every _
theorem Shape.mtc (a : NameF) (c : BitVec 7) : Shape.Statement (.mtc a c) := Shape.every _
theorem Shape.trap (c : BitVec 7) : Shape.Statement (.trap c) := Shape.every _
theorem Shape.eret : Shape.Statement .eret := Shape.every _
theorem Shape.tlbinvVa (a : NameF) : Shape.Statement (.tlbinvVa a) := Shape.every _
theorem Shape.tlbinvTok (a : NameF) : Shape.Statement (.tlbinvTok a) := Shape.every _
theorem Shape.tlbinvAll : Shape.Statement .tlbinvAll := Shape.every _
theorem Shape.trace (a : NameF) : Shape.Statement (.trace a) := Shape.every _
theorem Shape.jr (a : NameF) : Shape.Statement (.jr a) := Shape.every _
theorem Shape.exit : Shape.Statement .exit := Shape.every _
theorem Shape.yield : Shape.Statement .yield := Shape.every _
theorem Shape.nop : Shape.Statement .nop := Shape.every _
theorem Shape.brk : Shape.Statement .brk := Shape.every _
theorem Shape.waitwEq (d : NameF) (a : NameF) : Shape.Statement (.waitwEq d a) := Shape.every _
theorem Shape.waitwNe (d : NameF) (a : NameF) : Shape.Statement (.waitwNe d a) := Shape.every _
theorem Shape.waitwGe (d : NameF) (a : NameF) : Shape.Statement (.waitwGe d a) := Shape.every _
theorem Shape.illegalInstruction (w : BitVec 32) : Shape.Statement (.illegalInstruction w) := Shape.every _
theorem Shape.asyncTrapEntry : Shape.Statement .asyncTrapEntry := Shape.every _
theorem Shape.yieldExpiry (id : Nat) : Shape.Statement (.yieldExpiry id) := Shape.every _
theorem Shape.elementGroup (bank : Nat) : Shape.Statement (.elementGroup bank) := Shape.every _
theorem Shape.rowOperationStart (core : Nat) (bank : Nat) : Shape.Statement (.rowOperationStart core bank) := Shape.every _
theorem Shape.refreshSlot (core : Nat) (bank : Nat) : Shape.Statement (.refreshSlot core bank) := Shape.every _
theorem Shape.refreshAccrual (tier : Nat) : Shape.Statement (.refreshAccrual tier) := Shape.every _
theorem Shape.forcedRefresh (core : Nat) (bank : Nat) : Shape.Statement (.forcedRefresh core bank) := Shape.every _
theorem Shape.selfRefreshSlot (core : Nat) (bank : Nat) : Shape.Statement (.selfRefreshSlot core bank) := Shape.every _
theorem Shape.refreshBandCooling (tier : Nat) : Shape.Statement (.refreshBandCooling tier) := Shape.every _
theorem Shape.thermalHeating (tier : Nat) (temp : Nat) : Shape.Statement (.thermalHeating tier temp) := Shape.every _
theorem Shape.thermalCooling (tier : Nat) (temp : Nat) : Shape.Statement (.thermalCooling tier temp) := Shape.every _
theorem Shape.governorInterval (hprev : Nat) (used : List Nat) : Shape.Statement (.governorInterval hprev used) := Shape.every _
theorem Shape.governorCheck (stack : Nat) (proj : Nat) (hottest : Nat) : Shape.Statement (.governorCheck stack proj hottest) := Shape.every _
theorem Shape.powerBrake (asserted : Bool) : Shape.Statement (.powerBrake asserted) := Shape.every _
theorem Shape.haspOverheat : Shape.Statement .haspOverheat := Shape.every _
theorem Shape.launchRecord (queue : Nat) : Shape.Statement (.launchRecord queue) := Shape.every _
theorem Shape.prerequisiteWake (seq : Nat) : Shape.Statement (.prerequisiteWake seq) := Shape.every _
theorem Shape.launchDispatch : Shape.Statement .launchDispatch := Shape.every _
theorem Shape.launchCompletion (seq : Nat) : Shape.Statement (.launchCompletion seq) := Shape.every _
theorem Shape.streamPlacement : Shape.Statement .streamPlacement := Shape.every _
theorem Shape.preemption (id : Nat) : Shape.Statement (.preemption id) := Shape.every _
theorem Shape.equalPrioPreempt (id : Nat) : Shape.Statement (.equalPrioPreempt id) := Shape.every _
theorem Shape.waitersGiveWay (id : Nat) : Shape.Statement (.waitersGiveWay id) := Shape.every _
theorem Shape.invalidationArrival (core : Nat) (sel : InvSel) : Shape.Statement (.invalidationArrival core sel) := Shape.every _
theorem Shape.pageWalk (asid : Nat) (va : Nat) : Shape.Statement (.pageWalk asid va) := Shape.every _
theorem Shape.pageRequest (asid : Nat) (va : Nat) : Shape.Statement (.pageRequest asid va) := Shape.every _
theorem Shape.slotGrant (core : Nat) : Shape.Statement (.slotGrant core) := Shape.every _
theorem Shape.endpointActivation (core : Nat) : Shape.Statement (.endpointActivation core) := Shape.every _
theorem Shape.loadResponse (id : Nat) : Shape.Statement (.loadResponse id) := Shape.every _
theorem Shape.storeAtHome (k : Nat) : Shape.Statement (.storeAtHome k) := Shape.every _
theorem Shape.atomicAtHome (link : Nat) (kind : PeerAtomic) (pa : Nat) (d : BitVec 64) (new : BitVec 64) : Shape.Statement (.atomicAtHome link kind pa d new) := Shape.every _
theorem Shape.waitwWriteWake (core : Nat) : Shape.Statement (.waitwWriteWake core) := Shape.every _
theorem Shape.waitwTimerWake (id : Nat) : Shape.Statement (.waitwTimerWake id) := Shape.every _
theorem Shape.detentInstall (id : Nat) : Shape.Statement (.detentInstall id) := Shape.every _
theorem Shape.copySourceRead (core : Nat) (slot : Nat) : Shape.Statement (.copySourceRead core slot) := Shape.every _
theorem Shape.recordDecompress (core : Nat) (slot : Nat) : Shape.Statement (.recordDecompress core slot) := Shape.every _
theorem Shape.copyLanding (core : Nat) (slot : Nat) : Shape.Statement (.copyLanding core slot) := Shape.every _
theorem Shape.detentWmUpdate (core : Nat) (detent : Detent) : Shape.Statement (.detentWmUpdate core detent) := Shape.every _
theorem Shape.detentFree (core : Nat) (slot : Nat) : Shape.Statement (.detentFree core slot) := Shape.every _
theorem Shape.crewForm (core : Nat) : Shape.Statement (.crewForm core) := Shape.every _
theorem Shape.mmfRelease (core : Nat) : Shape.Statement (.mmfRelease core) := Shape.every _
theorem Shape.mmfComplete (core : Nat) : Shape.Statement (.mmfComplete core) := Shape.every _
theorem Shape.hingeRetry (core : Nat) : Shape.Statement (.hingeRetry core) := Shape.every _
theorem Shape.hingeLinkFail (core : Nat) : Shape.Statement (.hingeLinkFail core) := Shape.every _
theorem Shape.tierOffline (tier : Nat) : Shape.Statement (.tierOffline tier) := Shape.every _
theorem Shape.offreq (tier : Nat) : Shape.Statement (.offreq tier) := Shape.every _
theorem Shape.regionTableWrite (i : Nat) (word : Nat) (v : BitVec 64) : Shape.Statement (.regionTableWrite i word v) := Shape.every _
theorem Shape.pbudgetWrite (v : BitVec 64) : Shape.Statement (.pbudgetWrite v) := Shape.every _
theorem Shape.savesetsWrite (v : BitVec 64) : Shape.Statement (.savesetsWrite v) := Shape.every _
theorem Shape.sreqWrite (core : Nat) (v : BitVec 64) : Shape.Statement (.sreqWrite core v) := Shape.every _
theorem Shape.controlSpaceWrite (off : Nat) (v : BitVec 64) : Shape.Statement (.controlSpaceWrite off v) := Shape.every _
theorem Shape.hostAccess (port : Nat) (off : Nat) (n : Nat) (data : Option Nat) : Shape.Statement (.hostAccess port off n data) := Shape.every _
theorem Shape.peerAccess (link : Nat) (addr : Nat) (n : Nat) (data : Option Nat) : Shape.Statement (.peerAccess link addr n data) := Shape.every _
theorem Shape.linkRetrain (link : Nat) : Shape.Statement (.linkRetrain link) := Shape.every _
theorem Shape.linkDown (host : Bool) (i : Nat) : Shape.Statement (.linkDown host i) := Shape.every _
theorem Shape.hostPortTraining (port : Nat) (mode : Nat) (width : Nat) : Shape.Statement (.hostPortTraining port mode width) := Shape.every _
theorem Shape.hostPortHotReset (port : Nat) : Shape.Statement (.hostPortHotReset port) := Shape.every _
theorem Shape.coldReset (patch : Image) (runtime : Image) : Shape.Statement (.coldReset patch runtime) := Shape.every _
theorem Shape.deviceReset (session : Bool) : Shape.Statement (.deviceReset session) := Shape.every _
theorem Shape.spdmMessage (index : Nat) : Shape.Statement (.spdmMessage index) := Shape.every _
theorem Shape.mgmtReadTables (off : Nat) : Shape.Statement (.mgmtReadTables off) := Shape.every _
theorem Shape.mgmtWritePbudget (session : Bool) (v : BitVec 64) : Shape.Statement (.mgmtWritePbudget session v) := Shape.every _
theorem Shape.mgmtWriteOffreq (session : Bool) (tier : Nat) : Shape.Statement (.mgmtWriteOffreq session tier) := Shape.every _
theorem Shape.mgmtLoadImage (session : Bool) (img : Image) : Shape.Statement (.mgmtLoadImage session img) := Shape.every _
theorem Shape.accessFilterDenial : Shape.Statement .accessFilterDenial := Shape.every _
theorem Shape.attach (queue : Nat) : Shape.Statement (.attach queue) := Shape.every _
theorem Shape.detach (queue : Nat) : Shape.Statement (.detach queue) := Shape.every _
theorem Shape.halt (queue : Nat) : Shape.Statement (.halt queue) := Shape.every _
theorem Shape.haltPointReached (id : Nat) : Shape.Statement (.haltPointReached id) := Shape.every _
theorem Shape.resume (queue : Nat) : Shape.Statement (.resume queue) := Shape.every _
theorem Shape.readmem (queue : Nat) : Shape.Statement (.readmem queue) := Shape.every _
theorem Shape.writemem (queue : Nat) : Shape.Statement (.writemem queue) := Shape.every _
theorem Shape.readctx (queue : Nat) : Shape.Statement (.readctx queue) := Shape.every _
theorem Shape.writectx (queue : Nat) : Shape.Statement (.writectx queue) := Shape.every _
theorem Shape.readslip (queue : Nat) : Shape.Statement (.readslip queue) := Shape.every _
theorem Shape.instructionFetchFault : Shape.Statement .instructionFetchFault := Shape.every _
theorem Shape.matrixSliceFailure (core : Nat) : Shape.Statement (.matrixSliceFailure core) := Shape.every _
theorem Shape.druthesLinkTrained (link : Nat) (gen : Nat) (lanes : Nat) (peer : Nat) : Shape.Statement (.druthesLinkTrained link gen lanes peer) := Shape.every _
theorem Shape.druthesFlitRetry (link : Nat) : Shape.Statement (.druthesFlitRetry link) := Shape.every _
theorem Shape.runtimeRelease : Shape.Statement .runtimeRelease := Shape.every _
theorem Shape.runtimeEndsContext (id : Nat) : Shape.Statement (.runtimeEndsContext id) := Shape.every _

end Sys2Proof.Laws
end

