-- ==== Sys2Proof/Laws/Trace.lean ====
section
/-! SUPPORT. What a write of memory, and the trace record of R381, change of the running context: at most that it is woken (R127, R311). -/

namespace Sys2Proof.Machine

/-- Contexts that differ at most in what a wake changes. -/
def Context.Woken (c d : Context) : Prop :=
  ∃ p st n b, d = { c with parked := p, stall := st, since := n, sib := b }

theorem Context.Woken.refl (c : Context) : c.Woken c := ⟨c.parked, c.stall, c.since, c.sib, rfl⟩

theorem Context.Woken.trans {c d e : Context} (h : c.Woken d) (k : d.Woken e) : c.Woken e := by
  obtain ⟨_, _, _, _, rfl⟩ := h
  obtain ⟨p, st, n, b, rfl⟩ := k
  exact ⟨p, st, n, b, rfl⟩

theorem Context.wakeIf_woken (c : Context) (now : Nat) (p : Nat → Bool) : c.Woken (c.wakeIf now p) := by
  unfold Context.wakeIf
  split
  · exact ⟨_, _, _, _, rfl⟩
  · exact ⟨c.parked, c.stall, c.since, _, rfl⟩

/-- A fold each of whose steps leaves the running context, but for a wake, does so too. -/
theorem foldl_woken {β : Type} (f : State → β → State) (h : ∀ (s : State) b, s.ctx.Woken (f s b).ctx) (bs : List β) (s : State) :
    s.ctx.Woken (bs.foldl f s).ctx := by
  induction bs generalizing s with
  | nil => exact .refl _
  | cons b t ih => exact (h s b).trans (ih _)

@[simp] theorem State.corrected_ctx (s : State) (l n : Nat) : (s.corrected l n).ctx = s.ctx := by
  unfold State.corrected; split <;> rfl

@[simp] theorem State.rewritten_ctx (s : State) (l n : Nat) : (s.rewritten l n).ctx = s.ctx := by
  unfold State.rewritten
  split
  · rfl
  · exact foldl_keeps _ State.ctx (fun t k => by split <;> simp) _ s

theorem State.wakeBucket_woken (s : State) (l : Nat) : s.ctx.Woken (s.wakeBucket l).ctx := by
  unfold State.wakeBucket
  simp only
  split
  · exact .refl _
  · simp only [State.mapCtxs]
    split
    · exact Context.wakeIf_woken ..
    · exact .refl _

theorem State.writeLoc_woken (s : State) (l n v : Nat) : s.ctx.Woken (s.writeLoc l n v).ctx := by
  unfold State.writeLoc State.wakeBuckets
  simp only
  split
  · refine .trans ?_ (foldl_woken _ (fun t i => t.wakeBucket_woken _) _ _)
    simpa [State.wake, State.mapCtxs, Context.wake] using Context.wakeIf_woken s.ctx _ _
  · simpa [State.wake, State.mapCtxs, Context.wake] using Context.wakeIf_woken s.ctx _ _

@[simp] theorem State.murky_ctx (s : State) (l n v : Nat) : (s.murky l n v).ctx = s.ctx := by
  unfold State.murky
  split
  · exact foldl_keeps _ State.ctx (fun t k => by split <;> rfl) _ s
  · rfl

@[simp] theorem State.notice_ctx (s : State) (pa n : Nat) : (s.notice pa n).ctx = s.ctx := by
  unfold State.notice
  split
  · refine foldl_keeps _ State.ctx ?_ _ _
    intro t k
    rfl
  · rfl

@[simp] theorem State.reached_ctx (s : State) (core cls pa : Nat) : (s.reached core cls pa).ctx = s.ctx := by
  unfold State.reached
  dsimp only
  split <;> split <;> rfl

@[simp] theorem State.counted_ctx (s : State) (pa : Nat) : (s.counted pa).ctx = s.ctx := by
  unfold State.counted; split <;> rfl

@[simp] theorem State.serve_ctx (s : State) (pa : Nat) : (s.serve pa).ctx = s.ctx := by simp [State.serve]

/-- A write changes of the running context at most what a wake changes. -/
theorem State.writeCells_woken (s : State) (pa n v : Nat) : s.ctx.Woken (s.writeCells pa n v).ctx := by
  simpa [State.writeCells, State.writeBytes] using s.writeLoc_woken (s.locOf pa) n v

theorem State.traceStores_woken (s t : State) (owner : Word) (l : List (Nat × Nat × Nat)) (h : s.traceStores owner l = .ok t) :
    s.ctx.Woken t.ctx := by
  induction l generalizing s with
  | nil => cases h; exact .refl _
  | cons e l ih =>
    simp only [State.traceStores] at h
    split at h
    · split at h
      · cases h
      · exact (s.writeCells_woken ..).trans (ih _ h)
    · cases h

/-- A trace record changes of the running context at most what a wake changes (R381). -/
theorem State.emitTrace_woken (s : State) (typ cause w8 w16 : Nat) : s.ctx.Woken (s.emitTrace typ cause w8 w16).ctx := by
  simp only [State.emitTrace]
  split
  · simp only [State.sendTrace]
    split
    · exact .refl _
    · split
      · rename_i h
        simp only [State.writeTrace] at h
        split at h
        · cases h
        · split at h
          · cases h
          exact State.traceStores_woken s.tick _ _ _ h
      · exact .refl _
      · exact .refl _
  · exact .refl _

end Sys2Proof.Machine
end

