-- ==== Sys2Proof/Tests/Slice0.lean ====
section
/-! SUPPORT. Tests: ill-formed terms are refused, the spec's example words decode as it says, its worked values come out, and every
statement's hypotheses are met by a state and operands shown here. Expected results are the spec's, cited in each comment. -/

namespace Sys2Proof.Tests

set_option Elab.async false

open Sys2Proof Sys2Proof.Machine

/-! Helpers. -/

/-- A stream of core 2, bank 0, about to run at address 0 in a 1 GiB page of its own, whose first rows are that core's. -/
def base : State :=
  let s := State.reset.withFetchWord 32 0x7B000003
  s.withCtx { s.ctx with pc := 0, tvec := 0x1000, nslots := 2, core := 2 }

/-- The page of base. -/
def page : Page := ⟨0x40000000, 0x40000000, true, true, true, true, false, 0⟩

/-- base with other registers. -/
def withRegs (f : Context → Context) : State := base.withCtx (f base.ctx)

/-- base with scalar values from s1 on. -/
def scal (vs : List Word) : State :=
  withRegs fun c => { c with scalars := (List.range vs.length).foldl (fun t i => tabPut t (i + 1) (vs.getD i 0)) [] }

/-- The next state, or reset where there is none. -/
def after (i : Instr) (s : State) : State := match exec i s with
  | .next t => t
  | _ => State.reset

/-- The state a step leads to, or reset where there is none. -/
def stepped (s : State) : State := match step s with
  | .next t => t
  | _ => State.reset

/-- A scalar of the stream. -/
def sv (t : State) (j : Nat) : Word := t.ctx.read (BitVec.ofNat 7 (32 + j))

/-! Well-formedness: an ill-formed term for each check. -/

theorem test_wf_selectors : [Instr.fcvt 32 33 10, .vred false 0 1 10, .gred false 0 1 10, .cset 33 22].all
    (fun i => i.wf == false && encode i != none) = true := by decide +kernel
theorem test_wf_lengths : [Instr.loop 33 0, .sloop 32 33 0, .vshapeImm 8 7, .refImm 0, .refImm 9].all (fun i => i.wf == false) = true := by
  decide +kernel
theorem test_wf_access : [Instr.ld 32 33 7 0, .ldAcq 32 33 7 0, .fence 6, .fenceC 7].all (fun i => i.wf == false) = true := by decide +kernel
theorem test_wf_scopes : [Instr.aadd 32 33 false 0 6, .ainc 32 33 false 0 7, .amins 32 33 false 0 6, .amaxs 32 33 false 0 6,
    .aminn 32 33 false 0 6, .amaxn 32 33 false 0 6, .aand 32 33 false 0 6, .aor 32 33 false 0 6, .axor 32 33 false 0 6,
    .axchg 32 33 false 0 6, .acas 32 33 false 0 6].all (fun i => i.wf == false) = true := by decide +kernel
theorem test_wf_conversions : [Instr.vcvt false 0 1 5 1, .vcvt false 0 1 0 0, .vcvt false 0 1 0 8, .vcvtX false 0 1 5 1,
    .vcvtX false 0 1 0 4, .vcvtN false 0 1 5 1, .vcvtN false 0 1 0 12].all (fun i => i.wf == false) = true := by decide +kernel
theorem test_wf_units : [Instr.elementGroup 16, .rowOperationStart 1024 0, .refreshSlot 0 16, .refreshAccrual 128, .forcedRefresh 1024 0,
    .selfRefreshSlot 0 16, .refreshBandCooling 128, .thermalHeating 128 60, .thermalCooling 128 60, .launchRecord 64,
    .copySourceRead 1024 0, .recordDecompress 0 16, .copyLanding 0 16, .detentWmUpdate 1024 ⟨0, 0⟩, .detentFree 0 16, .tierOffline 128,
    .offreq 128, .regionTableWrite 16 0 0, .regionTableWrite 0 16 0].all (fun i => i.wf == false) = true := by decide +kernel

/-! Decoding: words the spec writes out for each family. -/

/-- R70, R75, R89: the encoding examples of 03. -/
theorem test_decode_examples :
    decode 0x04095327 = some (.add 37 38 39) ∧ decode 0x21A0818C = some (.vfma false true 2 3 12) ∧
    decode 0x48010022 = some (.vcvt false 4 0 2 2) ∧ decode 0xB1524A04 = some (.ld 42 36 5 4) ∧
    decode 0xC8A3FFFC = some (.bNez 35 0xFFFC) ∧ decode 0xD80B4002 = some (.act 1 52 2) ∧
    decode 0xC119FFFB = some (.movi 35 0x1FFFB) ∧ decode 0x7B000003 = some .nop := by decide +kernel
/-- The control codes (R110, R122) and the row codes (R128). -/
theorem test_decode_control_and_rows :
    decode 0x7B000001 = some .exit ∧ decode 0x7B000002 = some .yield ∧ decode 0x7B000004 = some .brk ∧
    decode 0xD8035401 = some (.actz 0 53 1) ∧ decode 0xD8000802 = some (.refImm 2) ∧ decode 0xD4000401 = some (.vcfg 1) ∧
    decode 0x5C004000 = some (.wb 1) ∧ decode 0x5C804000 = some (.pre 1) ∧ decode 0x5D099280 = some (.rcopy 38 37) ∧
    decode 0x5D80C002 = some (.tag 3 2) ∧ decode 0x5E009429 = some (.saverow 2 40 41) ∧
    decode 0x5E809429 = some (.loadrow 2 40 41) ∧ decode 0x5F001380 = some (.refScalar 39) := by decide +kernel
/-- The vector codes (R171). -/
theorem test_decode_vectors :
    decode 0x20000082 = some (.vadd false false 0 1 2) ∧ decode 0x218080A6 = some (.vfma false false 2 1 38) ∧
    decode 0x2B000104 = some (.vmulw false false 0 2 4) ∧ decode 0x2C80C092 = some (.vmerge false 3 1 18) ∧
    decode 0x2D008080 = some (.vrsqe false 2 1) ∧ decode 0x33001225 = some (.vshape 36 37) ∧
    decode 0x34010000 = some (.vred false 4 0 0) ∧ decode 0x39044018 = some (.vcmpLt false false 17 0 24) ∧
    decode 0x498040A5 = some (.vscl false 1 1 37) ∧ decode 0x5288C800 = some (.pcnt 35 16) := by decide +kernel
/-- The gang codes (R199). -/
theorem test_decode_gangs :
    decode 0x54004029 = some (.shuf false 1 0 41) ∧ decode 0x5480802C = some (.shufx false 2 0 44) ∧
    decode 0x5500C418 = some (.gbcast false 3 8 24) ∧ decode 0x55800000 = some .gbar ∧ decode 0x560008A6 = some (.gsplit 17 38) ∧
    decode 0x56800000 = some .gjoin ∧ decode 0x57000000 = some .gsync ∧ decode 0x58010000 = some (.gred false 4 0 0) := by decide +kernel
/-- The copy codes (R231) and the matrix codes (R254). -/
theorem test_decode_copies_and_matrix :
    decode 0x68001280 = some (.cset 37 0) ∧ decode 0x68001405 = some (.cset 40 5) ∧ decode 0x68001491 = some (.cset 41 17) ∧
    decode 0x688A8000 = some (.cgo 42) ∧ decode 0x690AD500 = some (.cwait 43 42) ∧ decode 0x698AD500 = some (.cstat 43 42) ∧
    decode 0x6A001500 = some (.ccancel 42) ∧ decode 0x6A801500 = some (.cresume 42) ∧ decode 0x64095200 = some (.mshape 37 36) ∧
    decode 0x64820000 = some (.mzero 8) ∧ decode 0x65020001 = some (.mmf false false 8 0 1) ∧
    decode 0x65820001 = some (.mmfO false false 8 0 1) ∧ decode 0x66000000 = some .mwait ∧ decode 0x66898C00 = some (.mstat 38 24) ∧
    decode 0x65220109 = some (.mmf false true 8 2 9) := by decide +kernel
/-- The memory and system codes (R216 to R229). -/
theorem test_decode_memory :
    decode 0xBD3A6002 = some (.ldc 39 38 2) ∧ decode 0xBD426400 = some (.pfetch 40 38 0) ∧ decode 0x75800004 = some (.fence 4) ∧
    decode 0x75800021 = some (.fenceC 1) ∧ decode 0x78801200 = some (.mtc 36 0) ∧ decode 0x7A000002 = some .tlbinvAll ∧
    decode 0x79800000 = some .eret := by decide +kernel
/-- R74, R73: unassigned majors, functions, selectors and reserved bits. -/
theorem test_decode_refusals :
    decode 0 = none ∧ decode 0xFFFFFFFF = none ∧ decode 0x57800000 = none ∧ decode 0xD8000800 = none ∧ decode 0xD0090000 = none ∧
    decode 0x7B000005 = none ∧ decode 0x7A000003 = none ∧ decode 0x90000040 = none := by decide +kernel
/-- The words lie in memory little-endian (R68), and the first word's bits are the table's. -/
theorem test_decode_bytes : decodeBytes [0x27, 0x53, 0x09, 0x04, 0xAA] = some (.add 37 38 39, [0xAA]) ∧
    decodeTableWord 32 0x04095327 = some (.add 37 38 39) := by decide +kernel

/-! Number formats and scalars. -/

/-- The worked conversions of 02, from the bits of the FP32 value. -/
theorem test_worked_conversions :
    let r := fun (t : TagBits) (mode : RMode) (x : Nat) => tagRound t mode false (Fmt.f32.value x)
    r 2 .rne 0x3F333333 = (0x3F33, flagNX) ∧ r 4 .rne 0x3F333333 = (0x33, flagNX) ∧ r 6 .rne 0x3F333333 = (0x36, flagNX) ∧
    r 7 .rne 0x3F333333 = (0x0E, flagNX) ∧ r 4 .rne 0x43960000 = (0x79, flagNX) ∧ r 4 .rne 0x43FA0000 = (0x7E, flagNX ||| flagSAT) ∧
    r 6 .rne 0x453B8000 = (0x7F, flagNX) ∧ r 6 .rne 0xB8D1B717 = (0x81, flagUF ||| flagNX) ∧
    r 7 .rne 0xB8D1B717 = (0x21, flagUF ||| flagNX) ∧ r 7 .rne 0x40A00000 = (0x18, flagNX) ∧
    r 3 .rne 0x477FF000 = (0x7C00, flagOF ||| flagNX) ∧ r 3 .rtz 0x477FF000 = (0x7BFF, flagNX) := by decide +kernel
/-- R99: DIVS and REMS of -7 by 2, DIVN and REMN of 5 by 0. -/
theorem test_division :
    let s := scal [BitVec.ofInt 64 (-7), 2, 5, 0]
    sv (after (.divs 40 33 34) s) 8 = BitVec.ofInt 64 (-3) ∧ sv (after (.rems 40 33 34) s) 8 = BitVec.ofInt 64 (-1) ∧
    sv (after (.divn 40 35 36) s) 8 = 0xFFFFFFFFFFFFFFFF ∧ sv (after (.remn 40 35 36) s) 8 = 5 := by decide +kernel
/-- R62: FCVT.x64.s of 3.5 to even and of 2.5, of a value above the range, of -1 to n64. -/
theorem test_fcvt :
    convertScalar 6 .rne false 0x40600000 = (4, flagNX) ∧ convertScalar 6 .rne false 0x40200000 = (2, flagNX) ∧
    convertScalar 6 .rne false 0x5F0AC723 = (0x7FFFFFFFFFFFFFFF, flagNV ||| flagSAT) ∧
    convertScalar 7 .rne false 0xBF800000 = (0, flagNV ||| flagSAT) := by decide +kernel
/-- R59, R63: 2^24 + 1 rounds to even; 1 / 0 is an infinity with DZ. -/
theorem test_fadd_fdiv :
    let s := scal [0x4B800000, 0x3F800000, 0]
    sv (after (.faddS 40 33 34) s) 8 = 0x4B800000 ∧ (after (.faddS 40 33 34) s).ctx.fpsr = flagNX ∧
    sv (after (.fdivS 40 34 35) s) 8 = 0x7F800000 ∧ (after (.fdivS 40 34 35) s).ctx.fpsr = flagDZ := by decide +kernel
/-- R22: with WIN = 48, s5 is physical 53; with WIN = 240, s20 is physical 4. -/
theorem test_window : ({ base.ctx with win := 48 } : Context).physical 37 = 53 ∧
    ({ base.ctx with win := 240 } : Context).physical 52 = 4 ∧ (after (.swin 0x1F) base).ctx.win = 240 := by decide +kernel
/-- R101: SLTNI with -1 compares against all ones. -/
theorem test_sltni : sv (after (.sltni 40 33 0xFFF) (scal [5])) 8 = 1 ∧
    sv (after (.sltni 40 33 0xFFF) (scal [0xFFFFFFFFFFFFFFFF])) 8 = 0 := by decide +kernel
/-- R38, R43: TRAP 5 at address 0. -/
theorem test_trap : (after (.trap 5) base).ctx.tcause = 0x20 ∧ (after (.trap 5) base).ctx.tval = 5 ∧ (after (.trap 5) base).ctx.pc = 0x1000 := by
  decide +kernel
/-- A word runs through the step: the table's word at the first fetch after reset. -/
theorem test_step_runs_word :
    let t := stepped (State.reset.withFetchWord 32 0xC119FFFB)
    sv t 3 = BitVec.ofInt 64 (-5) ∧ t.ctx.pc = 0x10004 := by decide +kernel
/-- R106, and the seed of program 14: 25 × 2^-88 gives 13,105 × 2^28. -/
theorem test_frsqe : sv (after (.frsqe 40 33 false) (scal [0x15C80000])) 8 = 0x544CC400 := by decide +kernel
/-- R113, R115: a LOOP of one word and count 2 runs its body twice. -/
theorem test_loop :
    let t := after (.loop 33 1) (scal [2])
    let u := after .nop t
    let v := after .nop u
    t.ctx.pc = 4 ∧ u.ctx.pc = 4 ∧ u.ctx.lc = 1 ∧ v.ctx.pc = 8 ∧ v.ctx.lc = 0 := by decide +kernel

/-! Memory. -/

/-- A word stored at a virtual address of base's page. -/
def withMem (s : State) (va n v : Nat) : State := { s with mem := memWrite s.mem (0x40000000 + va) n v }

/-- R216: LD.x8 extends the sign, LD.n8 does not; ST.n16 stores two bytes, the low one first (R7). -/
theorem test_ld_st :
    let s := withMem (scal [0x100, 0x8899]) 0x102 1 0x80
    sv (after (.ld 40 33 3 2) s) 8 = 0xFFFFFFFFFFFFFF80 ∧ sv (after (.ld 40 33 0 2) s) 8 = 0x80 ∧
    memByte (after (.st 34 33 1 4) s).mem 0x40000108 = 0x99 ∧ memByte (after (.st 34 33 1 4) s).mem 0x40000109 = 0x88 ∧
    memByte (after (.st 34 33 1 4) s).mem 0x4000010A = 0 := by decide +kernel
/-- R219: AADD wraps at its width; AMINS answers with the sign extended. -/
theorem test_atomics :
    let s := withMem (scal [0x100, 2]) 0x100 4 0xFFFFFFFF
    memRead (after (.aadd 34 33 true 0 4) s).mem 0x40000100 8 = 1 ∧ sv (after (.aadd 34 33 true 0 4) s) 2 = 0xFFFFFFFF ∧
    sv (after (.amins 34 33 true 0 4) s) 2 = 0xFFFFFFFFFFFFFFFF := by decide +kernel
/-- R224: four CLAIMs of 2,048 on a counter of 5,000 with NROW = 1. -/
theorem test_claim :
    let s := withMem (scal [0x100, 2048]) 0x108 8 5000
    let c := fun s => after (.claim 40 33 34) s
    sv (c s) 8 = 0 ∧ (c s).ctx.ncol = 2048 ∧ sv (c (c (c s))) 8 = 4096 ∧ (c (c (c s))).ctx.ncol = 904 ∧
    sv (c (c (c (c s)))) 8 = 0xFFFFFFFFFFFFFFFF ∧ (c (c (c (c s)))).ctx.ncol = 904 ∧
    memRead (c (c (c (c s)))).mem 0x40000100 8 = 5000 := by decide +kernel
/-- R41: a misaligned load traps with 0x0F and its address. -/
theorem test_misaligned : (after (.ld 40 33 6 0) (scal [0x104])).ctx.tcause = 0x0F ∧
    (after (.ld 40 33 6 0) (scal [0x104])).ctx.tval = 0x104 := by decide +kernel

/-! Vectors and gangs. -/

/-- An open row register. -/
def reg (tag : TagBits) (latch : BitVec 524288) : RowReg := { RowReg.reset with st := .opened, tag := tag, latch := latch }

/-- base with a gang of n banks from bank 0, bank j's row registers given, and a shape of one row of ncol elements. -/
def gang (n ncol : Nat) (rows : Nat → Tab RowReg) (vs : List Word) : State :=
  let s := scal vs
  s.withCtx { s.ctx with
    gmBanks := BitVec.ofNat 16 (2 ^ n - 1)
    gmWlog := BitVec.ofNat 3 (if n = 1 then 0 else if n = 2 then 1 else 2)
    nrow := 1, ncol := ncol
    banks := (List.range n).foldl (fun t j => tabPut t j { Bank.reset with rows := rows j }) [] }

/-- FP32 element 0 of a row register of a bank. -/
def lane (t : State) (j n : Nat) : Nat := ((t.ctx.bank j).row n).latch.toNat % 2 ^ 32

/-- R175: 1 + 2 in FP32, and the second element stays where VL is 1. -/
theorem test_vadd :
    let s := gang 1 1 (fun _ => [(0, reg 1 (2 ^ 32 * 7)), (1, reg 1 0x3F800000), (2, reg 1 0x40000000)]) []
    lane (after (.vadd false false 0 1 2) s) 0 0 = 0x40400000 ∧
    ((after (.vadd false false 0 1 2) s).ctx.bank 0).preds = [] := by decide +kernel
/-- R183: VSCL by -64 takes 2^126 to 2^62. -/
theorem test_vscl :
    let s := gang 1 1 (fun _ => [(0, reg 1 0), (1, reg 1 0x7E800000)]) [BitVec.ofInt 64 (-64)]
    lane (after (.vscl false 0 1 33) s) 0 0 = 0x5E800000 := by decide +kernel
/-- R202: s12 = 0x0123 reverses a gang of four. -/
theorem test_shufx :
    let s := gang 4 1 (fun j => [(0, reg 1 (BitVec.ofNat 524288 (0x3F800000 + j))), (2, reg 1 0)]) [0x0123]
    let t := after (.shufx false 2 0 33) s
    lane t 0 2 = 0x3F800003 ∧ lane t 1 2 = 0x3F800002 ∧ lane t 2 2 = 0x3F800001 ∧ lane t 3 2 = 0x3F800000 := by decide +kernel
/-- R196: the predicate codes of the worked example, in a gang of four with VL = 100. -/
theorem test_predicates :
    let s := gang 4 100 (fun _ => []) [70, 0xFFFFFFFFFFFFFFFF, 1]
    let a := after (.pset 17 33) s
    let b := after (.pnot 17 17) a
    let c := after (.pmovs 17 34 35) b
    sv (after (.pcnt 40 17) a) 8 = 280 ∧ sv (after (.pfirst 40 17) a) 8 = 0 ∧ sv (after (.pcnt 40 17) b) 8 = 120 ∧
    sv (after (.pfirst 40 17) b) 8 = 70 ∧ sv (after (.pcnt 40 17) c) 8 = 144 ∧ sv (after (.pfirst 40 17) c) 8 = 64 := by decide +kernel
/-- R209, R212: the split of the worked example, and its GM and GALT words. -/
theorem test_gsplit :
    let s := gang 4 1 (fun _ => []) [0x40000480]
    let s := s.withCtx { s.ctx with pc := 0x40000400, banks :=
      [(1, { Bank.reset with preds := [(1, 1)] }), (2, { Bank.reset with preds := [(1, 1)] })] }
    let f := after (.gsplit 17 33) s
    let p := after .gjoin (f.withCtx { f.ctx with pc := 0x40000500 })
    let j := after .gjoin (p.withCtx { p.ctx with pc := 0x40000500 })
    s.ctl s.ctx 0x0E = 0x0020000F ∧ f.ctx.pc = 0x40000404 ∧ f.ctl f.ctx 0x0E = 0x00A00009 ∧ f.ctl f.ctx 0x1F = 0x40000481 ∧
    p.ctx.pc = 0x40000480 ∧ p.ctl p.ctx 0x0E = 0x00A00006 ∧ p.ctl p.ctx 0x1F = 0x40000503 ∧
    j.ctx.pc = 0x40000504 ∧ j.ctl j.ctx 0x0E = 0x0020000F ∧ j.ctl j.ctx 0x1F = 0 := by decide +kernel

/-! Rows, refresh, copies, the device. -/

/-- R133, R136: ACTZ opens a register with every beat dirty, PRE closes it. -/
theorem test_actz_pre :
    let s := scal [0]
    let t := after (.actz 0 33 1) s
    ((t.ctx.bank 0).row 0).st = .opened ∧ ((t.ctx.bank 0).row 0).dirty.toNat = 2 ^ 32 - 1 ∧
    (((after (.pre 0) t).ctx.bank 0).row 0).st = .closed := by decide +kernel
/-- R152, R155: an accrual adds one slot to each bank's debt, at most 8; RDEBT shows it. -/
theorem test_accrual :
    let a := fun s => after (.refreshAccrual 0) s
    let t := a base
    (t.core 0).debtWord = 0x1111111111111111 ∧ (t.core 7).debtWord = 0x1111111111111111 ∧ (t.core 8).debtWord = 0 ∧
    ((after (.refreshSlot 0 3) (after (.refImm 2) (t.withCtx { t.ctx with core := 0, gmBanks := 8 }))).core 0).debtWord = 0x1111111111110111 := by decide +kernel
/-- R232, R237: CGO with slot 3 asked for answers 3, and CS3 says running (1). -/
theorem test_cgo :
    let s := scal [0x2000, 0x4000, 3]
    let t := after (.cgo 35) (after (.cset 34 1) (after (.cset 33 0) s))
    sv t 3 = 3 ∧ sv (after (.cstat 40 35) t) 8 = 1 := by decide +kernel
/-- R346: 97 °C is T1, 101 °C is T2, in that tier alone. -/
theorem test_thermal :
    ((after (.thermalHeating 5 97) base).tier 5).thermal = 1 ∧ ((after (.thermalHeating 5 101) base).tier 5).thermal = 2 ∧
    ((after (.thermalHeating 5 97) base).tier 4).thermal = 0 := by decide +kernel
/-- R263: an MMF of one member, BF16 1 × 3 with an accumulator cleared before it, leaves FP32 3 in C(0, 0) and is complete. -/
theorem test_mmf :
    let s := gang 1 1 (fun _ => [(0, reg 2 0x3F80), (1, reg 2 0x4040)]) [0x10101]
    let t := after (.mmf false false 8 0 1) (after (.mzero 8) (after (.mshape 40 33) s))
    let u := after (.mmfComplete 2) (after (.crewForm 2) t)
    u.ctx.mmf = none ∧ ((u.ctx.bank 0).bound 0).map (fun r => ((u.ctx.bank 0).poolRow r).data.toNat % 2 ^ 32) = some 0x40400000 := by
  decide +kernel
/-- R73, R125: a BRK word with a reserved bit set breaks with TVAL 0; another word of no instruction traps with 0x01 and the word. -/
theorem test_brk_reserved :
    (after (.illegalInstruction 0x7B000084) base).ctx.tcause = 0x21 ∧ (after (.illegalInstruction 0x7B000084) base).ctx.tval = 0 ∧
    (after (.illegalInstruction 0x7B000005) base).ctx.tcause = 0x01 ∧ (after (.illegalInstruction 0x7B000005) base).ctx.tval = 0x7B000005 := by
  decide +kernel

/-! Every statement's hypotheses are met. -/

/-- The error of a result. -/
def errorOf {ε α : Type} : Except ε α → Option ε
  | .error e => some e
  | .ok _ => none

theorem ok_iff {ε α : Type} (e : Except ε α) (x : α) : e = .ok x ↔ e.toOption = some x := by
  cases e <;> simp [Except.toOption]
theorem error_iff {ε α : Type} (e : Except ε α) (x : ε) : e = .error x ↔ errorOf e = some x := by
  cases e <;> simp [errorOf]

theorem witness_DecodeOfEncode : (Instr.add 36 50 24).wf = true ∧ encode (.add 36 50 24) = some 0x04091918 ∧
    (Instr.loop 127 2047).wf = true ∧ encode (.loop 127 2047) = some 0xD007F7FF := by decide +kernel
theorem witness_EncodeOfDecode : decode 0xD4000001 = some (.swin 1) := by decide +kernel

/-- A stream at 0x100 with a word there. -/
def atWord (w : Nat) : State := withMem (withRegs fun c => { c with pc := 0x100 }) 0x100 4 w

theorem witness_UnassignedMajorsTrap :
    (∀ w ∈ [0, 0x03FFFFFF, 0xFC000000, 0xFFFFFFFF], (w / 2 ^ 26 = 0 ∨ w / 2 ^ 26 = 0x3F) ∧
      (atWord w).held = false ∧ (atWord w).inputs = [] ∧ (atWord w).canIssue = true ∧ (atWord w).entryDue = false ∧
      (atWord w).fetchWord (atWord w).ctx.pc = .ok w) := by
  simp only [ok_iff]; decide +kernel
theorem witness_StepRunsDecoded :
    let s := atWord 0xC119FFFB
    s.held = false ∧ s.inputs = [] ∧ s.canIssue = true ∧ s.entryDue = false ∧ s.ctx.pc.toNat % 4 = 0 ∧
    s.translate false s.ctx.pc .exec 4 = .ok (0x40000100, page) ∧ s.blocked 0x40000100 4 = false ∧
    s.markCause (s.locOf 0x40000100) 4 = none ∧ s.writes = [] ∧ s.anyAhead = false ∧
    decodeBytes [memByte s.mem (s.locOf 0x40000100), memByte s.mem (s.locOf 0x40000100 + 1), memByte s.mem (s.locOf 0x40000100 + 2),
      memByte s.mem (s.locOf 0x40000100 + 3)] = some (.movi 35 0x1FFFB, []) := by
  simp only [ok_iff]; decide +kernel
theorem witness_StepAround_alone : base.ctx.id = base.ctx.id ∧ base.ctx.resident = true ∧ base.ctx.stepOnce = false ∧ base.ctx.sib = none ∧
    base.ctx.num = (base.core base.ctx.core).lastPick ∧ base.ctx.num = (base.core base.ctx.core).lastBank ∧ base.others = [] ∧
    base.busy = false := by decide +kernel
theorem witness_StepAround :
    (let s := atWord 0;
      s.held = false ∧ s.inputs = [] ∧ s.canIssue = true ∧ s.entryDue = false ∧ s.fetchWord s.ctx.pc = .ok 0 ∧
        decode (BitVec.ofNat 32 0) = none ∧ isBreakWord (BitVec.ofNat 32 0) = false) ∧
    (let s := atWord 0x7B000084;
      s.held = false ∧ s.inputs = [] ∧ s.canIssue = true ∧ s.entryDue = false ∧ s.fetchWord s.ctx.pc = .ok 0x7B000084 ∧
        decode (BitVec.ofNat 32 0x7B000084) = none ∧ isBreakWord (BitVec.ofNat 32 0x7B000084) = true) ∧
    (let s := withRegs fun c => { c with pc := 2 };
      s.held = false ∧ s.inputs = [] ∧ s.canIssue = true ∧ s.entryDue = false ∧ s.fetchWord s.ctx.pc = .error (.trap 0x0F 2 none)) ∧
    (let s := { base with inputs := [.event (.powerBrake true)] };
      s.held = false ∧ s.inputs = .event (.powerBrake true) :: []) ∧
    let s := { base with held := true };
    s.held = true ∧ s.inputs = [] := by
  simp only [ok_iff, error_iff]; decide +kernel

/-- A record of one stream. -/
def record : Record :=
  { parseRecord 0 with entry := 0x100, args := 0x55, tveca := 0x2000, exts := [0, 0, 0, 0, 0, 0], widths := [0, 0, 0, 0, 0, 0], places := [0, 0, 0, 0, 0, 0] }
/-- A launch of it. -/
def launch : Launch := { record := record, queue := 0, slot := 0, state := 2, lost := 0, ready := true, started := [], ended := 0, attached := [] }

theorem witness_StreamStartRegisters : launch.record.tveca ≠ 0 ∧ (0x40 ≤ 0x7F ∧ 0x7F < 0x80) := by decide +kernel
theorem witness_ResetValues : (1023 < 1024) ∧ 127 < 128 := by decide
theorem witness_TrapEntry :
    (isAsync 0x0F = false ∧ base.ctx.pc ≠ base.ctx.tvec.setWidth 64 ∧ base.ctx.trc = false) ∧
    (let s := withRegs fun c => { c with pc := 0x1000 };
      isAsync 0x30 = true ∧ s.ctx.trc = false ∧ isAsync 0x0F = false ∧ s.ctx.pc = s.ctx.tvec.setWidth 64) := by decide +kernel
/-- A VADD at its first group in bank 1 of a gang of two. -/
def inSlot : InFlight := ⟨.vadd false false 0 1 2, 0, 3, 0, 1, 64, 0, false, 0, 0, 1, 1, 1, none⟩
/-- A stream of bank 0 at 8, with that VADD, of address 0, in flight there. -/
def inFlight : State := withRegs fun c => { c with
  pc := 8, gmBanks := 1, nrow := 1, ncol := 64
  banks := [(0, { Bank.reset with rows := [0, 1, 2].map fun n => (n, reg 1 0), slots := [{ inSlot with gang := 1 }] })] }
/-- What an entry records: the VADD at (0, 0), two words back; an MMF whose chunk has reached no step; an MMF stopped before. -/
theorem witness_TrapEntry_resume :
    (inFlight.ctx.sib = none ∧ (∀ j ∈ bankList inFlight.ctx.allBanks, ∀ q ∈ (inFlight.ctx.bank j).slots,
        (slotForm q.instr).any SlotForm.cross = false) ∧ 0 ∈ bankList inFlight.ctx.gmBanks ∧
      (inFlight.ctx.atStop inFlight.now 0 (inFlight.ctx.bank 0).slots).map (fun e => e.2) = [false] ∧
      tabGet 0 (inFlight.takeTrap 0x20 5 none |>.ctx.bank 0).irp 0 = 0x280000000) ∧
    (base.ctx.mmf = none) := by decide +kernel
/-- base with a row register open. -/
def oneOpen : State := withRegs fun c => { c with banks := [(0, { Bank.reset with rows := [(0, reg 1 0)] })] }
/-- A copy guards the row that a save of s writes its registers' words to. -/
def guardedSave (s : State) : State :=
  s.setSlot 5 0 { CopySlot.reset with
    owner := some 9, state := 1, staged := [(1, 0), (2, 8192)], pages := [⟨0, placedRow s.ctx.core 0 0 509, 8192, true⟩], installed := true }
theorem witness_TrapEntry_double :
    let s := oneOpen.withCtx { oneOpen.ctx with pc := 0x1000 }
    s.haltWaits = false ∧ (guardedSave s).haltWaits = true ∧ isAsync 0x0F = false ∧ (guardedSave s).ctx.pc = s.ctx.tvec.setWidth 64 := by
  decide +kernel
theorem witness_SoftwareTraps :
    let s := oneOpen.withCtx { oneOpen.ctx with dbk := true }
    (base.ctx.pc ≠ base.ctx.tvec.setWidth 64 ∧ base.ctx.dbk = false) ∧ (s.ctx.dbk = true ∧ s.haltWaits = false) ∧
    (guardedSave s).ctx.dbk = true ∧ (guardedSave s).haltWaits = true := by decide +kernel
theorem witness_EretResults :
    (let s := withRegs fun c => { c with sup := true, tpc := 0xFFFFFFFFFFFFFC };
      s.ctx.atLoopEnd = false ∧ s.ctx.sup = true ∧ s.ctx.tpc.toNat % 4 = 0 ∧ s.ctx.intact [] s.ctx.eretCtl ∧
        s.afterTrap.resumeWaits s.afterTrap.ctx = false) ∧
    (let s := withRegs fun c => { c with sup := true, tpc := 3 };
      s.ctx.atLoopEnd = false ∧ s.ctx.sup = true ∧ s.ctx.tpc.toNat % 4 ≠ 0) ∧
    (base.ctx.atLoopEnd = false ∧ base.ctx.sup = false) ∧
    (withRegs fun c => { c with lc := 1, lend := 0 }).ctx.atLoopEnd = true := by decide +kernel
theorem witness_AsyncEntry :
    (base.ctx.sib = none ∧ base.ctx.markTrap = none ∧ (withRegs fun c => { c with ad := true }).ctx.ad = true) ∧
    (let s := withRegs fun c => { c with pend30 := some 5 };
      s.ctx.sib = none ∧ s.ctx.markTrap = none ∧ s.ctx.ad = false ∧ s.ctx.pend30 = some 5) ∧
    (let s := withRegs fun c => { c with pend10 := true };
      s.ctx.sib = none ∧ s.ctx.markTrap = none ∧ s.ctx.ad = false ∧ s.ctx.pend30 = none ∧ s.ctx.pend10 = true) ∧
    let s := withRegs fun c => { c with pend11 := 0x8000 };
    s.ctx.sib = none ∧ s.ctx.markTrap = none ∧ s.ctx.ad = false ∧ s.ctx.pend30 = none ∧ s.ctx.pend10 = false ∧
      s.ctx.faultedSlot = some 15 := by decide +kernel
theorem witness_ControlAccessTraps : isSz 127 ∧ isSz 24 ∧ base.ctx.sup = false ∧ (0x13 : BitVec 7).toNat = 0x13 ∧
    (0x16 ≤ (0x16 : BitVec 7).toNat ∧ (0x1B : BitVec 7).toNat ≤ 0x1B) ∧ 0x40 ≤ (0x7F : BitVec 7).toNat ∧
    (0x1E : BitVec 7).toNat ∈ [0x03, 0x04, 0x06, 0x07, 0x08, 0x09, 0x0B, 0x0C, 0x0E, 0x0F, 0x11, 0x12, 0x14, 0x1C, 0x1D, 0x1E] ∧
    (0x20 ≤ (0x20 : BitVec 7).toNat ∧ (0x3F : BitVec 7).toNat < 0x40) := by decide +kernel
theorem witness_MfcReads : isSz 24 ∧ (base.ctx.sup = false ∧ ¬((0x00 : BitVec 7).toNat = 0x13)) ∧
    (withRegs fun c => { c with sup := true }).ctx.sup = true ∧
    ((0x7F : BitVec 7).toNat ∉ [0x01, 0x12, 0x0F, 0x11, 0x1C, 0x1D] ∧ base.ctx.intact [] [0x7F] [24]) ∧
    ((0x1D : BitVec 7).toNat = 0x1D ∧ base.ctx.intact [] [0x1D] [24]) := by decide +kernel
theorem witness_MfcReads_drained : ((0x01 : BitVec 7).toNat ∈ [0x01, 0x12, 0x0F, 0x11, 0x1C] ∧ base.drained.ctx.working = false ∧
    base.ctx.intact [] [] ∧ base.drained.ctx.intact [] [0x01] [24]) := by decide +kernel
theorem witness_MtcWrites : isSz 33 ∧ base.ctx.intact [33] [] ∧ (0x10 : BitVec 7).toNat ∈ [0x00, 0x02, 0x05, 0x0A, 0x0D, 0x10] ∧
    ((withRegs fun c => { c with sup := true }).ctx.sup = true ∧ 0x40 ≤ (0x40 : BitVec 7).toNat) ∧
    ((0x01 : BitVec 7).toNat = 0x01 ∧ base.drained.ctx.working = false) := by decide +kernel
theorem witness_ControlReadBack : (0x40 ≤ 0x40 ∧ 0x7F < 0x80) ∧ base.ctx.counting = false ∧
    (withRegs fun c => { c with lc := 1 }).ctx.counting = true := by decide +kernel
theorem witness_ScalarFile : isSName 32 ∧ isSName 127 ∧ (127 : NameF) ≠ 32 ∧ 0 ≠ base.ctx.physical 127 := by decide +kernel
theorem witness_IntegerResults : isSz 24 ∧ isSz 32 ∧ isSz 127 ∧ base.ctx.intact [32, 127] [] [24] := by decide +kernel
theorem witness_IntegerUnaryResults : isSz 24 ∧ isSz 32 ∧ isSz 127 ∧ base.ctx.intact [24, 32, 127] [] ∧ base.ctx.intact [32] [] [24] ∧
    (64 - 1) % 64 ≤ 63 ∧ 63 < 64 := by decide +kernel
theorem witness_ImmediateResults : isSz 24 ∧ isSz 127 ∧ base.ctx.intact [127] [] [24] ∧
    (0x90000FFF : Word32).toNat / 2 ^ 26 ∈ [0x24, 0x25, 0x26] ∧ (0x90000FFF : Word32).toNat / 2 ^ 6 % 2 ^ 6 ≠ 0 := by decide +kernel
theorem witness_FloatResults : isSz 24 ∧ isSz 127 ∧ isSz 32 ∧ base.ctx.intact [24, 127, 32] [0x00, 0x01] := by decide +kernel
theorem witness_FloatMasks : isSz 24 ∧ isSz 127 ∧ isSz 32 ∧ base.ctx.intact [127, 32] [0x00, 0x01] [24] := by decide +kernel
/-- One operand of each kind that the clauses of FloatValues tell apart, in both formats: zero, a subnormal, one, infinity, quiet and
signalling NaN. -/
theorem witness_FloatValues :
    let s := scal [0, 1, 0x3F800000, 0x7F800000, 0x7FC00000, 0x7F800001, 0xBF800000]
    let t := scal [0, 1, 0x3FF0000000000000, 0x7FF0000000000000, 0x7FF8000000000000, 0x7FF0000000000001]
    (isSz 24 ∧ isSz 127 ∧ isSz 33 ∧ s.ctx.intact [24, 127, 33] [0x00, 0x01]) ∧
    (let m := fun n : NameF => (s.ctx.read n).toNat % 2 ^ 31;
      m 33 = 0 ∧ (0 < m 34 ∧ m 34 < 2 ^ 23) ∧ (2 ^ 23 ≤ m 35 ∧ m 35 < 255 * 2 ^ 23) ∧ m 36 = 255 * 2 ^ 23 ∧
        (255 * 2 ^ 23 < m 37 ∧ 2 ^ 22 ≤ m 37 % 2 ^ 23) ∧ (255 * 2 ^ 23 < m 38 ∧ m 38 % 2 ^ 23 < 2 ^ 22) ∧
        m 39 = m 35 ∧ (s.ctx.read 39).getLsbD 31 = true ∧ (s.ctx.read 35).getLsbD 31 = false) ∧
    let m := fun n : NameF => (t.ctx.read n).toNat % 2 ^ 63;
    m 33 = 0 ∧ (0 < m 34 ∧ m 34 < 2 ^ 52) ∧ (2 ^ 52 ≤ m 35 ∧ m 35 < 2047 * 2 ^ 52) ∧ m 36 = 2047 * 2 ^ 52 ∧
      (2047 * 2 ^ 52 < m 37 ∧ 2 ^ 51 ≤ m 37 % 2 ^ 52) ∧ (2047 * 2 ^ 52 < m 38 ∧ m 38 % 2 ^ 52 < 2 ^ 51) := by decide +kernel
theorem witness_ScalarFrame : scalarDest (.add 40 33 34) = some 40 ∧ base.ctx.atLoopEnd = false ∧
    (match exec (.add 40 33 34) base with | .next t => decide (t = after (.add 40 33 34) base) | _ => false) = true := by decide +kernel
theorem witness_ScalarTraps : scalarDest (.add 40 33 34) = some 40 ∧
    (∀ i ∈ [Instr.add 23 33 34, .ffmaD 40 25 34, .slen 40 33 31, .ld 31 33 6 0, .acas 127 33 false 0 0, .claim 40 33 24, .sloop 40 8 5, .trace 24],
      i.wf = true ∧ (scalarNames i).any (fun p => !base.ctx.accepts p.1 p.2) = true) ∧
    scalarNames (.add 40 33 31) = [(clsS, 40), (clsS, 33)] ++ (clsS, 31) :: [] ∧ base.ctx.acceptsAll [(clsS, 40), (clsS, 33)] ∧
    base.ctx.accepts clsS 31 = false ∧ base.ctx.accepts clsS1 24 = false ∧ base.ctx.placed (.add 40 33 31) := by
  exact ⟨by decide, by decide +kernel, rfl, by decide +kernel, by decide +kernel, by decide +kernel, trivial⟩
theorem witness_ScalarTraps_sound :
    let s := fun bad : List Nat => withRegs fun c => { c with bad := bad.map fun n => (n, true) }
    (∀ i ∈ [Instr.popc 40 33, .faddS 40 33 34], i.wf = true ∧ (s []).ctx.acceptsAll (scalarNames i) ∧ (s []).ctx.accessOf i = none) ∧
    (s [1]).ctx.cleared (.popc 40 33) ∧ scalarReads (.ffmaS 40 33 34) = [40] ++ 33 :: [34] ∧
    (isSName 33 ∧ tabGet false (s [1]).ctx.bad 258 = false ∧ tabGet false (s [1]).ctx.bad ((s [1]).ctx.physical 33) = true ∧
      tabGet false (s [1]).ctx.bad ((s [1]).ctx.physical 40) = false) ∧
    tabGet false (s [258]).ctx.bad 258 = true ∧ setsFlags (.faddS 40 33 34) = true ∧ tabGet false (s [256]).ctx.bad 256 = true ∧
    (tabGet false (s [257]).ctx.bad 256 = false ∧ tabGet false (s [257]).ctx.bad 257 = true) :=
  ⟨by decide +kernel, trivial, rfl, by decide +kernel, by decide +kernel, by decide, by decide +kernel, by decide +kernel⟩
theorem witness_ConditionalBranches :
    (base.ctx.atLoopEnd = false ∧ isSz 24 ∧ base.ctx.intact [24] []) ∧
    (isPName 16 ∧ isPName 23 ∧ base.ctx.intact [] [0x04, 0x0E] ∧ base.ctx.predsIntact [23] ∧
      (∀ j ∈ bankList base.ctx.gmBanks, ∀ e < base.ctx.vl, ((base.ctx.bank j).pred 7).getLsbD e = false) ∧
      (∃ j ∈ bankList base.ctx.gmBanks, ((base.ctx.bank j).pred 7).getLsbD 63 = false) ∧
      base.ctx.predsPending [23] (bankList base.ctx.gmBanks) = false) ∧
    let s := withRegs fun c => { c with banks := [(0, { Bank.reset with preds := [(7, BitVec.allOnes 16384)] })] };
    (∃ j ∈ bankList s.ctx.gmBanks, ((s.ctx.bank j).pred 7).getLsbD 63 = true) ∧ 63 < s.ctx.vl ∧ s.ctx.vl ≤ 16384 ∧
      ∀ j ∈ bankList s.ctx.gmBanks, ∀ e < s.ctx.vl, ((s.ctx.bank j).pred 7).getLsbD e = true := by decide +kernel
theorem witness_JumpsAndWindow : base.ctx.atLoopEnd = false ∧ isSz 24 ∧ base.ctx.intact [24] [] ∧ base.ctx.intact [] [] [24] ∧
    (base.ctx.read 24).toNat % 4 = 0 := by decide +kernel
theorem witness_BranchTraps :
    (withRegs fun c => { c with lc := 1, lend := 0 }).ctx.atLoopEnd = true ∧ base.ctx.atLoopEnd = false ∧ isSz 33 ∧
    ((scal [3]).ctx.read 33).toNat % 4 ≠ 0 ∧
    (withRegs fun c => { c with lc := 1 }).ctx.counting = true ∧ (withRegs fun c => { c with gmSub := true }).ctx.gmSub = true ∧
    (let s := withRegs fun c => { c with sbeg := 0, send := 16, srem := 3, pc := 8 };
      s.ctx.stripping = true ∧ ¬bodiesClear (s.ctx.pc.toNat + 4) (s.ctx.pc.toNat + 4 * 3) (s.ctx.sbeg.toNat + 4) s.ctx.send.toNat) ∧
    (let s := withRegs fun c => { c with lbeg := 4, lend := 16, lc := 3, pc := 8 };
      s.ctx.counting = true ∧ ¬bodiesClear (s.ctx.pc.toNat + 4) (s.ctx.pc.toNat + 4 * 3) s.ctx.lbeg.toNat s.ctx.lend.toNat) := by
  decide +kernel
theorem witness_BranchTraps_gsplit :
    isPName 17 ∧ isSName 33 ∧ ((scal [2]).ctx.read 33).toNat % 4 ≠ 0 ∧ (scal [2]).ctx.gmSub = false ∧ (scal [2]).ctx.counting = false ∧
    (scal [2]).ctx.stripping = false ∧ (withRegs fun c => { c with sbeg := 0, send := 16, srem := 3 }).ctx.stripping = true := by decide +kernel
theorem witness_BranchEndsLoops :
    let s := withRegs fun c => { c with lc := 2, lbeg := 0, lend := 8, sbeg := 0, send := 8, pc := 4 };
    s.ctx.atLoopEnd = false ∧ s.ctx.counting = true ∧ s.ctx.stripping = true ∧ s.ctx.inCounted s.ctx.pc = true ∧
    s.ctx.inStrip s.ctx.pc = true ∧ s.ctx.inCounted (s.ctx.pc + 8) = false ∧ s.ctx.inStrip (s.ctx.pc + 8) = false ∧
    s.ctx.inCounted (s.ctx.pc + 4) = true ∧ s.ctx.inStrip (s.ctx.pc + 4) = true := by decide +kernel
theorem witness_LoopStarts :
    let s := scal [0, 5, 16385]
    s.ctx.mayLoop 2047 ∧ s.ctx.mayStrip 2047 ∧ isSz 33 ∧ isSz 24 ∧
    s.ctx.intact [33, 34, 35] [] ∧ s.ctx.pc.toNat + 4 * 2047 + 4 < 2 ^ 56 ∧ min (s.ctx.read 33).toNat 0xFFFFFFFF = 0 ∧
    min (s.ctx.read 34).toNat 0xFFFFFFFF ≠ 0 ∧ 16384 < (s.ctx.read 35).toNat := by decide +kernel
/-- A LOOP of 2 words inside a strip loop of 8, and an SLOOP inside a counted loop. -/
def inStripLoop : Context := (withRegs fun c => { c with scalars := [(2, 5)], sbeg := 0, send := 32, srem := 3, pc := 4 }).ctx
def inLoop : Context := (withRegs fun c => { c with scalars := [(2, 5)], lbeg := 0, lend := 32, lc := 3, pc := 4 }).ctx
theorem witness_LoopStarts_nested : (inStripLoop.mayLoop 2 ∧ inStripLoop.stripping = true ∧ inStripLoop.intact [34] []) ∧
    inLoop.mayStrip 2 ∧ inLoop.counting = true ∧ inLoop.intact [35, 34] [] := by
  refine ⟨⟨?_, ?_, ?_⟩, ?_, ?_, ?_⟩ <;> decide +kernel
theorem witness_IterationBoundary :
    let hitC := fun s : State => s.ctx.counting = true ∧ s.ctx.pc = s.ctx.lend.setWidth 64
    let hitS := fun s : State => s.ctx.stripping = true ∧ s.ctx.pc = s.ctx.send.setWidth 64
    let c := fun (n : BitVec 32) => withRegs fun c => { c with pc := 8, lc := n, lbeg := 4, lend := 8 }
    let k := fun (n : BitVec 32) => withRegs fun c => { c with pc := 8, srem := n, smax := 4, sbeg := 0, send := 8 }
    let both := fun (n m : BitVec 32) (b : BitVec 56) =>
      withRegs fun c => { c with pc := 16, lc := n, lbeg := b, lend := 16, srem := m, smax := 4, sbeg := 4, send := 16 }
    (¬hitC base ∧ ¬hitS base ∧ base.ctx.loopError = none) ∧ ((c 1).ctx.loopError = none ∧ (k 0).ctx.loopError = none ∧
      (both 1 0 8).ctx.loopError = none) ∧
    ((c 1).withCtx { (c 1).ctx with bad := [(256 + 0x0A, true)] }).ctx.loopError.isSome = true ∧ (hitC (c 1) ∧ ¬hitS (c 1) ∧ hitC (c 2)) ∧ (hitS (k 0) ∧ ¬hitC (k 0) ∧ hitS (k 1)) ∧
    (hitC (both 1 0 8) ∧ hitS (both 1 0 8) ∧ hitC (both 2 1 8) ∧ hitS (both 2 1 8) ∧ (both 1 0 8).ctx.sbeg.toNat + 4 ≤ (both 1 0 8).ctx.lbeg.toNat) ∧
    (hitC (both 1 0 4) ∧ hitS (both 1 0 4) ∧ hitC (both 2 1 4) ∧ hitS (both 2 1 4) ∧ (both 1 0 4).ctx.lbeg.toNat < (both 1 0 4).ctx.sbeg.toNat + 4) := by
  decide +kernel
theorem witness_JumpsAndWindow_yield : base.ctx.gmSub = false ∧ base.ctx.intact [] [0x02] ∧ base.ctx.intact [] [] ∧
    (withRegs fun c => { c with gmSub := true }).ctx.gmSub = true := by decide +kernel
theorem witness_MemoryBytes : base.anyAhead = false ∧ base.memForm ∧ (0 < 1 ∧ 8 ≤ 8 ∧ 0 + (8 - 1) * 2 ^ 22 + 2 ^ 13 ≤ 2 ^ 39) ∧
    (8192 % 8192 = 0 ∧ (2 ^ 39 - 8192) % 8192 = 0 ∧ 2 ^ 39 - 8192 < 2 ^ 39) := by decide +kernel
theorem witness_LoadResults :
    let s := scal [0x100]
    isSz 24 ∧ isSz 33 ∧ s.ctx.intact [33] [] [24] ∧ (6 : BitVec 3).toNat ≤ 6 ∧ s.translate true 0x100 .read 8 = .ok (0x40000100, page) ∧
    s.translate false 0x108 .read 8 = .ok (0x40000108, page) ∧ s.translate false 0xFF .read 1 = .ok (0x400000FF, page) ∧
    spaceOf 0x40000100 ≠ .control ∧ s.loadable 0x40000100 8 := by
  simp only [ok_iff]; decide +kernel

/-- base in supervisor mode with an address space whose page 0 is the start of the control space. -/
def controlBase : State :=
  let s := withRegs fun c => { c with sup := true }
  { s with mem := memWrite (memWrite (memWrite (memWrite [] 0 8 0x100001) 0x100000 8 0x200001) 0x200000 8 0x201001) 0x201000 8 0xC00000000000F }

theorem witness_LoadResults_control :
    let e : Page := ⟨0xC000000000000, 0x10000, true, true, false, false, false, 0⟩
    controlBase.translate true 0 .read 8 = .ok (0xC000000000000, e) ∧ spaceOf 0xC000000000000 = .control ∧
    controlBase.mayAccess 0xC000000000000 8 = true ∧ controlBase.translate true 0 .write 8 = .ok (0xC000000000000, e) ∧
    controlBase.slotFree 0xC000000000000 = true := by
  simp only [ok_iff]; decide +kernel

/-- base with a store of another stream posted behind some detent, and one of its own. -/
def posted (id : Nat) : State :=
  { base with posted := [{ ctx := id, core := 2, token := 0, sent := true, va := 0x2000, pa := 0x40002000, n := 8, v := 7, rel := false,
                           before := false, at_ := 0 }] }

/-- base with a copy slot whose detent guards 0x3000 to 0x3007. -/
def guarded : State :=
  let q : CopySlot := { CopySlot.reset with
    owner := some 9, state := 1, staged := [(1, 0x3000), (2, 8)], pages := [⟨0, 0x40000000, 0x40000000, true⟩], wm := 0x3000, wmFrom := 0x3000
    installed := true }
  base.setSlot 5 0 q

theorem witness_StoreResults :
    let s := scal [0x100, 5]
    isSz 24 ∧ isSz 33 ∧ s.ctx.intact [34, 33] [] ∧ s.slotFree 0x40000100 = true ∧
    s.postedBefore s.ctx.id = false ∧ s.translate true 0x100 .write 8 = .ok (0x40000100, page) ∧
    s.translate false 0x100 .write 1 = .ok (0x40000100, page) ∧ spaceOf 0x40000100 ≠ .control ∧ s.storable 0x40000100 8 ∧
    s.postedBy s.ctx.id = false ∧ (posted 0).postedBy (posted 0).ctx.id = true ∧ guarded.blocked 0x40003000 8 = true ∧
    s.ctx.trc = false := by
  simp only [ok_iff]; decide +kernel
theorem witness_AccessTraps :
    let s := scal [0x107, 0x100000000000000, 0x8000000000, 0x100]
    let m := { s with marks := [(0x40000100 / 32, .poisoned)] }
    let all := fun a : NameF => [Instr.ld 40 a 6 0, .ldAcq 40 a 2 0, .st 40 a 3 0, .stRel 40 a 1 0, .ldc 40 a 0, .aadd 40 a false 0 5, .acas 40 a true 3 0,
      .claim 40 a 33, .waitwEq 40 a, .waitwNe 40 a, .waitwGe 40 a]
    (∀ a : NameF, a ∈ [33, 34, 35, 36] → ∀ i ∈ all a, i.wf = true ∧ s.ctx.acceptsAll (scalarNames i) ∧ (s.ctx.accessOf i).isSome = true) ∧
    (∀ i ∈ all 33, (s.ctx.accessOf i).all (fun q => decide (q.va.toNat % q.n ≠ 0)) = true) ∧
    (∀ i ∈ all 34, (s.ctx.accessOf i).all (fun q => decide (q.va.toNat % q.n = 0 ∧ 2 ^ 56 ≤ q.va.toNat)) = true) ∧
    (∀ i ∈ all 35, (s.ctx.accessOf i).all (fun q => decide (q.va.toNat % q.n = 0 ∧ q.va.toNat < 2 ^ 56)) = true) ∧
    s.pageOf s.ctx.owner 0x8000000000 = .error (.trap 0x08 0x8000000000 none) ∧ m.pageOf m.ctx.owner 0x100 = .ok page ∧
    page.permits .read false = true ∧ page.frame + 0x100 % page.size = 0x40000100 ∧ spaceOf 0x40000100 = .device ∧
    m.backed true 0x40000100 = true ∧ m.backed false 0x40000100 = true ∧ m.mayAccess 0x40000100 8 = true ∧ m.blocked 0x40000100 8 = false ∧
    m.mayAccessTo cacheDest 0x40000100 8 = true ∧ m.cached 0x40000100 page = none ∧ m.postedBy m.ctx.id = false ∧
    m.markCause (m.locOf 0x40000100) 8 = some 0x0D := by
  simp only [ok_iff, error_iff]; decide +kernel
/-- A page that may only be read, in a tier that is offline. -/
theorem witness_AccessTraps_page :
    let s := { scal [0x100] with
      mem := memWrite (memWrite (memWrite (memWrite [] 0 8 0x100001) 0x100000 8 0x200001) 0x200000 8 0x201001) 0x201000 8 0x40000027 }
    let t := s.setTier 0 { s.tier 0 with online := false }
    (s.pageOf s.ctx.owner 0x100).toOption.any (fun e => !e.permits .write s.ctx.sup && e.permits .read s.ctx.sup &&
      decide (spaceOf (e.frame + 0x100 % e.size) = .device) && !t.backed false (e.frame + 0x100 % e.size)) = true := by decide +kernel
theorem witness_EretResults_waits :
    let s := guarded.withCtx { guarded.ctx with sup := true, tpc := 0x3008, banks := [(0, { Bank.reset with irp := [(0, 0x280000000)] })] }
    s.ctx.atLoopEnd = false ∧ s.ctx.sup = true ∧ s.ctx.tpc.toNat % 4 = 0 ∧ s.ctx.intact [] s.ctx.eretCtl ∧
    s.afterTrap.resumeWaits s.afterTrap.ctx = true := by decide +kernel

/-- base with port 0 up and page 0 of the address space in its window. -/
def hostBase : State :=
  let s := withRegs fun c => { c with sup := true, scalars := [(1, 0)] }
  { s with ports := [(0, ⟨true, 0, 16, 1⟩)]
           mem := memWrite (memWrite (memWrite (memWrite [] 0 8 0x100001) 0x100000 8 0x200001) 0x200000 8 0x201001) 0x201000 8 0x100000000000F }

theorem witness_AtomicResults :
    let s := scal [0x100, 5]
    isSz 24 ∧ isSName 33 ∧ isSName 34 ∧ (34 : NameF).toNat ≠ 127 ∧ s.ctx.intact [34, 33] [] ∧ s.ctx.intact [35] [] ∧
    s.locate s.ctx.owner s.ctx.sup (s.ctx.read 33) .write 8 = .ok (0x40000100, page) ∧ s.backed false 0x40000100 = true ∧
    (2 ≤ (3 : BitVec 2).toNat ∧ s.postedBy s.ctx.id = false) ∧ s.loadable 0x40000100 8 ∧ isHost 0x40000100 = false ∧
    hostBase.locate hostBase.ctx.owner hostBase.ctx.sup (hostBase.ctx.read 33) .write 8 =
      .ok (0x1000000000000, ⟨0x1000000000000, 0x10000, true, true, false, false, false, 0⟩) ∧
    hostBase.backed false 0x1000000000000 = true ∧ hostBase.loadable 0x1000000000000 8 ∧ isHost 0x1000000000000 = true := by
  simp only [ok_iff]; decide +kernel
theorem witness_ClaimResults :
    let s := withMem (scal [0x100, 2048]) 0x108 8 5000
    let x := withMem (scal [0x100, 0]) 0x108 8 0
    isSz 24 ∧ isSName 33 ∧ isSName 34 ∧ s.ctx.intact [33, 34] [0x04] [24] ∧
    s.locate s.ctx.owner s.ctx.sup (s.ctx.read 33) .write 16 = .ok (0x40000100, page) ∧ s.backed false 0x40000100 = true ∧
    spaceOf 0x40000100 = .device ∧ s.loadable 0x40000100 16 ∧
    (s.readCells 0x40000100 16 % 2 ^ 64 < s.readCells 0x40000100 16 / 2 ^ 64 ∧
      min (min (s.ctx.read 34).toNat (16384 / s.ctx.nrow)) (s.readCells 0x40000100 16 / 2 ^ 64) ≠ 0) ∧
    x.readCells 0x40000100 16 / 2 ^ 64 ≤ x.readCells 0x40000100 16 % 2 ^ 64 := by
  simp only [ok_iff]; decide +kernel
/-- A counter word in a host window, in control space and in no space. -/
theorem witness_ClaimResults_spaces :
    let at_ := fun (s : State) pa => (s.locate s.ctx.owner s.ctx.sup (s.ctx.read 33) .write 16).toOption.map Prod.fst = some pa ∧
      s.ctx.intact [33, 34] [0x04] [24]
    let nowhere := { hostBase with mem := memWrite hostBase.mem 0x201000 8 0x300000000000F }
    at_ hostBase 0x1000000000000 ∧ spaceOf 0x1000000000000 = .host 0 ∧ at_ controlBase 0xC000000000000 ∧ spaceOf 0xC000000000000 = .control ∧
    at_ nowhere 0x3000000000000 ∧ spaceOf 0x3000000000000 = .none := by decide +kernel
theorem witness_WaitResults :
    let s := scal [0x100, 5]
    isSz 24 ∧ isSName 33 ∧ s.ctx.intact [34, 33] [] ∧ s.translate false (s.ctx.read 33) .read 8 = .ok (0x40000100, page) ∧
    s.loadable 0x40000100 8 ∧ BitVec.ofNat 64 (s.readCells 0x40000100 8) = s.ctx.read 24 ∧
    BitVec.ofNat 64 (s.readCells 0x40000100 8) ≠ s.ctx.read 34 ∧
    (s.ctx.read 24).toNat ≤ (BitVec.ofNat 64 (s.readCells 0x40000100 8)).toNat ∧
    (BitVec.ofNat 64 (s.readCells 0x40000100 8)).toNat < (s.ctx.read 34).toNat := by
  simp only [ok_iff]; decide +kernel
theorem witness_FenceResults : ((0 : BitVec 3).toNat ≤ 5 ∧ (5 : BitVec 3).toNat ≤ 5 ∧ base.postedBy base.ctx.id = false ∧ base.ctx.intact [] []) ∧
    (posted 0).postedBy (posted 0).ctx.id = true ∧ 5 < (6 : BitVec 3).toNat := by decide +kernel
theorem witness_ConstantLoads :
    let s := scal [0x100]
    isSz 24 ∧ isSz 33 ∧ s.ctx.intact [24, 33] [] ∧ s.ctx.intact [33] [] [24] ∧
    s.translate false 0x100 .read 8 = .ok (0x40000100, page) ∧ s.mayAccessTo cacheDest 0x40000100 8 = true ∧
    s.blocked 0x40000100 8 = false ∧ s.markCause (s.locOf 0x40000100) 8 = none := by
  simp only [ok_iff]; decide +kernel
theorem witness_InvalidationResults :
    let s := withRegs fun c => { c with sup := true }
    isSName 33 ∧ s.ctx.intact [33] [] ∧ s.ctx.intact [] [] ∧ base.ctx.sup = false ∧ s.ctx.sup = true ∧ s.posted = [] ∧
    s.postedBy s.ctx.id = false ∧ (s.binding s.ctx.owner).isSome = true ∧ { s with asids := [] }.binding s.ctx.owner = none ∧
    (posted 0).postedBy (posted 0).ctx.id = true ∧ s.still ∧
    invCovers .all 0 0 0 3 = true ∧ invCovers (.va 0 0x12345) 0 0 0x1FFFF 0 = true ∧ invCovers (.tok 7) 7 0 0 0 = true ∧
    (⟨0, 0, 8, 0, .other⟩ : Overwritten).at_ ≤ base.now := by decide +kernel
theorem witness_TraceAndExit :
    isSName 33 ∧ base.ctx.intact [33] [] ∧ base.ctx.trc = false ∧ (withRegs fun c => { c with trc := true }).ctx.trc = true ∧
    (base.ctx.sib = none ∧ base.ctx.working = false ∧ base.ownedSlots base.ctx.core base.ctx.id = [] ∧ base.ctx.pend11 = 0 ∧
      base.ctx.intact [] [] ∧ base.postedBy base.ctx.id = false) ∧
    (let s := base.setSlot 2 0 { CopySlot.reset with owner := some 0, state := 1 };
      s.ctx.sib = none ∧ s.anyRunning = true) ∧
    (let q := { Sibling.at_ 2 8 0 with parked := true };
      let s := withRegs fun c => { c with sib := some q };
      s.ctx.sib = some q ∧ q.parked = true ∧ s.ctx.workingHere = false ∧ s.ctx.intact [] [] ∧
        s.ctx.atLoopEnd = false ∧ (s.ctx.exitHalf q).atLoopEnd = false) ∧ (Sibling.at_ 2 8 0).parked = false := by decide +kernel
/-- A sub-gang at the end of a counted loop. -/
def halfInLoop : Context := (withRegs fun c => { c with lc := 2, lbeg := 0, lend := 8, pc := 8, sib := some (Sibling.at_ 2 8 0) }).ctx
theorem witness_TraceAndExit_loop : halfInLoop.counting = true ∧ halfInLoop.pc = halfInLoop.lend.setWidth 64 ∧
    halfInLoop.stripping = false ∧ halfInLoop.workingHere = false ∧ halfInLoop.intact [] [] := by decide +kernel
/-- A stream with a slot that is complete, one cancelled and one faulted at 0x3000 of its page. -/
def exitSlots : State :=
  let q := fun (n : BitVec 3) => { CopySlot.reset with owner := some 0, state := n }
  ((base.setSlot 2 0 (q 3)).setSlot 2 1 (q 4)).setSlot 2 2
    { q 2 with staged := [(1, 0x3000), (2, 64)], pages := [⟨0, 0x40000000, 0x40000000, true⟩], wm := 0x3000 }
theorem witness_TraceAndExit_slots :
    let held := { exitSlots with ctx := { exitSlots.ctx with ad := true, pend11 := 4 } }
    (exitSlots.ownedSlots 2 0 = [0, 1, 2] ∧ exitSlots.ctx.sib = none ∧ exitSlots.ctx.working = false ∧ exitSlots.anyRunning = false ∧
      exitSlots.ctx.pend11 = 0 ∧ exitSlots.ctx.intact [] [] ∧ exitSlots.postedBy exitSlots.ctx.id = false ∧
      (∀ n ∈ [0, 1, 2], (exitSlots.slot 2 n).ahead = []) ∧ (exitSlots.slot 2 2).state = 2 ∧
      exitSlots.sectorsAbove (exitSlots.slot 2 2) = [0x40003000 / 32, 0x40003020 / 32]) ∧
    (held.ctx.ad = true ∧ held.ctx.pend11 ≠ 0 ∧ held.anyRunning = false) ∧
    let due := { exitSlots with ctx := { exitSlots.ctx with pend11 := 4 } };
    due.ctx.sib = none ∧ due.ctx.ad = false ∧ due.ctx.pend11 ≠ 0 := by decide +kernel

/-- A gang of two banks whose v0 to v7 are open as FP32. -/
def vectors : State := gang 2 4 (fun _ => (List.range 8).map fun n => (n, reg 1 (BitVec.ofNat 524288 n))) [1, 2, 3]
/-- The same with lanes that go on beside the stream. -/
def lazyVectors : State := { vectors with eager := false }

/-- VADD v0, v1, v2. -/
def vaddForm : LaneForm := ⟨.add, 0, 1, some 2, false, false⟩

theorem witness_LaneResults :
    let i : Instr := .vadd false false 0 1 2
    let f := SlotForm.lane vaddForm
    slotForm i = some f ∧ i.wf = true ∧ vectors.ctx.acceptsAll (f.names i) ∧ vectors.mayIssue ∧
    (let u := f.primed vectors;
      u.allPass (f.faults u) ∧ vectors.ctx.intact f.reads vecCtl ((f.names i).map Prod.snd) ∧ f.unheld i u ∧ f.lazily i u = false) ∧
    (let u := f.primed lazyVectors;
      u.allPass (f.faults u) ∧ lazyVectors.ctx.intact f.reads vecCtl ((f.names i).map Prod.snd) ∧ f.unheld i u ∧ f.lazily i u = true ∧
        u.ctx.slotsFree = true) := by decide +kernel
/-- No bank of the stream has anything in flight. -/
theorem witness_LaneResults_apart : vectors.ctx.apart := by
  intro x _ q hq
  have e : (vectors.ctx.bank x).slots = [] :=
    tabGet_of_forall (fun b : Bank => b.slots = []) _ rfl _ _ (by decide +kernel)
  simp [e] at hq
/-- A cross-bank code too stands in the slots. -/
theorem witness_LaneResults_cross :
    let s := { gang 2 4 (fun _ => (List.range 8).map fun n => (n, reg 1 (BitVec.ofNat 524288 n))) [1] with eager := false }
    let i : Instr := .shuf false 3 4 33
    (slotForm i).any (fun f => i.wf && decide (s.ctx.acceptsAll (f.names i) ∧ s.mayIssue ∧ (f.primed s).allPass (f.faults (f.primed s)) ∧
      s.ctx.intact f.reads vecCtl ((f.names i).map Prod.snd) ∧ f.unheld i (f.primed s) ∧ f.lazily i (f.primed s) = true ∧
      (f.primed s).ctx.slotsFree = true)) = true := by decide +kernel
theorem witness_LaneChecks :
    (vaddForm.b = some 2 ∧ vectors.ctx.isVName 7 ∧ tagBk 1 = false ∧ vectors.ctx.vl ≤ tagPerSeg 1 * vectors.ctx.segs ∧
      (vectors.ctx.bank 0).openWith 0 1 ∧ (vectors.ctx.bank 0).openWith 7 1 ∧ vaddForm.op.accepts 1 = true ∧
      LaneOp.accepts .shl 1 = false ∧ ((base.ctx.bank 0).row 0).st = .closed ∧ 0 < base.ctx.vl) ∧
    (let s := gang 2 4 (fun j => if j = 0 then [(0, reg 1 0), (1, reg 1 0), (2, reg 1 0)] else []) [];
      let i : Instr := .vadd false false 0 1 2
      let f := SlotForm.lane vaddForm
      slotForm i = some f ∧ s.ctx.acceptsAll (f.names i) ∧ s.mayIssue ∧ 1 ∈ bankList s.ctx.gmBanks ∧
      (∀ m ∈ bankList s.ctx.gmBanks, m < 1 → f.faults (f.primed s) m = []) ∧
      worstFailure (f.faults (f.primed s) 1) = some (0x02, 0) ∧ s.ctx.intact f.reads vecCtl ((f.names i).map Prod.snd)) := by decide +kernel
/-- A, and then B, closed beside open registers of one tag. -/
theorem witness_LaneChecks_sources :
    let b := fun n : Nat => (vectors.ctx.bank 0).setRow n { reg 1 0 with st := .closed }
    ((b 1).openWith 0 1 ∧ ((b 1).row 1).st = .closed ∧ ((b 1).row 1).tag = 1 ∧ (b 1).openWith 2 1) ∧
    ((b 2).openWith 0 1 ∧ (b 2).openWith 1 1 ∧ ((b 2).row 2).st = .closed ∧ ((b 2).row 2).tag = 1) := by decide +kernel
/-- A gang of two banks whose v0 to v6 are open as x32 and v7 as x16, and k0 bound; and the forms that LaneElements tells of. -/
def integers : State :=
  let s := gang 2 4 (fun _ => (List.range 8).map fun n => (n, reg (if n = 7 then 9 else 10) (BitVec.ofNat 524288 n))) [5]
  after (.vcopy false 8 1) s
def laneMeets (s : State) (i : Instr) : Bool := match laneForm i with
  | none => false
  | some f =>
    let g := SlotForm.lane f
    let u := g.primed s
    i.wf && decide (s.ctx.acceptsAll (laneNames i) ∧ u.allPass (g.faults u) ∧ s.ctx.intact g.reads vecCtl ((g.names i).map Prod.snd) ∧
      g.unheld i u ∧ g.lazily i u = false)
theorem witness_LaneElements : integers.mayIssue ∧
    [Instr.vadd false false 0 1 2, .vsub false true 8 8 33, .vmul true false 8 24 3, .vfma false false 0 1 2, .vfms false false 0 1 33,
      .vfnma false false 0 24 2, .vabs false 0 1, .vneg false 24 1, .vshl false false 0 1 33, .vshr false false 0 1 2, .vsar false false 0 1 2,
      .vminX false false 0 1 2, .vmaxX false false 0 1 2, .vminN false false 0 1 2, .vmaxN false false 0 1 2, .vbcast false 0 1 33,
      .viota false 9 1].all (laneMeets integers) = true ∧
    [Instr.vmulwX false false 0 1 7, .vmulwN false false 0 7 7, .vmulwX false false 0 7 33, .vcvtX false 0 1 0 8, .vcvtN false 7 1 0 9].all
      (laneMeets integers) = true ∧
    [Instr.vand false false 0 1 2, .vor false false 0 1 2, .vxor false false 0 1 24, .vandn false false 0 1 2, .vsel false false 0 1 2,
      .vcopy true 0 8, .vclr false 0 1].all (laneMeets integers) = true ∧
    (0 ∈ bankList integers.ctx.gmBanks ∧ isReg 24 = false ∧ isReg 8 = true ∧ tagI 10 = true ∧ 3 < integers.ctx.vl) := by decide +kernel
/-- The keep names of a bank with one of them bound have rows of their own. -/
theorem witness_LaneElements_rows : ((after (.vneg false 8 1) integers).ctx.bank 0).rowsApart := by
  have e : ((after (.vneg false 8 1) integers).ctx.bank 0).kname = [(0, 1)] := by decide +kernel
  intro m n r hm hn
  simp only [Bank.bound, e, tabGet, tabFind] at hm hn
  grind
theorem witness_CompareResults :
    let u := vectors.readied
    let g := SlotForm.cmp .lt .f (cmpForm .lt .f false false 0 1) 17
    isPName 17 ∧ vectors.ctx.acceptsAll [(clsVz, 0), (clsVzs, 1)] ∧ vectors.ctx.folding = false ∧ vectors.eager = true ∧
    u.allPass (g.faults u) ∧ vectors.ctx.intact [1] vecCtl [17, 0, 1] ∧ 1 ∈ bankList vectors.ctx.gmBanks ∧ 0 < vectors.ctx.vl := by
  decide +kernel
theorem witness_MoveResults :
    let u := vectors.readied
    let js := vectors.ctx.acceptsAll
    vectors.ctx.folding = false ∧ vectors.eager = true ∧ js [(clsVz, 0), (clsVz, 1), (clsS, 33)] ∧ u.allPass (slideFails 0 1 u) ∧
    vectors.ctx.intact [33] vecCtl [0, 1, 33] ∧
    js [(clsV, 0), (clsVz, 1), (clsP, 16)] ∧ u.allPass (mergeFails u 0 1 16) ∧ vectors.ctx.intact [] vecCtl := by decide +kernel
theorem witness_MoveResults_elements :
    let u := vectors.readied
    let js := vectors.ctx.acceptsAll
    js [(clsVz, 0), (clsV, 1)] ∧ (9 : BitVec 7).toNat ≤ 9 ∧ u.allPass (redFails (RedOp.of 0) 0 1 u) ∧
    js [(clsV, 0), (clsS, 33), (clsS, 34)] ∧ u.allPass (insFails 0 34 u) ∧ vectors.ctx.intact [33, 34] vecCtl ∧
    ((vectors.ctx.read 35).toNat < u.ctx.vl ∧ u.ctx.vl ≤ 4) ∧ js [(clsS, 40), (clsV, 1), (clsS, 33)] ∧ u.allPass (extFails 1 33 u) ∧
    vectors.ctx.intact [33] vecCtl [40, 1, 33] := by
  decide +kernel
theorem witness_MoveResults_perm :
    let s := gang 1 4 (fun _ => [(0, reg 1 0), (1, reg 1 0), (2, reg 10 0)]) [4]
    let u := s.readied
    s.ctx.folding = false ∧ s.eager = true ∧ s.ctx.acceptsAll [(clsVz, 0), (clsVz, 1), (clsV, 2)] ∧ u.allPass (permFails 0 1 2 u) ∧ s.ctx.intact [] vecCtl ∧
    u.ctx.vl ≤ (s.ctx.read 33).toNat := by decide +kernel
theorem witness_PredicateResults :
    let s := gang 4 100 (fun _ => []) [70]
    let t := after (.pset 17 33) s
    s.mayIssue ∧ s.ctx.intact [] vecCtl ∧ isPName 16 ∧ isPName 23 ∧ isSz 24 ∧ isSz 33 ∧ s.ctx.predsIntact [16, 23] ∧
    (0 ∈ bankList t.ctx.gmBanks ∧ 0 < t.ctx.vl ∧ ((t.ctx.bank 0).pred 1).getLsbD 0 = true) ∧
    (∀ j ∈ bankList s.ctx.gmBanks, ∀ e < s.ctx.vl, ((s.ctx.bank j).pred 1).getLsbD e = false) := by decide +kernel
theorem witness_PredicateResults_scalars :
    let s := gang 4 100 (fun _ => []) [70]
    s.ctx.intact [33] [] ∧ s.ctx.intact [] vecCtl [24] ∧ s.ctx.intact [33] [] [24] ∧ s.ctx.intact [33, 33] [] ∧
    tabGet false s.ctx.bad (512 + 2048 * lowBank s.ctx.gmBanks + 256 * 7 + 255) = false := by decide +kernel
theorem witness_GangResults :
    let u := vectors.readied
    vectors.ctx.folding = false ∧ vectors.eager = true ∧ vectors.mayIssue ∧ vectors.ctx.intact [] [] ∧
    vectors.ctx.acceptsAll [(clsVz, 0), (clsVz, 1)] ∧ u.allPass (gangFails u 0 1 id fun _ => true) ∧
    vectors.ctx.intact [33] vecCtl ∧ vectors.ctx.intact [] vecCtl ∧ isSz 24 ∧ isSName 33 ∧ (9 : BitVec 7).toNat ≤ 9 ∧ vectors.ctx.acceptsAll [(clsVz, 0), (clsV, 1)] ∧
    u.allPass (gangFails u 0 1 (RedOp.of 0).tagR (RedOp.of 0).accepts) ∧ vectors.postedBy vectors.ctx.id = false ∧
    (posted 0).postedBy (posted 0).ctx.id = true ∧ vectors.ctx.workingHere = false := by decide +kernel
theorem witness_GangResults_sync : vectors.ctx.intact [] [0x0E] := by decide +kernel
theorem witness_SubGangs :
    let s := gang 4 1 (fun _ => []) [0x480]
    let some1 := s.withCtx { s.ctx with banks := [(1, { Bank.reset with preds := [(1, 1)] })] }
    let all := s.withCtx { s.ctx with banks := (List.range 4).map fun j => (j, { Bank.reset with preds := [(1, 1)] }) }
    let taken := fun (s : State) j => ((s.ctx.bank j).pred 1).getLsbD 0
    isPName 17 ∧ isSName 33 ∧ s.ctx.gmSub = false ∧ s.ctx.counting = false ∧ s.ctx.stripping = false ∧ s.mayIssue ∧
    (s.ctx.read 33).toNat % 4 = 0 ∧ s.ctx.intact [33] [0x0E] ∧
    (∀ j ∈ bankList s.ctx.gmBanks, tabGet false s.ctx.bad (512 + 2048 * j + 256) = false) ∧
    (∀ j ∈ bankList s.ctx.gmBanks, taken s j = false) ∧ (∀ j ∈ bankList all.ctx.gmBanks, taken all j = true) ∧ bankList all.ctx.gmBanks ≠ [] ∧
    (1 ∈ bankList some1.ctx.gmBanks ∧ taken some1 1 = true ∧ 0 ∈ bankList some1.ctx.gmBanks ∧ taken some1 0 = false) := by decide +kernel
theorem witness_SubGangs_join :
    let s := fun (q : Option Sibling) => withRegs fun c => { c with gmBanks := 1, gmSub := true, sib := q }
    let q := Sibling.at_ 2 8 0
    (s none).ctx.gmSub = true ∧ (s none).mayIssue ∧ (s none).ctx.sib = none ∧ (s none).ctx.intact [] [0x0E, 0x1F] ∧ (s (some q)).ctx.intact [] [0x0E, 0x1F] ∧
    ((s (some q)).ctx.sibHeld = false ∧ q.parked = false ∧ (s (some q)).mayIssue) ∧
    ((s (some { q with pc := 0, parked := true })).ctx.pc = 0 ∧ (s (some { q with pc := 0, parked := true })).ctx.atLoopEnd = false) ∧
    (s (some { q with parked := true })).ctx.pc ≠ 8 := by decide +kernel

/-- base with v0 open on the row at virtual address 0, and scalars for a row, another row of the same segment, and a descriptor. -/
def openRow : State := after (.act 0 33 1) (scal [0, 0x2000, 0x100000])

theorem witness_RowResults :
    let s := scal [0, 0x2000]
    let u := s.rowReadied
    let reg := fun (t : State) j => (t.ctx.bank j).row 0
    s.mayIssue ∧ s.ctx.isVName 0 ∧ (7 : NameF).toNat < 8 ∧ isSName 33 ∧ s.ctx.intact [33] [0x03, 0x0E] ∧
    u.rowsReady .row (s.ctx.read 33) u.ctx.segs = true ∧ u.rowsReady .write (s.ctx.read 33) u.ctx.segs = true ∧
    u.allPass (fun j => failIf (decide ((reg u j).st ≠ .closed)) 0x02 (nameWord 0) ++ u.placeFails .row 0 (s.ctx.read 33) j) ∧
    u.allPass (fun j => failIf (decide ((reg u j).st ≠ .closed)) 0x02 (nameWord 0) ++ u.placeFails .write 0 (s.ctx.read 33) j) ∧
    u.ctx.unlocked [] [0] = true ∧
    u.stripOpen = true ∧ (∀ j ∈ bankList s.ctx.gmBanks, u.rowsBlocked (u.rowPa .row (s.ctx.read 33) j 0) u.ctx.segs = false) := by
  decide +kernel
theorem witness_RowResults_open :
    let s := openRow
    let u := s.rowReadied
    let c := u.ctx
    let reg := fun (t : State) j => (t.ctx.bank j).row 0
    s.mayIssue ∧ s.ctx.intact [] [0x03, 0x0E] ∧ s.ctx.intact [33, 34] [0x0E] ∧ s.ctx.intact [34, 35] [0x03, 0x0E] ∧
    s.readied.ctx.unlocked [] [0] = true ∧
    u.allPass (fun j => (c.bank j).rowState 0 ++ failIf ((reg u j).pinned.any fun p => !p.w) 0x09 ((reg u j).pin.setWidth 64)) ∧
    u.stripOpen = true ∧ (∀ j ∈ bankList s.ctx.gmBanks, u.rowsBlocked (reg u j).base c.segs = false) ∧
    (u.rowsReady .row (s.ctx.read 33) 1 = true ∧ u.rowsReady .write (s.ctx.read 34) 1 = true ∧
      u.allPass (u.rcopyFails (s.ctx.read 33) (s.ctx.read 34)) ∧
      ∀ j ∈ bankList s.ctx.gmBanks, u.rowsBlocked (u.rowPa .row (s.ctx.read 33) j 0) 1 = false ∧
        u.rowsBlocked (u.rowPa .write (s.ctx.read 34) j 0) 1 = false) ∧
    (u.descReady .write (s.ctx.read 35) = true ∧ u.rowsReady .write (s.ctx.read 34) c.segs = true ∧
      u.allPass (fun j => (if (reg u j).st ≠ .closed then u.placeFails .write 0 (s.ctx.read 34) j else []) ++ u.descFails .write (s.ctx.read 35) j) ∧
      ∀ j ∈ bankList s.ctx.gmBanks, (reg u j).st ≠ .closed ∧ u.rowsBlocked (u.rowPa .write (s.ctx.read 34) j 0) c.segs = false) := by
  decide +kernel
theorem witness_RowResults_load :
    let s := after (.pre 0) (after (.saverow 0 34 35) openRow)
    let u := s.rowReadied
    let c := u.ctx
    s.mayIssue ∧ s.ctx.intact [34, 35] [0x03, 0x0E] ∧ u.descReady .read (s.ctx.read 35) = true ∧ u.stripOpen = true ∧
    u.allPass (u.loadrowFails 0 (s.ctx.read 34) (s.ctx.read 35)) ∧ c.unlocked [] [0] = true ∧
    (∀ j ∈ bankList s.ctx.gmBanks, u.rePinWaits c (u.descriptorAt (s.ctx.read 35) j) = false) ∧
    (∀ j ∈ bankList s.ctx.gmBanks, ∀ i < 5, u.mayAccess (u.descPa .read (s.ctx.read 35) j i) 512 = true ∧
      u.blocked (u.descPa .read (s.ctx.read 35) j i) 512 = false) ∧
    ∀ j ∈ bankList s.ctx.gmBanks, u.descriptorAt (s.ctx.read 35) j % 4 ≠ 0 ∧ (∀ i < c.segs, isWait (u.rowAt .row (s.ctx.read 34) j i) = false) ∧
      u.rowsBlocked (u.rowPa .row (s.ctx.read 34) j 0) c.segs = false := by decide +kernel
theorem witness_ShapeAndRefresh :
    let s := scal [16384, 1, 16385, 0]
    s.mayIssue ∧ ((14 : BitVec 4).toNat + (0 : BitVec 4).toNat ≤ 14 ∧ 14 < (15 : BitVec 4).toNat + (0 : BitVec 4).toNat) ∧
    isSz 33 ∧ s.ctx.intact [33, 34] [] ∧ s.ctx.intact [] [] ∧ (1 ≤ (s.ctx.read 33).toNat ∧ (s.ctx.read 33).toNat ≤ 16384 ∧
      1 ≤ (s.ctx.read 34).toNat ∧ (s.ctx.read 33).toNat * (s.ctx.read 34).toNat ≤ 16384) ∧ 16384 < (s.ctx.read 35).toNat ∧
    (s.ctx.read 36).toNat = 0 ∧ 16384 < (s.ctx.read 33).toNat * (s.ctx.read 33).toNat := by decide +kernel
theorem witness_ShapeAndRefresh_banks :
    let s := scal [1]
    (s.ctx.gmSub = false ∧ s.ctx.working = false ∧ s.ctx.intact [] [0x03, 0x0E] ∧
      ∀ j ∈ bankList s.ctx.gmBanks, ∀ n < s.ctx.nNames, ((s.rowReadied.ctx.bank j).row n).st = .closed) ∧
    (s.ctx.acceptsAll [(clsV, 8)] ∧ s.ctx.lt = false) ∧
    (1 ≤ (8 : BitVec 4).toNat ∧ (8 : BitVec 4).toNat ≤ 8 ∧ s.ctx.intact [] [0x0E] ∧ s.ctx.intact [33] [0x0E]) ∧
    { s with eager := false }.eager = false ∧ s.ctx.trc = false ∧ s.eager = true ∧
    (∀ j ∈ bankList s.ctx.gmBanks, tabGet [] (s.begun.core s.ctx.core).refReq j = []) := by decide +kernel
theorem witness_ShapeAndRefresh_tag :
    openRow.ctx.acceptsAll [(clsV, 0)] ∧ openRow.mayIssue ∧ openRow.readied.ctx.unlocked [] [0] = true ∧
      openRow.ctx.intact [] [0x00, 0x03, 0x0E] ∧
      ∀ j ∈ bankList openRow.ctx.gmBanks, ((openRow.readied.ctx.bank j).row 0).st = .opened := by decide +kernel

/-- base with a copy of one byte from 0x2000 to 0x4000 staged. -/
def stagedCopy : State := after (.cset 34 1) (after (.cset 33 0) (scal [0x2000, 0x4000, 3, 16]))

theorem witness_CopyResults :
    let s := stagedCopy
    let p : DestPage := ⟨0, 0x40000000, 0x40000000, true⟩
    let q := s.begun.newCopy
    let q1 := { q with pages := [p] }
    s.mayIssue ∧ (21 : BitVec 7).toNat ≤ 21 ∧ isSz 24 ∧ isSz 35 ∧ s.ctx.intact [35] [] ∧ s.begun.stripOpen = true ∧
    (s.ctx.read 35).toNat < 16 ∧ s.begun.usableSlot (s.ctx.read 35) = some 3 ∧
    (s.ownedSlots s.ctx.core s.ctx.id).length < s.ctx.nslots ∧ q.total ≤ 2 ^ 48 ∧ q.badLevel = none ∧ q.dc = 0 ∧
    s.begun.destPages q (q.pageFuel (q.dst 0)) (q.dst 0) = .ok [p] ∧
    s.begun.detentsFree q.ticket (s.begun.coresOf q1 q1.coreFuel (q1.dst 0)) = true ∧ s.ctx.trc = false ∧
    s.begun.usableSlot 0xFFFFFFFFFFFFFFFF = some 0 ∧ 16 ≤ (s.ctx.read 36).toNat := by
  simp only [ok_iff]; decide +kernel
/-- An older copy of another stream waits for detents in the destination's core. -/
theorem witness_CopyResults_waits :
    let x := stagedCopy
    let s := { x with others := [(1, { x.ctx with id := 1, detentWait := some ⟨0, [2]⟩ })], ticket := 1 }
    let q1 := { s.begun.newCopy with pages := [⟨0, 0x40000000, 0x40000000, true⟩] }
    s.begun.detentsFree q1.ticket (s.begun.coresOf q1 q1.coreFuel (q1.dst 0)) = false := by decide +kernel
theorem witness_CopyResults_slots :
    let s := fun (n : BitVec 3) => (after (.cgo 35) stagedCopy).setSlot 2 3 { (after (.cgo 35) stagedCopy).slot 2 3 with state := n }
    let q := fun n => (s n).slot (s n).ctx.core 3
    ((s 1).ctx.read 35).toNat = 3 ∧ (q 1).owner = some (s 1).ctx.id ∧ (q 1).state = 1 ∧ (q 2).state = 2 ∧ (q 3).state = 3 ∧ (q 4).state = 4 ∧
    ((s 1).slot 2 4).owner ≠ some (s 1).ctx.id ∧ (s 1).mayIssue ∧ (s 1).ctx.intact [35] [] [24] ∧
    (let t := (s 2).withCtx { (s 2).ctx with pend11 := 8 }; t.ctx.ad = false ∧ t.ctx.pend11.getLsbD 3 = true) ∧
    (s 2).begun.destPages (q 2) ((q 2).pageFuel (q 2).wm) (q 2).wm = .ok [⟨0, 0x40000000, 0x40000000, true⟩] ∧
    (let q1 := { q 2 with
        pages := ((q 2).pages.filter fun p => !([(⟨0, 0x40000000, 0x40000000, true⟩ : DestPage)].any fun r =>
          decide (r.va < p.va + p.size ∧ p.va < r.va + r.size))) ++ [⟨0, 0x40000000, 0x40000000, true⟩]
        state := 1, cause := 0, next := (q 2).start };
      (s 2).begun.detentsFree (q 2).ticket (((s 2).begun.coresOf q1 q1.coreFuel (q1.dst 0)).filter fun k => !(q 2).cores.contains k) = true) := by
  simp only [ok_iff]; decide +kernel
/-- A store of the stream from before a strip start: it waits behind no detent, and behind one. -/
theorem witness_CopyResults_strip :
    let x := after (.cgo 35) stagedCopy
    let y : Posted := ⟨0, 2, 0, true, 0x3000, 0x40003000, 8, 7, false, true, 0, false, 0⟩
    let s := { x with posted := [y] }
    let g := s.setSlot 5 0 (guarded.slot 5 0)
    (s.slot 2 3).owner = some s.ctx.id ∧ (s.slot 2 3).state = 1 ∧ (s.begun.stripOpen = false ∧ s.begun.storeGuarded s.ctx.id = false) ∧
    g.begun.stripOpen = false ∧ g.begun.storeGuarded s.ctx.id = true := by decide +kernel
/-- A faulted slot as CRESUME finds it: nothing read ahead, no record and no piece. -/
theorem witness_CopyResults_resume :
    let x := (after (.cgo 35) stagedCopy).slot 2 3
    let q := { x with state := 2 }
    q.ahead = [] ∧ q.records = [] ∧ q.fetched = 0 := by decide +kernel
/-- A faulted copy with no detent left, and an older one of another stream that waits in the core of its destination. -/
theorem witness_CopyResults_resume_waits :
    let x := after (.cgo 35) stagedCopy
    let q := { x.slot 2 3 with state := 2, cores := [], ticket := 5 }
    let s := { x.setSlot 2 3 q with others := [(1, { x.ctx with id := 1, detentWait := some ⟨0, [2]⟩ })], ticket := 9 }
    let p : DestPage := ⟨0, 0x40000000, 0x40000000, true⟩
    let q1 := { q with
      pages := (q.pages.filter fun p => !([p].any fun r => decide (r.va < p.va + p.size ∧ p.va < r.va + r.size))) ++ [p]
      state := 1, cause := 0, next := q.start }
    s.slot 2 3 = q ∧ s.begun.destPages q (q.pageFuel q.wm) q.wm = .ok [p] ∧
    s.begun.detentsFree q.ticket ((s.begun.coresOf q1 q1.coreFuel (q1.dst 0)).filter fun k => !q.cores.contains k) = false := by
  simp only [ok_iff]; decide +kernel
theorem witness_MatrixResults :
    let s := scal [0x80, 0x10101, 0, 1, 2, 3]
    isSz 24 ∧ isSz 33 ∧ s.ctx.folding = false ∧ s.ctx.intact [33] [] [24] ∧ s.ctx.intact [34] [] [24] ∧ (s.core s.ctx.core).mat = true ∧
    (s.ctx.read 33).getLsbD 7 = true ∧ (s.ctx.read 34).getLsbD 7 = false ∧ (s.core s.ctx.core).slice = none ∧
    ((s.setCore 2 { s.core 2 with slice := some 7 }).core s.ctx.core).slice = some 7 ∧ 7 ≠ s.ctx.id ∧
    ((s.setCore 2 { s.core 2 with mat := false }).core 2).mat = false ∧ s.mayIssue ∧ isKName 8 ∧ isKName 15 ∧
    s.readied.ctx.unlocked [] [15] = true ∧ s.ctx.intact [] [0x0E] ∧ (15 : NameF).toNat - 8 < s.ctx.keep := by decide +kernel
theorem witness_MatrixResults_stat :
    let s := scal [0x80, 0x10101, 0, 1, 2, 3]
    s.ctx.foldFault = none ∧ s.ctx.intact [35] [0x12] [24] ∧ s.ctx.intact [] [] ∧
    (withRegs fun c => { c with foldFault := some 5 }).ctx.foldFault = some 5 ∧
    s.ctx.read 35 = 0 ∧ s.ctx.read 36 = 1 ∧ s.ctx.read 37 = 2 ∧ 2 < (s.ctx.read 38).toNat := by decide +kernel

/-- A stream with the slice, k0 cleared, and FP32 operands in v0 and v1. -/
def foldReady : State :=
  let s := gang 1 1 (fun _ => [(0, reg 1 0x3F800000), (1, reg 1 0x40000000)]) [0x10101]
  let t := after (.mzero 8) (after (.mshape 40 33) s)
  t.withCtx { t.ctx with banks := tabPut t.ctx.banks 0 { t.ctx.bank 0 with
    rows := [(0, reg 2 0x3F80), (1, reg 2 0x4000)] } }

theorem witness_MatrixResults_mmf :
    let s := foldReady
    let u := s.readied
    let low := lowBank s.ctx.gmBanks
    (Instr.mmf false false 8 0 1).wf = true ∧ s.ctx.acceptsAll [(clsKz, 8), (clsV, 0), (clsV, 1)] ∧ s.ctx.mmf = none ∧ s.others = [] ∧
    s.ctx.intact [] [0x00, 0x03, 0x0E] ∧
    checkBanks (mmfFailsIn u 8 0 1 low) (bankList s.ctx.gmBanks) = .ok () ∧ s.ctx.mg ≠ 0 ∧ s.ctx.doomQ ≠ some s.ctx.mseq.toNat ∧
    s.ctx.foldFault = none ∧ s.mayIssue ∧
    (let t := s.withCtx { s.ctx with mg := 0 };
      t.ctx.mg = 0 ∧ checkBanks (mmfFailsIn t.readied 8 0 1 low) (bankList t.ctx.gmBanks) = .ok ()) ∧
    (after (.mmf false false 8 0 1) s).ctx.folding = true ∧ (after (.mmf false false 8 0 1) s).mayIssue := by
  simp only [ok_iff]; decide +kernel
/-- An MMF in flight in the stream's bank, which a trap entry stops, and one that it has stopped already. -/
def folding : State := after (.mmf false false 8 0 1) foldReady
theorem witness_TrapEntry_fold :
    (folding.ctx.mmf.any fun m => !m.released && !m.stopped) = true ∧ folding.ctx.workingHere = true ∧ folding.ctx.intact [] [0x0E] ∧
    ((folding.takeTrap 0x20 5 none).ctx.mmf.any fun m => m.stopped) = true := by decide +kernel
theorem witness_EngineEvents :
    (let s := withRegs fun c => { c with pc := 2 };
      s.fetchWord s.ctx.pc = .error (.trap 0x0F 2 none)) ∧ isBreakWord 0 = false ∧ isBreakWord 0x7B000084 = true ∧
    (withRegs fun c => { c with yielding := true }).ctx.yielding = true ∧
    (base.setCore 2 { base.core 2 with debt := [(0, 8)] }).lanesHeld 0 = true ∧
    tabGet [] ((base.setCore 2 { base.core 2 with refReq := [(3, [(2, false), (1, false)])] }).core 2).refReq 3 = [(2, false), (1, false)] ∧
    tabGet [] (base.core 2).refReq 3 = [] ∧ (base.ctx.slipBound 0 = false ∧ base.lanesHeld 0 = false) ∧ base.ctx.slip ≠ 0 := by
  simp only [error_iff]; decide +kernel
/-- That VADD in bank 1. -/
def oneBusy : State := withRegs fun c => { c with slip := 0, gmBanks := 3, banks := [(1, { Bank.reset with slots := [inSlot] })] }
theorem witness_EngineEvents_lanes :
    oneBusy.ctx.slipBound 0 = true ∧ oneBusy.lanesHeld 1 = false ∧ oneBusy.ctx.lockstep 1 = [1] ∧
    (∀ i ∈ bankList (oneBusy.ctx.gangOf 1), (oneBusy.ctx.bank i).work ≤ (oneBusy.ctx.bank 1).work) ∧
    ∀ i ∈ oneBusy.ctx.lockstep 1, ∀ q, (oneBusy.ctx.bank i).slots.head? = some q → (slotForm q.instr).all (fun f => !f.cross) = true := by
  refine ⟨by decide +kernel, by decide +kernel, by decide +kernel, by decide +kernel, fun i hi q h => ?_⟩
  rw [show oneBusy.ctx.lockstep 1 = [1] by decide +kernel, List.mem_singleton] at hi
  subst hi
  have e : q = inSlot := (Option.some.inj h).symm
  subst e; decide
theorem witness_EngineEvents_governor :
    let s := withRegs fun c => { c with energy := 1 }
    let n := base.setTier 3 { base.tier 3 with temp := 90 }
    0 < 8 ∧ (s.stack 0).allow < (s.stack 0).allow + 1 ∧ (s.holdable 0).length = 1 ∧ n.holdable 0 = [] ∧
    (let proj := 2 * (n.stack 0).allow + 1;
      21 * (n.stack 0).allow < 20 * proj ∧ 3 / 16 = 0 ∧ (n.tier 3).online = true ∧ (n.tier 3).pwr = false ∧
        (∀ x < 16, (n.tier x).temp ≤ (n.tier 3).temp)) ∧ 5 / 16 ≠ 1 := by decide +kernel
theorem witness_EngineEvents_sensors :
    ((base.tier 127).online = true ∧ (base.tier 127).thermal ≠ 3) ∧
    ((base.setTier 0 { base.tier 0 with online := false }).tier 0).online = false ∧
    ((base.setTier 0 { base.tier 0 with thermal := 3 }).tier 0).thermal = 3 ∧ (105 ≤ 105 ∧ 255 < 256 ∧ 94 < 95) ∧
    0 ≤ (base.stack 0).allow ∧ base.ctx.place = .resident := by decide +kernel

/-- base with queue 3 bound to the owner token 0x77 and its head slot written with a record or a packet. -/
def queued (dbg : Bool) (bytes : Nat) : State :=
  let s := withRegs fun c => { c with owner := 0x77, place := .resident }
  let s := { s with asids := [(0, { token := 0x77, v := true, root := 0 })] }
  let s := s.setQueue 3 { QueueRec.reset with token := 0x77, dbg := dbg, seen := [(0, true)] }
  { s with mem := memWrite s.mem (s.locOf (slotAddr 3 0)) 256 bytes }

/-- A record of one stream: LEN 256, VER 1, ENTRY 0x100, OWNER 0 and DONEA 0x200. -/
def recordBytes : Nat := 256 + 1 * 2 ^ 16 + 0x100 * 2 ^ 64 + 0x200 * 2 ^ 384

theorem witness_LaunchAndDebugEvents_record :
    (base.monitorSees 0 = false) ∧
    (let s := queued false recordBytes;
      s.monitorSees 3 = true ∧ (s.queue 3).dbg = false ∧ s.recordReason 3 (parseRecord (s.slotBytes 3 (s.queue 3).head)) = .ok 0) ∧
    (let s := queued false 0;
      s.monitorSees 3 = true ∧ s.recordReason 3 (parseRecord (s.slotBytes 3 (s.queue 3).head)) = .ok (0 + 1) ∧
      (s.rejectRecord 3 (parseRecord (s.slotBytes 3 (s.queue 3).head)) 1).toOption.isSome = true) := by
  simp only [ok_iff]; decide +kernel

/-- The accepted launch of queued, not yet ready. -/
def accepted : State := after (.launchRecord 3) (queued false recordBytes)

/-- accepted after its prerequisites, then dispatched. -/
def ready1 : State := after (.prerequisiteWake 1) accepted
def dispatched : State := after .launchDispatch ready1

theorem witness_LaunchAndDebugEvents_launch :
    (tabFind accepted.launches 1).any (fun l => accepted.heads 1 l && !l.ready &&
      (List.range l.record.npre).all fun i => accepted.holdsPre l.record.owner (l.record.preas.getD i 0) (l.record.prevs.getD i 0)) = true ∧
    base.nextHead = none ∧ ready1.nextHead = some 1 ∧ (tabFind ready1.launches 1).isSome = true ∧
    dispatched.nextAction.isSome = true ∧ base.nextAction.isNone = true ∧
    (let s := { dispatched with launches := dispatched.launches.map fun (e : Nat × Launch) => (e.1, { e.2 with state := 3, ended := 1 }) };
      (tabFind s.launches 1).any (fun l => decide (l.state = 3 ∧ l.record.streams ≤ l.ended) &&
        (s.completionWrite l.record.owner l.record.donea l.record.donev).toOption.isSome) = true) := by decide +kernel
theorem witness_LaunchAndDebugEvents_streams :
    base.ctx.stoppable = true ∧ (withRegs fun c => { c with place := .away }).ctx.resident = false ∧
    (withRegs fun c => { c with inv := true }).ctx.resident = true ∧ (withRegs fun c => { c with inv := true }).ctx.stoppable = false ∧
    base.entriesOf base.ctx.prio = [] ∧ base.ctx.ord = false ∧ base.ctx.place = .resident ∧
    base.halts = [] ∧ (withRegs fun c => { c with haltReq := some 1 }).ctx.haltReq = some 1 ∧ base.ctx.haltReq = none := by decide +kernel
theorem witness_LaunchAndDebugEvents_waits : oneOpen.ctx.stoppable = true ∧ oneOpen.haltWaits = false ∧ (guardedSave oneOpen).haltWaits = true ∧
    (guardedSave oneOpen).ctx.resident = true := by decide +kernel
/-- A parked stream of an ordered launch, and the context before it, away, that needs its bank. -/
def parkedOrdered : State :=
  let s := withRegs fun c => { c with ord := true, l := 5, parked := some 0x40000100 }
  { s with others := [(1, { s.ctx with id := 1, l := 2, parked := none, place := .away })] }
theorem witness_LaunchAndDebugEvents_give :
    parkedOrdered.ctx.ord = true ∧ parkedOrdered.ctx.waitsOnWord = true ∧ parkedOrdered.ctx.stoppable = true ∧
    parkedOrdered.allCtxs.any (fun p => decide (p.place = .away ∧ p.seq = parkedOrdered.ctx.seq ∧ p.l < parkedOrdered.ctx.l ∧
      (parkedOrdered.whereIs p).core = parkedOrdered.ctx.core ∧
      gangSlot (parkedOrdered.whereIs p).gmWlog.toNat (parkedOrdered.whereIs p).gmBase.toNat &&& parkedOrdered.ctx.allBanks ≠ 0) &&
      parkedOrdered.allCtxs.all fun x => decide (x.place = .away → p.l ≤ x.l ∧ (x.l = p.l → x.id = p.id))) = true ∧
    base.allCtxs.all (fun p => decide (p.place ≠ .away)) = true := by decide +kernel
/-- An entry of equal priority whose only slot base's stream holds. -/
theorem witness_LaunchAndDebugEvents_equal :
    let r := { record with places := [5, 0, 0, 0, 0, 0], widths := [10, 0, 0, 0, 0, 0], exts := [2, 0, 0, 0, 0, 0], flags := 4 * 64 }
    let s := { base with launches := [(1, { launch with record := r, started := [0, 1] })] }
    (s.entriesOf s.ctx.prio).any (fun w => !sameOrdered w s.ctx && (s.placeFor w).isNone &&
      (s.displaceable w (w.prio + 1)).contains s.ctx) = true := by decide +kernel

/-- A packet: LEN 256, VER 1, an operation on the stream (0, 0), with RESPA and DONEA in base's page. -/
def packetBytes (op : Nat) : Nat := 256 + 2 ^ 16 + op * 2 ^ 24 + 8 * 2 ^ (8 * 40) + 0x200 * 2 ^ (8 * 48) + 0x400 * 2 ^ (8 * 64)

/-- A copy that guards 8 KiB of base's page from 0 on. -/
def wideCopy : CopySlot := { CopySlot.reset with
  owner := some 9, state := 1, staged := [(1, 0), (2, 8192)], pages := [⟨0, 0x40000000, 0x40000000, true⟩], installed := true }

theorem witness_LaunchAndDebugEvents_packet :
    let s := fun op => queued true (packetBytes op)
    let k := fun op => parsePacket ((s op).slotBytes 3 ((s op).queue 3).head)
    (s 5).monitorSees 3 = true ∧ ((s 5).queue 3).dbg = true ∧ ((s 5).queue 3).busy = false ∧ (k 5).ok = true ∧ (k 5).owner = 0 ∧ (k 5).op = 5 ∧
    (k 9).op = 9 ∧ ((s 5).target (k 5)).any (fun c => decide (c.owner = 0x77 ∧ c.place = .resident)) = true ∧
    (match (s 5).packetOp 0x77 (k 5) with
      | .done status haltr t => ((t.packetDone 3 ((s 5).queue 3).head 4 status haltr (k 5).donea (k 5).donev).toOption.isSome)
      | _ => false) = true ∧
    (match ((s 6).setSlot 5 0 wideCopy).packetOp 0x77 (k 6) with
      | .retry => true
      | _ => false) = true ∧
    (((s 3).withCtx { (s 3).ctx with place := .halted 2 }).target (k 3)).isSome = true ∧
    (((s 3).withCtx { (s 3).ctx with place := .away }).target (k 3)).isSome = true ∧
    (((s 2).withCtx { (s 2).ctx with owner := 0x78 }).target (k 2)).any (fun c => decide (c.owner ≠ 0x77)) = true ∧ (k 4).step = false ∧
    (let c := ((s 4).withCtx { (s 4).ctx with place := .halted 2 }); c.halts = [] ∧ c.answerHalts.halts = []) := by
  decide +kernel
/-- A HALT of another queue still stands for the stream that a RESUME would let go on: the write that would answer it waits behind a detent. -/
theorem witness_LaunchAndDebugEvents_resume :
    let x := queued true (packetBytes 4)
    let y := (x.withCtx { x.ctx with place := .halted 2 }).setSlot 5 0 wideCopy
    let s := { y with halts := [⟨3, 1, x.ctx.id, false, 0x400, 1⟩] }
    (parsePacket (x.slotBytes 3 (x.queue 3).head)).op = 4 ∧ (s.target (parsePacket (x.slotBytes 3 (x.queue 3).head))).any
      (fun c => decide (c.owner = 0x77 ∧ c.place = .halted 2 ∧ ∃ w ∈ s.answerHalts.halts, w.ctx = c.id)) = true := by decide +kernel
theorem witness_FabricEvents :
    base.ctx.place = .resident ∧ (base.asid 0).v = true ∧
    base.walk (base.asid 0).token 0 0x8000000000 4 ((base.asid 0).root.toNat * 2 ^ 20) = trapS 0x08 (BitVec.ofNat 64 0x8000000000) ∧
    base.walk (base.asid 0).token 0 0x100 4 ((base.asid 0).root.toNat * 2 ^ 20) = .ok page ∧
    (∃ p, (posted 0).posted[0]? = some p ∧ (posted 0).canPerform 0 p = true ∧ (posted 0).backed false p.pa = true ∧ (posted 0).posted = [p] ∧
      spaceOf p.pa = .device ∧ coreOfLoc ((posted 0).locOf p.pa) = 2) ∧
    (∃ p, { guarded with posted := [{ ctx := 0, core := 2, va := 0x3000, pa := 0x40003000, n := 8, v := 7, rel := false, before := false, at_ := 0, token := 0, sent := true }] }.posted[0]? =
      some p ∧ guarded.canPerform 0 p = false) := by
  refine ⟨by decide +kernel, by decide +kernel, ?_, ?_, ⟨_, rfl, by decide +kernel, by decide +kernel, rfl, by decide +kernel, by decide +kernel⟩,
    ⟨_, rfl, by decide +kernel⟩⟩
  · unfold trapS; rw [error_iff]; decide +kernel
  · rw [ok_iff]; decide +kernel
/-- The copy of one byte, running, with its run translated; and what it has read. -/
def copying : State :=
  let s := after (.cgo 35) stagedCopy
  s.setSlot 2 3 { s.slot 2 3 with runEnd := 1 }
def hasRead : State := copying.setSlot 2 3 { copying.slot 2 3 with ahead := [7] }
theorem witness_FabricEvents_copies :
    let q := copying.slot 2 3
    let s1 := copying.setCore 2 { copying.core 2 with readTurn := 3 }
    let va := (q.src q.readNext).toNat
    (copying.slot 2 4).state ≠ 1 ∧ copying.readTurn 2 = some 3 ∧ copying.readTurn 5 ≠ some 3 ∧
    (copying.readAt 2 3).all (copying.mayReach 2 1) = true ∧ (q.entered q.readNext).isSome = true ∧ q.readNext < q.runEnd ∧
    q.doom = none ∧ q.dc = 0 ∧ q.readSize ≤ q.fetched + 256 ∧
    ((s1.readSource q ((q.entered q.readNext).getD 0) none va (pieces va q.readSize)).toOption).isSome = true := by decide +kernel
theorem witness_FabricEvents_landing :
    let q := hasRead.slot 2 3
    let s1 := hasRead.setCore 2 { hasRead.core 2 with copyTurn := 3 }
    hasRead.copyTurn 2 = some 3 ∧ q.landAddr.all (hasRead.mayReach 2 1) = true ∧ q.ahead = [7] ∧
    (s1.landCheck q q.landing).toOption = some () ∧ q.esize ≤ q.moved + 256 ∧
    { q with staged := [(2, 512)] }.moved + 256 < { q with staged := [(2, 512)] }.esize ∧
    { q with staged := [(2, 512)] }.fetched + 256 < { q with staged := [(2, 512)] }.readSize ∧
    q.installed = true ∧ q.cores.contains 2 = true ∧ ((hasRead.setSlot 2 3 { q with state := 4 }).slot 2 3).state = 4 := by decide +kernel
theorem witness_FabricEvents_decompress :
    let s := after (.cgo 35) stagedCopy
    let q := s.slot 2 3
    let z := (s.setSlot 2 3 { q with staged := [(0, 0), (1, 0), (2, 8192), (3, 1)], records := [⟨1, 0, false, none, 0, 0⟩] }).setStack 0
      { s.stack 0 with decomp := [(2, 3)] }
    (z.slot 2 3).records = [⟨1, 0, false, none, 0, 0⟩] ∧ z.copyGoes 2 (z.slot 2 3) = true ∧ z.decompStack 2 (z.slot 2 3) 0 = 0 ∧
    recordRow (z.slot 2 3).dc 1 = some (some 0) ∧ (z.stack 0).decomp.head? = some (2, 3) := by decide +kernel
/-- A record of class 1 that is not escaped and holds no byte: a row of zeros (R320). -/
theorem witness_FabricEvents_record : recordRow 1 1 = some (some 0) := by decide +kernel
/-- Nothing of base waits at any endpoint. -/
theorem witness_FabricEvents_walk (core cls : Nat) : base.arrivals core cls = [] := by
  have p : base.posted = [] := rfl
  have x : base.externals = [] := rfl
  have q : base.allSlots = [] := by decide +kernel
  have c : base.allCtxs.flatMap (base.turnWaits core) = [] := rfl
  match cls with
  | 0 => simp [State.arrivals, State.scalarQueue, p, c]
  | 1 => simp [State.arrivals, State.landingsAt, State.readsAt, q]
  | _ + 2 => simp [State.arrivals, x]
/-- The only posted store of a state is the oldest of its class. -/
theorem witness_FabricEvents_oldest : copying.oldestAt 1 (copying.readAge 2 3) 0x40002000 = true ∧ copying.rawReady 2 3 = none ∧
    hasRead.oldestAt 1 (hasRead.slot 2 3).front 0x40004000 = true ∧ hasRead.copyTurn 2 = some 3 ∧
    (hasRead.slot 2 3).window.all (fun e => decide (e.2 ≤ (hasRead.slot 2 3).next + 1 +
      max 1 ((hasRead.core 2).share (hasRead.slot 2 3) / max 1 (hasRead.slot 2 3).readSize))) = true := by decide +kernel
/-- An escaped record of class 1, taken, with its raw row at 0x2000 (R322). -/
def rawReading : State :=
  let s := after (.cgo 35) stagedCopy
  let q := s.slot 2 3
  s.setSlot 2 3 { q with staged := [(0, 0), (1, 0), (2, 8192), (3, 1)], records := [⟨1 + 4 + 0x20 * 2 ^ 16, 0, true, none, 0, 0⟩] }
theorem witness_FabricEvents_raw :
    rawReading.readTurn 2 = some 3 ∧ (rawReading.rawReady 2 3).map (fun x => (x.1.got, x.2)) = some (0, 0x2000) ∧
    (rawReading.readAt 2 3).all (fun pa => rawReading.mayReach 2 1 pa && rawReading.oldestAt 1 (rawReading.readAge 2 3) pa) = true ∧
    (rawReading.slot 2 3).rawRow.any (fun x =>
      ((rawReading.setCore 2 { rawReading.core 2 with readTurn := 3 }).rawBytes (rawReading.slot 2 3) x.1 x.2).toOption.isSome) = true := by
  decide +kernel
theorem witness_FabricEvents_units :
    let m := after (.mmf false false 8 0 1) foldReady
    base.sliceOwner 5 = none ∧ (m.core m.ctx.core).slice = some m.ctx.id ∧
    (m.ctx.mmf.any fun q => !q.formed && decide (blockCores m.ctx.core q.mg = [m.ctx.core]) && decide (grantPos q.mg = 0)) = true ∧
    (let f := after (.crewForm 2) m;
      let u := f.finishMember f.ctx.core;
      (f.core f.ctx.core).slice = some f.ctx.id ∧
        (u.ctx.mmf.any fun q => decide (grantPos q.mg = 0 ∧ grantM q.mg ≤ 64 ∧ blockCores f.ctx.core q.mg = [f.ctx.core]) &&
          u.chainReady [u.ctx] q.q 0) = true) ∧
    (1015 < 1024 ∧ 1015 / 8 % 16 < 15) ∧ (base.tier 127).online = true ∧ tierOf base.ctx.core = 0 ∧
    ((base.setTier 3 { base.tier 3 with online := false }).tier 3).online = false ∧ 0x50200 % 8 = 0 := by decide +kernel
theorem witness_FabricEvents_atomics :
    let s := base.setLink 3 { base.link 3 with up := true, acc := true }
    let pa := 2 ^ 39 - 16
    (s.link 3).up = true ∧ (s.link 3).acc = true ∧ s.quiet = true ∧ pa % 16 = 0 ∧ spaceOf pa = .device ∧ s.backed false pa = true ∧
    (∀ p ∈ pieces pa 16, s.blocked p.1 p.2 = false) ∧ s.markCause (s.locOf pa) 16 = none ∧ s.anyAhead = false ∧
    (base.link 3).up = false ∧ s.keyholder.recovery = false ∧ s.keyholder.filter.allows .control = true ∧
    { base.keyholder with recovery := true }.recovery = true := by decide +kernel
theorem witness_FabricEvents_endpoint :
    let s := posted 0
    (∀ cls < 3, base.queued 2 cls = []) ∧ s.externals = [] ∧ (∀ c ∈ s.allCtxs, c.requests = []) ∧ (∀ q ∈ s.allSlots, q.2.2.state ≠ 1) ∧
    ({ guarded with posted := [] }.slot 5 0).state = 1 := by decide +kernel
theorem witness_PortAndManagementEvents :
    (guarded.quiet = false ∧ base.quiet = true ∧ 0 < 8 ∧ 0x100 + 8 ≤ 2 ^ 40 ∧ base.unbacked 0x100 8 = false ∧ base.unbacked (2 ^ 40) 8 = true ∧
      (∀ p ∈ pieces 0x100 8, base.backed false p.1 = true ∧ base.blocked p.1 p.2 = false) ∧ 0x100 / 512 = (0x100 + 8 - 1) / 512) ∧
    ((base.setLink 7 { base.link 7 with up := true }).link 7).up = true ∧ (1 < 2 ∧ 3 < 4 ∧ (16 = 4 ∨ 16 = 8 ∨ 16 = 16)) ∧
    (7 < 8 ∧ (2 = 1 ∨ 2 = 2) ∧ (8 = 4 ∨ 8 = 8) ∧ 255 < 256) ∧ base.keyholder.recovery = false ∧
    { base.keyholder with recovery := true }.recovery = true ∧ base.retry = false ∧ (base.tier (tierOfLoc 0)).online = true ∧
    (∀ f ∈ protectedTargets, base.keyholder.filter.allows f = false) ∧
    ((base.setTier 127 { base.tier 127 with online := false }).tier (tierOfLoc (2 ^ 39 - 1))).online = false ∧ 2 ^ 39 - 1 < 2 ^ 39 := by
  decide +kernel
/-- A control core reads a word of control space, writes it, and reads device memory; a port is asked for its configuration. -/
theorem witness_PortAndManagementEvents_inputs :
    let s := fun (x : Input) => { base with inputs := [x] }
    (∀ x ∈ [Input.control 0xC000000050200 8 none, .control 0xC000000050200 8 (some 5), .control 0x100 16 none, .config 1],
      (s x).held = false ∧ (s x).inputs = [x]) ∧
    base.keyholder.recovery = false ∧ base.keyholder.filter.allows .control = true ∧ base.keyholder.filter.allows .device = true ∧
    spaceOf 0xC000000050200 = .control ∧ controlWord 0x50200 = true ∧ 0xC000000050200 % 8 = 0 ∧ spaceOf 0x100 = .device := by decide +kernel
theorem witness_MemoryFormKept : base.memForm ∧ ∃ t, step base = .next t := ⟨by decide +kernel, _, rfl⟩
theorem witness_UserModeConfined :
    isWord (.trap 5) = true ∧ base.ctx.place = .resident ∧ base.ctx.sup = false ∧ (after (.trap 5) base).ctx.place = .resident ∧
    ((after (.trap 5) base).ctx.sup = true) ∧ ∃ t, exec (.trap 5) base = .next t :=
  ⟨by decide +kernel, by decide +kernel, by decide +kernel, by decide +kernel, by decide +kernel, _, rfl⟩

end Sys2Proof.Tests
end

section
/-! Bytes of memory (R213), dirty beats (R135) and copied rows (R145). A read after a write needs that a write keeps what tells where an
access lands and which copies are in flight: the region table and the copy slots. -/

namespace Sys2Proof.Machine

/-! What tells where an access lands, and what a copy in flight may have landed there. -/

/-- The cores, whose copy slots may hold bytes in flight (R244), and the region table, which places an address (R278). -/
def State.layout (s : State) : Tab CoreRec × Tab Region := (s.cores, s.regions)

theorem State.anyAhead_congr {s t : State} (h : s.layout = t.layout) : s.anyAhead = t.anyAhead := by
  unfold State.anyAhead State.allSlots
  rw [show s.cores = t.cores from congrArg Prod.fst h]

theorem State.locOf_congr {s t : State} (h : s.layout = t.layout) (pa : Nat) : s.locOf pa = t.locOf pa := by
  unfold State.locOf State.regionOf
  rw [show s.regions = t.regions from congrArg Prod.snd h]

@[simp] theorem State.wake_layout (s : State) (l n : Nat) : (s.wake l n).layout = s.layout := rfl

@[simp] theorem State.wakeBucket_layout (s : State) (l : Nat) : (s.wakeBucket l).layout = s.layout := by
  unfold State.wakeBucket; dsimp only; split <;> rfl

@[simp] theorem State.wakeBuckets_layout (s : State) (l n : Nat) : (s.wakeBuckets l n).layout = s.layout := by
  unfold State.wakeBuckets
  split
  · exact foldl_keeps _ State.layout (fun t _ => t.wakeBucket_layout _) _ _
  · rfl

@[simp] theorem State.corrected_layout (s : State) (l n : Nat) : (s.corrected l n).layout = s.layout := by
  unfold State.corrected; split <;> rfl

@[simp] theorem State.rewritten_layout (s : State) (l n : Nat) : (s.rewritten l n).layout = s.layout := by
  unfold State.rewritten
  split
  · rfl
  · exact foldl_keeps _ State.layout (fun t k => by split <;> simp) _ s

@[simp] theorem State.writeLoc_layout (s : State) (l n v : Nat) : (s.writeLoc l n v).layout = s.layout := by
  simp only [State.writeLoc, State.wakeBuckets_layout, State.wake_layout]
  exact s.rewritten_layout l n

@[simp] theorem State.murky_layout (s : State) (l n v : Nat) : (s.murky l n v).layout = s.layout := by
  unfold State.murky
  split
  · exact foldl_keeps _ State.layout (fun t i => by split <;> rfl) _ s
  · rfl

@[simp] theorem State.notice_layout (s : State) (pa n : Nat) : (s.notice pa n).layout = s.layout := by
  unfold State.notice
  split
  · refine foldl_keeps _ State.layout ?_ _ _
    intro t k
    rfl
  · rfl

@[simp] theorem State.writeCells_layout (s : State) (pa n v : Nat) : (s.writeCells pa n v).layout = s.layout := by
  simp [State.writeCells, State.writeBytes]

@[simp] theorem State.writeCells_anyAhead (s : State) (pa n v : Nat) : (s.writeCells pa n v).anyAhead = s.anyAhead :=
  State.anyAhead_congr (s.writeCells_layout pa n v)

@[simp] theorem State.writeCells_locOf (s : State) (pa n v q : Nat) : (s.writeCells pa n v).locOf q = s.locOf q :=
  State.locOf_congr (s.writeCells_layout pa n v) q

@[simp] theorem State.corrected_locOf (s : State) (l n q : Nat) : (s.corrected l n).locOf q = s.locOf q :=
  State.locOf_congr (s.corrected_layout l n) q

/-- A placed address is its own location (R277). -/
theorem State.locOf_placed (s : State) (pa : Nat) (h : pa < 2 ^ 39) : s.locOf pa = pa := by
  have hdev : spaceOf pa = .device := by
    unfold spaceOf
    rw [if_pos (by omega), if_pos (by omega)]
  unfold State.locOf
  rw [hdev]
  dsimp only
  rw [if_pos (by omega), Nat.mod_eq_of_lt h]

/-! Reading the number at an address. -/

theorem State.readCells_of_noneAhead (s : State) (pa n : Nat) (h : s.anyAhead = false) :
    s.readCells pa n = memGet s.mem (s.locOf pa) n := by
  simp [State.readCells, State.readLoc, h]

/-- R213: what was written reads back. -/
theorem State.readCells_writeCells (s : State) (pa n v : Nat) (h : s.anyAhead = false) (hn : n ≤ 64) :
    (s.writeCells pa n v).readCells pa n = v % 2 ^ (8 * n) := by
  rw [State.readCells_of_noneAhead _ _ _ (by simpa using h)]
  simp [memGet, hn, memRead_memWrite]

/-- A key below every key of a table is not listed. -/
theorem tabFind_of_tabFrom {α : Type} (t : Tab α) (b x : Nat) (h : tabFrom b t) (hx : x < b) : tabFind t x = none := by
  induction t with
  | nil => rfl
  | cons e t ih =>
    obtain ⟨k, v⟩ := e
    have hk : b ≤ k := h (k, v) (.head _)
    rw [tabFind, if_neg (by omega)]
    exact ih fun f hf => h f (.tail _ hf)

theorem memByte_cons (k : Nat) (b : Byte) (m : Tab Byte) (y : Nat) :
    memByte ((k, b) :: m) y = if k = y then b else memByte m y := by
  unfold memByte tabGet
  rw [tabFind]
  split <;> rfl

/-- A cell before the rest of a memory adds its byte, at its place, to the number. -/
theorem memRead_cons (k : Nat) (b : Byte) (m : Tab Byte) (hk : tabFrom (k + 1) m) (a n : Nat) :
    memRead ((k, b) :: m) a n = (if a ≤ k ∧ k < a + n then b.toNat * 2 ^ (8 * (k - a)) else 0) + memRead m a n := by
  induction n with
  | zero => rw [if_neg (by omega)]; rfl
  | succ n ih =>
    rw [memRead_succ, memRead_succ, ih, memByte_cons]
    by_cases hkn : k = a + n
    · subst hkn
      have hfree : memByte m (a + n) = 0 := by
        unfold memByte tabGet
        rw [tabFind_of_tabFrom m _ _ hk (by omega)]; rfl
      rw [if_neg (by omega), if_pos rfl, if_pos (by omega), hfree, Nat.add_sub_cancel_left]
      simp [Nat.add_comm]
    · rw [if_neg hkn]
      by_cases hin : a ≤ k ∧ k < a + n
      · rw [if_pos hin, if_pos (by omega), Nat.add_assoc]
      · rw [if_neg hin, if_neg (by omega), Nat.add_assoc]

/-- Memory that nothing has written reads as 0. -/
theorem memRead_nil (a n : Nat) : memRead [] a n = 0 := by
  induction n with
  | zero => rfl
  | succ n ih => rw [memRead_succ, ih]; simp [memByte, tabGet_nil]

/-- One pass over a canonical memory gathers the number its bytes make. -/
theorem memReadBulk_eq_memRead (m : Tab Byte) (a n : Nat) (h : tabSorted m = true) : memReadBulk m a n = memRead m a n := by
  have gather : ∀ (m : Tab Byte) (z : Nat), tabSorted m = true →
      m.foldl (fun acc c => if a ≤ c.1 ∧ c.1 < a + n then acc + c.2.toNat <<< (8 * (c.1 - a)) else acc) z = z + memRead m a n := by
    intro m
    induction m with
    | nil =>
      intro z _
      rw [memRead_nil]
      rfl
    | cons e m ih =>
      intro z hm
      obtain ⟨hfrom, hm⟩ := (tabSorted_cons e m).1 hm
      rw [List.foldl_cons, ih _ hm, memRead_cons e.1 e.2 m hfrom, Nat.shiftLeft_eq]
      split <;> omega
  simpa [memReadBulk] using gather m 0 h

theorem memGet_eq_memRead (m : Tab Byte) (a n : Nat) (h : memWf m = true) : memGet m a n = memRead m a n := by
  have hs : tabSorted m = true := by
    simp only [memWf, tabWf, Bool.and_eq_true] at h
    exact h.1
  unfold memGet
  split
  · rfl
  · exact memReadBulk_eq_memRead m a n hs

/-- The bytes of the number at an address are the bytes of memory there. -/
theorem memRead_byte (m : Tab Byte) (a n k : Nat) (hk : k < n) :
    BitVec.ofNat 8 (memRead m a n / 2 ^ (8 * k)) = memByte m (a + k) := by
  induction n with
  | zero => omega
  | succ n ih =>
    rw [memRead_succ]
    rcases Nat.lt_succ_iff_lt_or_eq.1 hk with hlt | rfl
    · have habove : (memByte m (a + n)).toNat * 2 ^ (8 * n) =
          (memByte m (a + n)).toNat * 2 ^ (8 * (n - k - 1)) * 2 ^ 8 * 2 ^ (8 * k) := by
        rw [Nat.mul_assoc _ (2 ^ 8), Nat.mul_assoc, ← Nat.pow_add, ← Nat.pow_add]
        congr 2
        omega
      rw [habove, Nat.add_mul_div_right _ _ (Nat.two_pow_pos _), ← ih hlt]
      apply BitVec.eq_of_toNat_eq
      rw [BitVec.toNat_ofNat, BitVec.toNat_ofNat, Nat.add_mul_mod_self_right]
    · rw [Nat.add_mul_div_right _ _ (Nat.two_pow_pos _), Nat.div_eq_of_lt (memRead_lt m a k), Nat.zero_add,
        BitVec.ofNat_toNat, BitVec.setWidth_eq]

/-! The dirty beats of a row register (R135). -/

/-- The placed address of beat b of a register's rows: 32 beats of 256 bytes a row, a segment 2^22 above the one before (R14). -/
def RowReg.beatAt (r : RowReg) (b : Nat) : Nat := r.base + b / 32 * 2 ^ 22 + b % 32 * 256

/-- One step of a write-back: beat b goes to its row where it is dirty. -/
def State.writeBeat (r : RowReg) (s : State) (b : Nat) : State :=
  if r.dirty.getLsbD b then s.writeCells (r.beatAt b) 256 (bitsOf r.latch (2048 * b) 2048) else s

theorem State.writeBeats_eq_foldl (s : State) (r : RowReg) (segs : Nat) :
    s.writeBeats r segs = (List.range (32 * segs)).foldl (State.writeBeat r) s := rfl

/-- Byte k of beat b in a latch. -/
theorem byte_of_beat {w : Nat} (x : BitVec w) (b k : Nat) (hk : k < 256) :
    BitVec.ofNat 8 (bitsOf x (2048 * b) 2048 / 2 ^ (8 * k)) = x.extractLsb' (8 * (256 * b + k)) 8 := by
  apply BitVec.eq_of_getLsbD_eq
  intro i hi
  have hpos : 2048 * b + (8 * k + i) = 8 * (256 * b + k) + i := by omega
  have hin : 8 * k + i < 2048 := by omega
  rw [BitVec.getLsbD_ofNat, BitVec.getLsbD_extractLsb', bitsOf, Nat.testBit_div_two_pow, Nat.testBit_mod_two_pow,
    Nat.testBit_shiftRight, BitVec.testBit_toNat, Nat.add_comm i, hpos, decide_eq_true hin, decide_eq_true hi, Bool.true_and]

theorem State.writeBeat_byte_out (r : RowReg) (s : State) (b y : Nat) (hb : r.beatAt b < 2 ^ 39)
    (hy : y < r.beatAt b ∨ r.beatAt b + 256 ≤ y) : memByte (s.writeBeat r b).mem y = memByte s.mem y := by
  unfold State.writeBeat
  split
  · exact State.writeCells_byte_out _ _ _ _ _ (by rwa [State.locOf_placed _ _ hb])
  · rfl

theorem State.writeBeat_byte_in (r : RowReg) (s : State) (b k : Nat) (hb : r.beatAt b < 2 ^ 39) (hk : k < 256) :
    memByte (s.writeBeat r b).mem (r.beatAt b + k) =
      if r.dirty.getLsbD b then r.latch.extractLsb' (8 * (256 * b + k)) 8 else memByte s.mem (r.beatAt b + k) := by
  unfold State.writeBeat
  split
  · rw [← byte_of_beat _ _ _ hk, ← State.writeCells_byte_in s (r.beatAt b) 256 _ k hk, State.locOf_placed _ _ hb]
  · rfl

/-- A byte that none of these beats covers stays. -/
theorem State.foldl_writeBeat_byte_out (r : RowReg) (bs : List Nat) (s : State) (y : Nat) (hb : ∀ b ∈ bs, r.beatAt b < 2 ^ 39)
    (hy : ∀ b ∈ bs, y < r.beatAt b ∨ r.beatAt b + 256 ≤ y) : memByte (bs.foldl (State.writeBeat r) s).mem y = memByte s.mem y := by
  induction bs generalizing s with
  | nil => rfl
  | cons b bs ih =>
    rw [List.foldl_cons, ih _ (fun c hc => hb c (.tail _ hc)) (fun c hc => hy c (.tail _ hc))]
    exact State.writeBeat_byte_out r s b y (hb b (.head _)) (hy b (.head _))

/-- Two beats of a register share no byte. -/
theorem RowReg.beatAt_disjoint (r : RowReg) (e b k : Nat) (hne : e ≠ b) (hk : k < 256) :
    r.beatAt e + k < r.beatAt b ∨ r.beatAt b + 256 ≤ r.beatAt e + k := by
  unfold RowReg.beatAt
  omega

/-- Each of the first m beats lands in its row where it is dirty, and leaves its row where it is clean. -/
theorem State.foldl_writeBeat_byte_in (r : RowReg) (s : State) (m e k : Nat) (hb : ∀ b < m, r.beatAt b < 2 ^ 39) (he : e < m)
    (hk : k < 256) : memByte ((List.range m).foldl (State.writeBeat r) s).mem (r.beatAt e + k) =
      if r.dirty.getLsbD e then r.latch.extractLsb' (8 * (256 * e + k)) 8 else memByte s.mem (r.beatAt e + k) := by
  induction m with
  | zero => omega
  | succ m ih =>
    rw [List.range_succ, List.foldl_append, List.foldl_cons, List.foldl_nil]
    rcases Nat.lt_succ_iff_lt_or_eq.1 he with hlt | rfl
    · rw [State.writeBeat_byte_out r _ m _ (hb m (by omega)) (r.beatAt_disjoint e m k (by omega) hk)]
      exact ih (fun b hbm => hb b (by omega)) hlt
    · rw [State.writeBeat_byte_in r _ e k (hb e he) hk, State.foldl_writeBeat_byte_out r _ s]
      · exact fun b hbe => hb b (by have := List.mem_range.1 hbe; omega)
      · exact fun b hbe => r.beatAt_disjoint e b k (by have := List.mem_range.1 hbe; omega) hk

/-- The beats of rows that lie in device memory lie there. -/
theorem RowReg.beatAt_lt (r : RowReg) (segs b : Nat) (hend : r.base + (segs - 1) * 2 ^ 22 + 2 ^ 13 ≤ 2 ^ 39) (hb : b < 32 * segs) :
    r.beatAt b < 2 ^ 39 := by
  unfold RowReg.beatAt
  omega

/-- R135: a dirty beat of a register is in its row after the write-back; a clean one leaves the row's bytes. -/
theorem State.writeBeats_byte_in (s : State) (r : RowReg) (segs e k : Nat) (hend : r.base + (segs - 1) * 2 ^ 22 + 2 ^ 13 ≤ 2 ^ 39)
    (he : e < 32 * segs) (hk : k < 256) : memByte (s.writeBeats r segs).mem (r.beatAt e + k) =
      if r.dirty.getLsbD e then r.latch.extractLsb' (8 * (256 * e + k)) 8 else memByte s.mem (r.beatAt e + k) := by
  rw [State.writeBeats_eq_foldl]
  exact State.foldl_writeBeat_byte_in r s _ e k (fun b hb => r.beatAt_lt segs b hend hb) he hk

/-- R135: a write-back changes no byte outside the register's rows. -/
theorem State.writeBeats_byte_out (s : State) (r : RowReg) (segs x : Nat) (hend : r.base + (segs - 1) * 2 ^ 22 + 2 ^ 13 ≤ 2 ^ 39)
    (hx : ∀ i < segs, x < r.base + i * 2 ^ 22 ∨ r.base + i * 2 ^ 22 + 2 ^ 13 ≤ x) :
    memByte (s.writeBeats r segs).mem x = memByte s.mem x := by
  rw [State.writeBeats_eq_foldl]
  refine State.foldl_writeBeat_byte_out r _ s x (fun b hb => r.beatAt_lt segs b hend (List.mem_range.1 hb)) fun b hb => ?_
  have hrow := hx (b / 32) (by have := List.mem_range.1 hb; omega)
  unfold RowReg.beatAt
  omega

/-! A copied row (R145). -/

/-- A copy onto another row writes there the number that the source row holds. -/
theorem State.copyRow_mem (s : State) (p q : Nat) (ha : s.anyAhead = false) (hp : p < 2 ^ 39) (hq : q < 2 ^ 39) (hne : p ≠ q) :
    (s.copyRow p q).mem = memWrite s.mem q 8192 (memGet s.mem p 8192) := by
  unfold State.copyRow
  rw [if_neg hne]
  simp only [State.writeCells_mem, State.corrected_mem, State.corrected_locOf]
  rw [State.readCells_of_noneAhead _ _ _ ha, State.locOf_placed _ _ hp, State.locOf_placed _ _ hq]

theorem State.copyRow_self (s : State) (p : Nat) : s.copyRow p p = s := by
  unfold State.copyRow
  exact if_pos rfl

/-- A copied row reads as its source did. -/
theorem State.copyRow_byte_in (s : State) (p q k : Nat) (ha : s.anyAhead = false) (hm : s.memForm) (hp : p < 2 ^ 39) (hq : q < 2 ^ 39)
    (hk : k < 8192) : memByte (s.copyRow p q).mem (q + k) = memByte s.mem (p + k) := by
  by_cases hpq : p = q
  · subst hpq
    rw [State.copyRow_self]
  · rw [s.copyRow_mem p q ha hp hq hpq, memByte_memWrite_in _ _ _ _ _ hk, memGet_eq_memRead _ _ _ hm, memRead_byte _ _ _ _ hk]

/-- A row copy changes no byte outside its destination. -/
theorem State.copyRow_byte_out (s : State) (p q x : Nat) (ha : s.anyAhead = false) (hp : p < 2 ^ 39) (hq : q < 2 ^ 39)
    (hx : x < q ∨ q + 8192 ≤ x) : memByte (s.copyRow p q).mem x = memByte s.mem x := by
  by_cases hpq : p = q
  · subst hpq
    rw [State.copyRow_self]
  · rw [s.copyRow_mem p q ha hp hq hpq, memByte_memWrite_out _ _ _ _ _ hx]

/-- Settles O32: a write by the byte laws of memWrite, a write-back by induction on its beats, a row copy by the bytes of the number
that one pass over canonical memory gathers. -/
theorem memoryBytes : Obligations.MemoryBytes := by
  unfold Obligations.MemoryBytes
  constructor
  · intro s pa n v ha
    refine ⟨?_, ?_, ?_, ?_⟩
    · exact fun k hk => s.writeCells_byte_in pa n v k hk
    · exact fun a hout => s.writeCells_byte_out pa n v a hout
    · exact fun hn => s.readCells_writeCells pa n v ha hn
    · intro hm
      rw [State.memForm, State.writeCells_mem]
      exact memWf_memWrite _ _ _ _ hm
  · intro s ha
    constructor
    · intro r segs _ _ hend
      exact ⟨fun e k he hk => s.writeBeats_byte_in r segs e k hend he hk, fun x hx => s.writeBeats_byte_out r segs x hend hx⟩
    · intro p q hm _ _ hp hq
      exact ⟨fun k hk => s.copyRow_byte_in p q k ha hm hp hq hk, fun x hx => s.copyRow_byte_out p q x ha hp hq hx⟩

end Sys2Proof.Machine
end

section
/-! The scalar file (R22) and the control registers (R24 to R40): reads, writes and the instructions that make them. -/

namespace Sys2Proof.Machine

/-! The scalar file. -/

theorem Context.read_z (c : Context) : c.read 24 = 0 := by simp [Context.read]

theorem Context.write_z (c : Context) (v : Word) : c.write 24 v = c := by simp [Context.write]

theorem Context.physical_inj (c : Context) (d a : NameF) (hd : isSName d) (ha : isSName a) (h : c.physical d = c.physical a) : d = a := by
  unfold Context.physical at h
  unfold isSName at hd ha
  have hd' := d.isLt
  have ha' := a.isLt
  apply BitVec.eq_of_toNat_eq
  omega

theorem Context.scalars_write (c : Context) (d : NameF) (v : Word) (h : isSName d) :
    (c.write d v).scalars = tabSet 0 c.scalars (c.physical d) v := by simp only [Context.write, if_pos h]

theorem Context.read_write (c : Context) (d a : NameF) (v : Word) (hd : isSName d) (ha : isSName a) :
    (c.write d v).read a = if a = d then v else c.read a := by
  have hp : (c.write d v).physical a = c.physical a := by simp [Context.physical]
  unfold Context.read
  rw [if_pos ha, if_pos ha, hp, c.scalars_write d v hd, tabGet_tabSet]
  by_cases h : a = d
  · simp [h]
  · rw [if_neg h, if_neg fun e => h (c.physical_inj a d ha hd e)]

theorem Context.scalars_write_other (c : Context) (d : NameF) (v : Word) (p : Nat) (h : p ≠ c.physical d) :
    tabGet 0 (c.write d v).scalars p = tabGet 0 c.scalars p := by
  by_cases hd : isSName d
  · rw [c.scalars_write d v hd, tabGet_tabSet, if_neg h]
  · rw [Context.write, if_neg hd]

/-- Settles O17. -/
theorem scalarFile : Obligations.ScalarFile := by
  unfold Obligations.ScalarFile
  intro c v
  refine ⟨c.read_z, c.write_z v, fun d hd => ?_, fun d a hd ha hne => ?_, fun d p hp => c.scalars_write_other d v p hp⟩
  · rw [c.read_write d d v hd hd, if_pos rfl]
  · rw [c.read_write d a v hd ha, if_neg hne]

/-! Which control registers a mode reaches (R25). -/

theorem ctlExists_index (x : BitVec 7) : ctlExists x.toNat = true := decide_eq_true x.isLt

theorem nameWord_index (x : BitVec 7) : nameWord x.toNat = x.setWidth 64 := by
  have := x.isLt
  apply BitVec.eq_of_toNat_eq
  simp [nameWord]

theorem ctlSupOnly_iff (x : BitVec 7) :
    ctlSupOnly x.toNat = true ↔ x.toNat = 0x13 ∨ (0x16 ≤ x.toNat ∧ x.toNat ≤ 0x1B) ∨ 0x40 ≤ x.toNat := by
  have := x.isLt
  unfold ctlSupOnly
  rw [decide_eq_true_iff]
  omega

/-- User mode writes none of the registers it does not reach. -/
theorem ctlWritable_user (x : BitVec 7) (h : ctlSupOnly x.toNat = true) : ctlWritable false x.toNat = false := by
  have hx := (ctlSupOnly_iff x).1 h
  unfold ctlWritable
  simp only [Bool.false_and, Bool.or_false, decide_eq_false_iff_not]
  omega

theorem checkNames_scalar (c : Context) (n : NameF) (h : isSz n) : c.checkNames [(clsS, n)] = .ok () :=
  checkNames_ok _ _ (by simpa [Context.acceptsAll] using accepts_clsS c n h)

theorem execMfc_userTrap (s : State) (n : NameF) (x : BitVec 7) (hn : isSz n) (hs : s.ctx.sup = false) (hx : ctlSupOnly x.toNat = true) :
    execMfc n x s = .next (s.takeTrap 0x05 (wordOf (.mfc n x)) none) := by
  simp [execMfc, checkNames_scalar _ _ hn, ctlExists_index, hs, hx]

theorem execMtc_userTrap (s : State) (n : NameF) (x : BitVec 7) (hn : isSz n) (hs : s.ctx.sup = false) (hx : ctlSupOnly x.toNat = true) :
    execMtc n x s = .next (s.takeTrap 0x05 (wordOf (.mtc n x)) none) := by
  simp [execMtc, checkNames_scalar _ _ hn, ctlExists_index, hs, hx, ctlWritable_user x hx]

/-- A register that the mode reaches and may not write (R25). -/
theorem execMtc_readOnlyTrap (s : State) (n : NameF) (x : BitVec 7) (hn : isSz n) (hr : s.ctx.sup = true ∨ ctlSupOnly x.toNat = false)
    (hw : ctlWritable s.ctx.sup x.toNat = false) : execMtc n x s = .next (s.takeTrap 0x02 (x.setWidth 64) none) := by
  have hreach : (s.ctx.sup || !ctlSupOnly x.toNat) = true := by rcases hr with h | h <;> simp [h]
  simp [execMtc, checkNames_scalar _ _ hn, ctlExists_index, hw, hreach, nameWord_index]

/-- Settles O13. -/
theorem controlAccessTraps : Obligations.ControlAccessTraps := by
  unfold Obligations.ControlAccessTraps
  intro s n x hn
  constructor
  · intro hs hx
    have hx := (ctlSupOnly_iff x).2 hx
    exact ⟨execMfc_userTrap s n x hn hs hx, execMtc_userTrap s n x hn hs hx⟩
  · intro hx
    have hne : ctlSupOnly x.toNat = false := by
      rw [Bool.eq_false_iff, Ne, ctlSupOnly_iff]
      simp only [List.mem_cons, List.not_mem_nil, or_false] at hx
      omega
    refine execMtc_readOnlyTrap s n x hn (.inr hne) ?_
    simp only [List.mem_cons, List.not_mem_nil, or_false] at hx
    unfold ctlWritable
    rw [hne, Bool.false_or, Bool.or_eq_false_iff, decide_eq_false_iff_not, Bool.and_eq_false_iff, decide_eq_false_iff_not]
    constructor
    · omega
    · by_cases hs : s.ctx.sup = true
      · right; simp [hs] at hx; omega
      · left; simpa using hs

/-- An MFC of a register that no bank-class work changes (R26). -/
theorem execMfc_next (s : State) (d : NameF) (x : BitVec 7) (hd : isSz d) (hr : s.ctx.sup = true ∨ ctlSupOnly x.toNat = false)
    (hx : ctlDrains x.toNat = false) (hi : s.ctx.intact [] [x.toNat] [d]) :
    let u := if x.toNat = 0x1D then s.tick else s
    execMfc d x s = .next (u.wrote d (BitVec.ofNat 64 (u.ctl u.ctx x.toNat))) := by
  have hreach : (s.ctx.sup || !ctlSupOnly x.toNat) = true := by rcases hr with h | h <;> simp [h]
  simp only [execMfc, checkNames_scalar _ _ hd, ctlExists_index, hreach, hx, sound_ok _ _ _ _ hi, require_true, except_ok_bind,
    Bool.false_eq_true, if_false, Bool.not_false, Bool.true_or, waitUnless_true, except_pure]
  exact State.finish_ok _ _ hi.2.2.2

/-- An MFC of a register that the bank-class work before it may change reads it once that is done (R26). -/
theorem execMfc_drains (s : State) (d : NameF) (x : BitVec 7) (hd : isSz d) (hr : s.ctx.sup = true ∨ ctlSupOnly x.toNat = false)
    (hx : ctlDrains x.toNat = true) (hw : s.drained.ctx.working = false) (he : s.ctx.loopError = none)
    (hi : s.drained.ctx.intact [] [x.toNat] [d]) :
    execMfc d x s = .next (s.drained.wrote d (BitVec.ofNat 64 (s.drained.ctl s.drained.ctx x.toNat))) := by
  have hreach : (s.ctx.sup || !ctlSupOnly x.toNat) = true := by rcases hr with h | h <;> simp [h]
  have hne : x.toNat ≠ 0x1D := fun h => by simp [h, ctlDrains] at hx
  simp only [execMfc, checkNames_scalar _ _ hd, ctlExists_index, hreach, hx, hw, hne, sound_ok _ _ _ _ hi, require_true, except_ok_bind,
    if_true, if_false, Bool.not_false, Bool.or_true, waitUnless_true, except_pure]
  exact State.finish_ok _ _ he

/-- Settles O14. -/
theorem mfcReads : Obligations.MfcReads := by
  unfold Obligations.MfcReads
  intro s d x hd hr
  have hr : s.ctx.sup = true ∨ ctlSupOnly x.toNat = false := by
    rw [Bool.eq_false_iff, Ne, ctlSupOnly_iff]; exact hr
  refine ⟨fun hx hi => ?_, fun hx hw he hi => ?_, fun hx hi => ?_⟩
  · simp only [List.mem_cons, List.not_mem_nil, or_false, not_or] at hx
    obtain ⟨h01, h12, h0F, h11, h1C, h1D⟩ := hx
    have h := execMfc_next s d x hd hr (by simp [ctlDrains, h01, h12, h0F, h11, h1C]) hi
    rwa [if_neg h1D] at h
  · refine execMfc_drains s d x hd hr ?_ hw he.2.2.2 hi
    simp only [List.mem_cons, List.not_mem_nil, or_false] at hx
    unfold ctlDrains
    rw [decide_eq_true_iff]
    omega
  · have h := execMfc_next s d x hd hr (by simp [ctlDrains, hx]) hi
    rw [if_pos hx] at h
    rw [exec_mfc, h, hx]
    simp [State.ctl]

theorem execMtc_next (s : State) (a : NameF) (x : BitVec 7) (ha : isSz a) (hi : s.ctx.intact [a] [])
    (hx : ctlWritable s.ctx.sup x.toNat = true) (hw : x.toNat = 0x01 → s.drained.ctx.working = false) :
    let u := if x.toNat = 0x01 then s.drained else s
    execMtc a x s = .next (u.withCtx { u.ctx.setCtl x.toNat (u.ctx.read a) with
      bad := tabErase (u.ctx.setCtl x.toNat (u.ctx.read a)).bad
        (256 + if x.toNat = 0x0A ∧ u.ctx.counting = true then 0x1E else x.toNat) }).advance := by
  have hwait : (decide (x.toNat ≠ 0x01) || !(if x.toNat = 0x01 then s.drained else s).ctx.working) = true := by
    by_cases h : x.toNat = 0x01
    · simp [h, hw h]
    · simp [h]
  simp only [execMtc, checkNames_scalar _ _ ha, ctlExists_index, hx, hwait, sound_ok _ _ _ _ hi, require_true, except_ok_bind,
    Bool.true_or, waitUnless_true, except_pure]
  exact State.finish_ok _ _ hi.2.2.2

/-- Settles O15. -/
theorem mtcWrites : Obligations.MtcWrites := by
  unfold Obligations.MtcWrites
  intro s a x ha hi
  constructor
  · intro hx
    have hlt := x.isLt
    simp only [List.mem_cons, List.not_mem_nil, or_false] at hx
    have hne : x.toNat ≠ 0x01 := by omega
    have h := execMtc_next s a x ha hi ?_ (fun h => absurd h hne)
    · rwa [if_neg hne] at h
    · unfold ctlWritable ctlSupOnly
      simp only [Bool.or_eq_true, Bool.and_eq_true, decide_eq_true_eq]
      rcases hx with hx | ⟨hs, hx⟩
      · left; omega
      · right; exact ⟨hs, by omega⟩
  · intro hx hw
    have h := execMtc_next s a x ha hi (by simp [ctlWritable, hx]) fun _ => hw
    rw [if_pos hx] at h
    rw [exec_mtc, h, hx]
    simp

/-! What a control register reads after a write to it (R24 to R40). -/

theorem toNat_and_mask (v m : Word) (n : Nat) (hm : m.toNat = 2 ^ n - 1) : (v &&& m).toNat = v.toNat % 2 ^ n := by
  rw [BitVec.toNat_and, hm, Nat.and_two_pow_sub_one_eq_mod]

theorem bitAtPos_getLsbD (v : Word) (i : Nat) : bitAtPos (v.getLsbD i) i = v.toNat / 2 ^ i % 2 * 2 ^ i := by
  rw [bitAtPos, BitVec.getLsbD, Nat.testBit_eq_decide_div_mod_eq]
  rcases Nat.mod_two_eq_zero_or_one (v.toNat / 2 ^ i) with h | h <;> simp [h]

theorem Context.held_irp (c : Context) (i : Nat) (h : 0x40 ≤ i) (h' : i < 0x80) :
    c.held i = (tabGet 0 (c.bank ((i - 0x40) / 4)).irp (i % 4)).toNat := by
  rw [Context.held]
  · rw [if_pos ⟨h, h'⟩]
  all_goals omega

theorem Context.setCtl_irp (c : Context) (i : Nat) (v : Word) (h : 0x40 ≤ i) (h' : i < 0x80) :
    c.setCtl i v = c.setBank ((i - 0x40) / 4) { c.bank ((i - 0x40) / 4) with
      irp := tabSet 0 (c.bank ((i - 0x40) / 4)).irp (i % 4) (v &&& 0xFFFFFFFFFFFF7FFF) } := by
  rw [Context.setCtl]
  · rw [if_pos ⟨h, h'⟩]
  all_goals omega

theorem State.ctl_of_held (s : State) (c : Context) (i : Nat) (h : i ≠ 0x0F ∧ i ≠ 0x1D ∧ (i < 0x20 ∨ 0x40 ≤ i)) : s.ctl c i = c.held i := by
  obtain ⟨hf, hd, hr⟩ := h
  rw [State.ctl, if_neg hf, if_neg hd, if_neg (by omega), if_neg (by omega)]

theorem toNat_and_F0 (v : Word) : (v &&& 0xF0).toNat = v.toNat / 16 % 16 * 16 := by
  rw [BitVec.toNat_and]
  apply Nat.eq_of_testBit_eq
  intro i
  rw [Nat.testBit_and, show (BitVec.toNat (0xF0 : Word)) = 15 * 2 ^ 4 by decide, show v.toNat / 16 % 16 * 16 = v.toNat / 2 ^ 4 % 2 ^ 4 * 2 ^ 4 by rfl,
    Nat.testBit_mul_two_pow, Nat.testBit_mul_two_pow, Nat.testBit_mod_two_pow, Nat.testBit_div_two_pow,
    show 15 = 2 ^ 4 - 1 by rfl, Nat.testBit_two_pow_sub_one]
  by_cases h : 4 ≤ i
  · simp [h, Bool.and_comm]
  · simp [h]

theorem toNat_and_tvec (v : Word) : (v.extractLsb' 0 56 &&& 0xFFFFFFFFFFFFFC).toNat = (v &&& 0xFFFFFFFFFFFFFC).toNat := by
  simp only [BitVec.toNat_and, BitVec.extractLsb'_toNat, Nat.shiftRight_zero]
  rw [← Nat.and_two_pow_sub_one_eq_mod, Nat.and_assoc]
  rfl

/-- Settles O16: each register by the fields its write sets, the IRP entries by their bank. -/
theorem controlReadBack : Obligations.ControlReadBack := by
  unfold Obligations.ControlReadBack
  intro s c v
  refine ⟨?_, ?_, ?_, ?_, ?_, ?_⟩
  · simp only [List.forall_mem_cons, List.not_mem_nil, false_imp_iff, implies_true, and_true]
    refine ⟨?_, ?_, ?_, ?_, ?_, ?_, ?_, ?_, ?_, ?_, ?_, ?_⟩ <;> rw [State.ctl_of_held _ _ _ (by decide)]
    · rw [toNat_and_mask v 0xF 4 rfl]
      simp only [Context.held, Context.setCtl, bitAtPos_getLsbD, BitVec.extractLsb'_toNat, Nat.shiftRight_zero]
      omega
    · rw [toNat_and_mask v 0x3F 6 rfl]; simp [Context.held, Context.setCtl]
    · rw [toNat_and_F0]; simp [Context.held, Context.setCtl]; omega
    · rw [toNat_and_mask v 0xFFFFFFFF 32 rfl]; simp [Context.held, Context.setCtl]
    · rfl
    · rw [toNat_and_mask v 3 2 rfl]
      simp only [Context.held, Context.setCtl, Context.statusWord, bitAtPos_getLsbD]
      omega
    · exact toNat_and_tvec v
    · rw [toNat_and_mask v _ 56 rfl]; simp [Context.held, Context.setCtl]
    · rw [toNat_and_mask v _ 13 rfl]; simp [Context.held, Context.setCtl]
    · rw [toNat_and_mask v _ 64 rfl]; exact (Nat.mod_eq_of_lt v.isLt).symm
    · rw [toNat_and_mask v _ 3 rfl]; simp [Context.held, Context.setCtl]
    · rw [toNat_and_mask v _ 64 rfl]; exact (Nat.mod_eq_of_lt v.isLt).symm
  · intro i h h'
    rw [State.ctl_of_held _ _ _ (by omega), Context.held_irp _ _ h h', c.setCtl_irp i v h h', Context.bank_setBank, if_pos rfl,
      tabGet_tabSet, if_pos rfl]
  · intro hc
    have hp : c.lcPend = false := by
      unfold Context.counting at hc
      simpa using (Bool.or_eq_false_iff.1 hc).2
    rw [State.ctl_of_held _ _ _ (by decide), toNat_and_mask v _ 32 rfl]
    simp [Context.held, Context.setCtl, hc, hp, bitAtPos]
  · intro hc
    rw [State.ctl_of_held _ _ _ (by decide), toNat_and_mask v _ 32 rfl]
    simp [Context.held, Context.setCtl, hc]
  · rw [State.ctl_of_held _ _ _ (by decide)]
    simp [Context.held, Context.setCtl, slipOf]
  · rw [State.ctl_of_held _ _ _ (by decide)]
    simp only [Context.held, Context.setCtl, rfthOf, BitVec.toNat_ofNat]
    split <;> omega

end Sys2Proof.Machine
end

section
/-! What a stream and the device start with (R24, R27, R406). -/

namespace Sys2Proof.Machine

theorem Context.bank_of_noBanks (c : Context) (h : c.banks = []) (j : Nat) : c.bank j = Bank.reset := by
  rw [Context.bank, h, tabGet_nil]

/-- No bank has bound a name. -/
theorem Context.kmapWord_of_noBanks (c : Context) (h : c.banks = []) : c.kmapWord = 0 := by
  unfold Context.kmapWord
  exact List.foldl_fixed' (fun j => by rw [c.bank_of_noBanks h]; rfl) _

/-- A core without refresh debt. -/
theorem CoreRec.debtWord_of_noDebt (r : CoreRec) (h : r.debt = []) : r.debtWord = 0 := by
  unfold CoreRec.debtWord
  exact List.foldl_fixed' (fun j => by rw [h, tabGet_nil, Nat.zero_mod, Nat.zero_mul]) _

/-- Settles O7. -/
theorem streamStartRegisters : Obligations.StreamStartRegisters := by
  unfold Obligations.StreamStartRegisters
  intro s seq l core base x c
  have hb : c.banks = [] := rfl
  refine ⟨?_, show 1 % 2 ^ 15 + 64 % 2 ^ 15 * 2 ^ 16 = 0x00400001 by decide, rfl, rfl, BitVec.toNat_ofNat _ _, rfl, fun h => ?_, fun i h h' => ?_, fun p => ?_, fun j n => ?_, rfl⟩
  · simp only [List.forall_mem_cons, List.not_mem_nil, false_imp_iff, implies_true, and_true]
    exact ⟨rfl, rfl, rfl, rfl, rfl, rfl, rfl, rfl, rfl, rfl, rfl, rfl, rfl, rfl, rfl, rfl, rfl, rfl, rfl, rfl, c.kmapWord_of_noBanks hb, rfl, rfl⟩
  · exact if_neg h
  · rw [Context.held_irp _ _ h h', c.bank_of_noBanks hb]
    rfl
  · change tabGet 0 (tabSet 0 (tabSet 0 [] 0 x.record.args) 1 (x.record.wid l)) p = _
    rw [tabGet_tabSet, tabGet_tabSet, tabGet_nil]
    split
    · simp [*]
    · rfl
  · rw [c.bank_of_noBanks hb]
    exact ⟨rfl, rfl, rfl⟩

/-- Settles O8: every table of the reset state is empty, so that each unit reads as its own reset value. -/
theorem resetValues : Obligations.ResetValues := by
  unfold Obligations.ResetValues
  exact ⟨rfl, fun _ => rfl, rfl, rfl, rfl, rfl, rfl, fun _ _ => ⟨rfl, rfl, CoreRec.debtWord_of_noDebt _ rfl, fun _ => rfl⟩, fun _ _ => ⟨rfl, rfl⟩, fun _ => rfl,
    fun _ => ⟨rfl, rfl⟩⟩

end Sys2Proof.Machine
end

section
/-! The iteration boundary, jumps and the window (R79, R108 to R124). -/

namespace Sys2Proof.Machine

/-! What a trace record (R381) keeps of the running context. -/

section
variable (P : Context → Prop) (hw : ∀ c now p, P c → P (c.wakeIf now p))
include hw

omit hw in
theorem State.foldl_keepsCtx {β : Type} (f : State → β → State) (hf : ∀ t k, P t.ctx → P (f t k).ctx) (ks : List β) (s : State)
    (h : P s.ctx) : P (ks.foldl f s).ctx := by
  induction ks generalizing s with
  | nil => exact h
  | cons k ks ih => exact ih _ (hf s k h)

theorem State.wakeBucket_keepsCtx (s : State) (l : Nat) (h : P s.ctx) : P (s.wakeBucket l).ctx := by
  unfold State.wakeBucket
  dsimp only
  split
  · exact h
  · change P (if _ then _ else _)
    split
    · exact hw _ _ _ h
    · exact h

theorem State.writeCells_keepsCtx (s : State) (pa n v : Nat) (h : P s.ctx) : P (s.writeCells pa n v).ctx := by
  have hloc : P (s.rewritten (s.locOf pa) n).ctx := by rwa [State.rewritten_ctx]
  simp only [State.writeCells, State.writeBytes, State.notice_ctx, State.murky_ctx, State.writeLoc, State.wakeBuckets]
  split
  · exact State.foldl_keepsCtx P _ (fun t _ => t.wakeBucket_keepsCtx P hw _) _ _ (hw _ _ _ hloc)
  · exact hw _ _ _ hloc

theorem State.traceStores_keepsCtx (owner : Word) (l : List (Nat × Nat × Nat)) (s t : State) (ht : s.traceStores owner l = .ok t)
    (h : P s.ctx) : P t.ctx := by
  induction l generalizing s with
  | nil => cases ht; exact h
  | cons e l ih =>
    simp only [State.traceStores] at ht
    split at ht
    · split at ht
      · cases ht
      · exact ih _ ht (s.writeCells_keepsCtx P hw _ _ _ h)
    · cases ht

/-- A property that every wake keeps is kept by a trace record. -/
theorem State.emitTrace_keepsCtx (s : State) (typ cause w8 w16 : Nat) (h : P s.ctx) : P (s.emitTrace typ cause w8 w16).ctx := by
  unfold State.emitTrace State.sendTrace
  dsimp only
  split
  · split
    · exact h
    · split
      · next t ht =>
        unfold State.writeTrace at ht
        split at ht
        · cases ht
        · split at ht
          · cases ht
          · exact State.traceStores_keepsCtx P hw _ _ _ t ht h
      · exact h
      · exact h
  · exact h
end

theorem Context.wakeIf_stall (c : Context) (now : Nat) (p : Nat → Bool) (h : c.stall = false) : (c.wakeIf now p).stall = false := by
  unfold Context.wakeIf
  by_cases hp : c.parked.any p = true
  · rw [if_pos hp]
  · rw [if_neg hp]; exact h

/-- An untraced stream leaves no record. -/
theorem State.emitTrace_off (s : State) (typ cause w8 w16 : Nat) (h : s.ctx.trc = false) : s.emitTrace typ cause w8 w16 = s := by
  simp [State.emitTrace, h]

/-! The parts of the iteration boundary (R115). -/

/-- mend as one update: it clears soft errors and nothing else. -/
theorem Context.mend_eq (c : Context) (is : List Nat) : c.mend is = { c with
    bad := if c.bad = [] then [] else c.bad.filter fun e => !is.contains (e.1 - 256) || decide (e.1 < 256 ∨ 512 ≤ e.1) } := by
  unfold Context.mend
  split
  · simp only [← ‹c.bad = []›]
  · rfl

/-- The word at pc ends an iteration of the counted loop; of the strip loop. -/
def Context.endsCount (c : Context) : Prop := c.counting = true ∧ c.pc = c.lend.setWidth 64
def Context.endsStrip (c : Context) : Prop := c.stripping = true ∧ c.pc = c.send.setWidth 64

/-- The count after this iteration (R115, R116). -/
def Context.countLeft (c : Context) : BitVec 32 := if c.lcPend then c.lcn else c.lc - 1

/-- The context at the start of the next strip (R120), and after the last. -/
def Context.nextStrip (c : Context) : Context := { c.grant.mend [0x07] with sord := c.grant.sord + 1, pc := c.grant.sbeg.setWidth 64 + 4 }
def Context.lastStrip (c : Context) : Context := { c.mend [0x09] with send := 0 }

theorem Context.countDown_eq (c : Context) : ∃ b, c.countDown = { c with lc := c.countLeft, lcPend := false, bad := b } :=
  ⟨_, by rw [Context.countDown, Context.mend_eq]; rfl⟩

theorem Context.nextStrip_eq (c : Context) : ∃ b, c.nextStrip = { c with
    nrow := 1, ncol := min c.srem.toNat c.smax.toNat, srem := c.srem - BitVec.ofNat 32 (min c.srem.toNat c.smax.toNat)
    sord := c.sord + 1, pc := c.sbeg.setWidth 64 + 4, bad := b } :=
  ⟨_, by rw [Context.nextStrip, Context.mend_eq, Context.grant, Context.mend_eq c]⟩

theorem Context.lastStrip_eq (c : Context) : ∃ b, c.lastStrip = { c with send := 0, bad := b } :=
  ⟨_, by rw [Context.lastStrip, Context.mend_eq]⟩

theorem Context.lastStrip_countLeft (c : Context) : c.lastStrip.countLeft = c.countLeft := by
  obtain ⟨b, h⟩ := c.lastStrip_eq
  rw [h]
  rfl

theorem Context.endsCount_iff (c : Context) : c.endsCount ↔ (c.counting && decide (c.pc = c.lend.setWidth 64)) = true := by
  simp [Context.endsCount]

theorem Context.endsStrip_iff (c : Context) : c.endsStrip ↔ (c.stripping && decide (c.pc = c.send.setWidth 64)) = true := by
  simp [Context.endsStrip]

theorem Context.boundary_away (c : Context) (hc : ¬c.endsCount) (hs : ¬c.endsStrip) : c.boundary = ({ c with pc := c.pc + 4 }, false) := by
  rw [c.endsCount_iff, Bool.not_eq_true] at hc
  rw [c.endsStrip_iff, Bool.not_eq_true] at hs
  simp only [Context.boundary, hc, hs]

theorem Context.boundary_count (c : Context) (hc : c.endsCount) (hs : ¬c.endsStrip) : c.boundary =
    if c.countLeft ≠ 0 then ({ c.countDown with pc := c.countDown.lbeg.setWidth 64 }, false)
      else ({ c.countDown with pc := c.pc + 4 }, false) := by
  rw [c.endsCount_iff] at hc
  rw [c.endsStrip_iff, Bool.not_eq_true] at hs
  simp only [Context.boundary, hc, hs]
  rfl

theorem Context.boundary_strip (c : Context) (hc : ¬c.endsCount) (hs : c.endsStrip) : c.boundary =
    if c.srem ≠ 0 then (c.nextStrip, true) else ({ c.lastStrip with pc := c.pc + 4 }, false) := by
  rw [c.endsCount_iff, Bool.not_eq_true] at hc
  rw [c.endsStrip_iff] at hs
  simp only [Context.boundary, hc, hs]
  rfl

/-- The counted loop is the inner one. -/
theorem Context.boundary_countInner (c : Context) (hc : c.endsCount) (hs : c.endsStrip) (h : c.sbeg.toNat + 4 ≤ c.lbeg.toNat) :
    c.boundary = if c.countLeft ≠ 0 then ({ c.countDown with pc := c.countDown.lbeg.setWidth 64 }, false)
      else if c.countDown.srem ≠ 0 then (c.countDown.nextStrip, true) else ({ c.countDown.lastStrip with pc := c.pc + 4 }, false) := by
  rw [c.endsCount_iff] at hc
  rw [c.endsStrip_iff] at hs
  simp only [Context.boundary, hc, hs, if_pos h]
  rfl

/-- The strip loop is the inner one. -/
theorem Context.boundary_stripInner (c : Context) (hc : c.endsCount) (hs : c.endsStrip) (h : c.lbeg.toNat < c.sbeg.toNat + 4) :
    c.boundary = if c.srem ≠ 0 then (c.nextStrip, true)
      else if c.countLeft ≠ 0 then ({ c.lastStrip.countDown with pc := c.lastStrip.countDown.lbeg.setWidth 64 }, false)
      else ({ c.lastStrip.countDown with pc := c.pc + 4 }, false) := by
  rw [c.endsCount_iff] at hc
  rw [c.endsStrip_iff] at hs
  simp only [Context.boundary, hc, hs, if_neg (Nat.not_le.2 h), ← c.lastStrip_countLeft]
  rfl

/-- What the boundary may change: the pc, the loop registers, the shape of a new strip, and soft errors. -/
theorem Context.boundary_ctx (c : Context) : ∃ pc lc lp nr nc sr so se b, c.boundary.1 = { c with
    pc := pc, lc := lc, lcPend := lp, nrow := nr, ncol := nc, srem := sr, sord := so, send := se, bad := b } := by
  obtain ⟨b1, hd⟩ := c.countDown_eq
  obtain ⟨b2, hn⟩ := c.nextStrip_eq
  obtain ⟨b3, hl⟩ := c.lastStrip_eq
  obtain ⟨b4, hdn⟩ := c.countDown.nextStrip_eq
  obtain ⟨b5, hdl⟩ := c.countDown.lastStrip_eq
  obtain ⟨b6, hld⟩ := c.lastStrip.countDown_eq
  by_cases hc : c.endsCount <;> by_cases hs : c.endsStrip
  · rcases Nat.lt_or_ge c.lbeg.toNat (c.sbeg.toNat + 4) with ho | ho
    · rw [c.boundary_stripInner hc hs ho, hn, hld, hl]
      split
      · exact ⟨_, _, _, _, _, _, _, _, _, rfl⟩
      · split <;> exact ⟨_, _, _, _, _, _, _, _, _, rfl⟩
    · rw [c.boundary_countInner hc hs ho, hdn, hdl, hd]
      split
      · exact ⟨_, _, _, _, _, _, _, _, _, rfl⟩
      · split <;> exact ⟨_, _, _, _, _, _, _, _, _, rfl⟩
  · rw [c.boundary_count hc hs, hd]
    split <;> exact ⟨_, _, _, _, _, _, _, _, _, rfl⟩
  · rw [c.boundary_strip hc hs, hn, hl]
    split <;> exact ⟨_, _, _, _, _, _, _, _, _, rfl⟩
  · rw [c.boundary_away hc hs]
    exact ⟨_, _, _, _, _, _, _, _, _, rfl⟩

/-! The context after an instruction's boundary. -/

/-- Apart from waits, and a HALT at a strip start that strikes, the next context is that of the boundary (R115, R120). -/
theorem State.advance_ctx (s : State) : ∃ p st n b h a d i, s.advance.ctx = { s.ctx.boundary.1 with
    parked := p, stall := st, since := n, sib := b, haltReq := h, asking := a, detentWait := d, inv := i } := by
  unfold State.advance
  dsimp only
  split
  · obtain ⟨p, st, n, b, hw⟩ := State.emitTrace_woken { (s.withCtx { s.ctx.boundary.1 with
        stall := false, parked := none, asking := [], detentWait := none, inv := false }) with
      ctx := { s.ctx.boundary.1 with
        stall := false, parked := none, asking := [], detentWait := none, inv := false,
        haltReq := if s.ctx.boundary.1.haltReq = some 2 then some 4 else s.ctx.boundary.1.haltReq }
      posted := s.posted.map fun (p : Posted) => if p.ctx = s.ctx.boundary.1.id then { p with before := true } else p }
      1 0 s.ctx.boundary.1.sbeg.toNat s.ctx.boundary.1.shapeWord
    exact ⟨p, st, n, b, _, _, _, _, hw⟩
  · exact ⟨_, _, _, _, _, _, _, _, rfl⟩

/-- An instruction that goes on waits for nothing. -/
theorem State.advance_stall (s : State) : s.advance.ctx.stall = false := by
  unfold State.advance
  dsimp only
  split
  · exact State.emitTrace_keepsCtx (fun c => c.stall = false) Context.wakeIf_stall _ _ _ _ _ rfl
  · rfl

/-- Away from every loop's end an instruction goes on at the next word. -/
theorem State.advance_away (s : State) (hc : ¬s.ctx.endsCount) (hs : ¬s.ctx.endsStrip) : s.advance = s.wentOn := by
  unfold State.advance
  rw [s.ctx.boundary_away hc hs]
  rfl

/-- A NOP traps at the boundary on a loop register in error (R369). -/
theorem State.finish_loopError (s t : State) (v : Word) (ht : t.ctx.stall = false) (h : s.ctx.loopError = some v) :
    s.finish (.ok t) = .next (s.takeTrap 0x0D v none) := by
  simp [State.finish, ht, h]

/-- Settles O31: the boundary of each of the five cases, read off field by field. -/
theorem iterationBoundary : Obligations.IterationBoundary := by
  unfold Obligations.IterationBoundary
  intro s
  dsimp only
  refine ⟨fun v hv => s.finish_loopError _ v s.advance_stall hv, fun hv => ⟨s.advance, State.finish_ok _ _ hv, s.advance_away, ?_⟩⟩
  obtain ⟨p, st, n, b, h, a, d, i, hu⟩ := s.advance_ctx
  rw [hu]
  refine ⟨fun hc hs => ?_, fun hs hc => ?_, fun hc hs ho => ?_, fun hc hs ho => ?_, ?_⟩
  · obtain ⟨b1, hd⟩ := s.ctx.countDown_eq
    rw [s.ctx.boundary_count hc hs, hd]
    by_cases hl : s.ctx.countLeft ≠ 0
    · rw [if_pos hl]; exact ⟨rfl, rfl, (if_pos hl).symm, rfl, rfl, rfl⟩
    · rw [if_neg hl]; exact ⟨rfl, rfl, (if_neg hl).symm, rfl, rfl, rfl⟩
  · obtain ⟨b1, hn⟩ := s.ctx.nextStrip_eq
    obtain ⟨b2, hl⟩ := s.ctx.lastStrip_eq
    rw [s.ctx.boundary_strip hc hs, hn, hl]
    by_cases hr : s.ctx.srem ≠ 0
    · rw [if_pos hr]; exact ⟨fun _ => ⟨rfl, rfl, rfl, rfl, rfl, rfl⟩, fun h => absurd h hr, rfl, rfl⟩
    · rw [if_neg hr]; exact ⟨fun h => absurd h hr, fun _ => ⟨rfl, rfl, rfl, rfl⟩, rfl, rfl⟩
  · obtain ⟨b1, hd⟩ := s.ctx.countDown_eq
    obtain ⟨b2, hn⟩ := s.ctx.countDown.nextStrip_eq
    obtain ⟨b3, hl⟩ := s.ctx.countDown.lastStrip_eq
    rw [s.ctx.boundary_countInner hc hs ho, hn, hl, hd]
    by_cases hl : s.ctx.countLeft ≠ 0
    · rw [if_pos hl]; exact ⟨fun _ => ⟨rfl, rfl, rfl, rfl⟩, fun h => absurd h hl, fun h => absurd h hl⟩
    · have hz : s.ctx.countLeft = 0 := not_not.1 hl
      rw [if_neg hl]
      by_cases hr : s.ctx.srem ≠ 0
      · rw [if_pos hr]; exact ⟨fun h => absurd h hl, fun _ _ => ⟨hz, rfl, rfl⟩, fun _ h => absurd h hr⟩
      · rw [if_neg hr]; exact ⟨fun h => absurd h hl, fun _ h => absurd h hr, fun _ _ => ⟨hz, rfl, rfl⟩⟩
  · obtain ⟨b1, hn⟩ := s.ctx.nextStrip_eq
    obtain ⟨b2, hd⟩ := s.ctx.lastStrip.countDown_eq
    obtain ⟨b3, hl⟩ := s.ctx.lastStrip_eq
    rw [s.ctx.boundary_stripInner hc hs ho, hn, hd, hl]
    by_cases hr : s.ctx.srem ≠ 0
    · rw [if_pos hr]; exact ⟨fun _ => ⟨rfl, rfl, rfl⟩, fun h => absurd h hr, fun h => absurd h hr⟩
    · rw [if_neg hr]
      by_cases hl : s.ctx.countLeft ≠ 0
      · rw [if_pos hl]
        exact ⟨fun h => absurd h hr, fun _ _ => ⟨rfl, rfl, rfl⟩, fun _ h => absurd h hl⟩
      · rw [if_neg hl]
        exact ⟨fun h => absurd h hr, fun _ h => absurd h hl, fun _ _ => ⟨rfl, not_not.1 hl, rfl⟩⟩
  · obtain ⟨_, _, _, _, _, _, _, _, _, hb⟩ := s.ctx.boundary_ctx
    rw [hb]
    exact ⟨rfl, rfl, rfl, rfl⟩

end Sys2Proof.Machine
end

section
/-! What the lanes change (R164 to R169): of a stream its banks and FPSR, and of a bank its registers and slots. -/

namespace Sys2Proof.Machine

/-! One bank. -/

/-- What the lanes leave alone in a bank: what a stop has recorded (R168), and the slip counters. -/
def Bank.record (b : Bank) : Tab Word × Tab InFlight × Tab Word × Tab InFlight × Tab Word :=
  (b.irp, b.stopped, b.frame, b.frameStopped, b.slip)

/-- b differs from a bank at most in its registers: rows, keep names, predicates. -/
def Bank.regsOnly (a b : Bank) : Prop := b.record = a.record ∧ b.slots = a.slots

theorem Bank.regsOnly.refl (a : Bank) : a.regsOnly a := ⟨rfl, rfl⟩

theorem Bank.regsOnly.trans {a b c : Bank} (h : a.regsOnly b) (k : b.regsOnly c) : a.regsOnly c :=
  ⟨k.1.trans h.1, k.2.trans h.2⟩

theorem foldl_regsOnly {β : Type} (f : Bank → β → Bank) (h : ∀ (b : Bank) x, b.regsOnly (f b x)) (xs : List β) (b : Bank) :
    b.regsOnly (xs.foldl f b) := by
  induction xs generalizing b with
  | nil => exact .refl b
  | cons x xs ih => exact (h b x).trans (ih _)

theorem Bank.setRow_regsOnly (b : Bank) (i : Nat) (r : RowReg) : b.regsOnly (b.setRow i r) := ⟨rfl, rfl⟩
theorem Bank.setPool_regsOnly (b : Bank) (r : Nat) (q : KeepRow) : b.regsOnly (b.setPool r q) := ⟨rfl, rfl⟩
theorem Bank.setPred_regsOnly (b : Bank) (i : Nat) (p : BitVec 16384) : b.regsOnly (b.setPred i p) := ⟨rfl, rfl⟩

theorem Bank.release_regsOnly (b : Bank) (k : Nat) : b.regsOnly (b.release k) := by
  unfold Bank.release; split <;> exact ⟨rfl, rfl⟩

theorem Bank.bind_regsOnly (b : Bank) (k now : Nat) : b.regsOnly (b.bind k now) := by
  unfold Bank.bind; split <;> exact ⟨rfl, rfl⟩

theorem Bank.setTag_regsOnly (b : Bank) (n : Nat) (t : TagBits) : b.regsOnly (b.setTag n t) := by
  unfold Bank.setTag
  split
  · exact ⟨rfl, rfl⟩
  · split <;> exact ⟨rfl, rfl⟩

theorem Bank.write_regsOnly (b : Bank) (n : Nat) (keep : Nat → Bool) (cells : List Cell) : b.regsOnly (b.write n keep cells) := by
  unfold Bank.write
  split
  · exact .refl b
  · split
    · exact ⟨rfl, rfl⟩
    · split <;> exact ⟨rfl, rfl⟩

theorem Bank.writePlain_regsOnly (b : Bank) (n : Nat) (cells : List Cell) : b.regsOnly (b.writePlain n cells) := by
  unfold Bank.writePlain
  split
  · exact ⟨rfl, rfl⟩
  · split <;> exact ⟨rfl, rfl⟩

theorem Bank.writeGroup_regsOnly (b : Bank) (n : Nat) (t : TagBits) (cap lo total : Nat) (rs ss : List (Nat × Option Nat)) :
    b.regsOnly (b.writeGroup n t cap lo total rs ss) := by
  refine foldl_regsOnly _ (fun b i => ?_) _ b
  dsimp only
  split
  · exact .refl b
  · refine .trans ?_ (Bank.setTag_regsOnly _ _ _)
    split
    · exact Bank.write_regsOnly _ _ _ _
    · exact (Bank.write_regsOnly _ _ _ _).trans (Bank.writePlain_regsOnly _ _ _)

theorem Bank.lastUse_regsOnly (b : Bank) (last : Bool) (n : NameF) : b.regsOnly (b.lastUse last n) := by
  unfold Bank.lastUse
  split
  · exact b.release_regsOnly _
  · exact .refl b

theorem Context.bindGroup_regsOnly (c : Context) (b : Bank) (now n : Nat) (t : TagBits) (count : Nat) :
    b.regsOnly (c.bindGroup b now n t count) := by
  unfold Context.bindGroup
  split
  · exact foldl_regsOnly _ (fun b i => b.bind_regsOnly _ _) _ b
  · exact .refl b

theorem Context.putFrom_regsOnly (c : Context) (b : Bank) (d : NameF) (t : TagBits) (lo total : Nat) (rs ss : List (Nat × Option Nat)) :
    b.regsOnly (c.putFrom b d t lo total rs ss) := by
  unfold Context.putFrom
  split
  · exact b.writeGroup_regsOnly _ _ _ _ _ _ _
  · exact .refl b

theorem mergeInto_regsOnly (c : Context) (v : Vec) (t : TagBits) (d p lo hi : Nat) (b : Bank) : b.regsOnly (mergeInto c v t d p lo hi b) :=
  foldl_regsOnly _ (fun b _ => ((b.writePlain_regsOnly _ _).trans (Bank.write_regsOnly _ _ _ _)).trans (Bank.setTag_regsOnly _ _ _)) _ b

theorem insInto_regsOnly (c : Context) (t : TagBits) (d i : Nat) (v : Word) (b : Bank) : b.regsOnly (insInto c t d i v b) :=
  ((b.writePlain_regsOnly _ _).trans (Bank.write_regsOnly _ _ _ _)).trans (Bank.setTag_regsOnly _ _ _)

/-- The elements an instruction writes are registers of its bank. -/
theorem SlotForm.write_regsOnly (f : SlotForm) (c : Context) (now j : Nat) (q : InFlight) (hi : Nat) (src dst : Bank) :
    dst.regsOnly (f.write c now j q hi src dst).1 := by
  cases f with
  | cmp r k g p => exact dst.setPred_regsOnly _ _
  | merge la d a p => exact mergeInto_regsOnly _ _ _ _ _ _ _ dst
  | ins d a b =>
    unfold SlotForm.write
    dsimp only
    split
    · exact .refl dst
    · exact insInto_regsOnly _ _ _ _ _ dst
  | _ => exact c.putFrom_regsOnly dst _ _ _ _ _ _

theorem SlotForm.writeTo_regsOnly (f : SlotForm) (c : Context) (now j : Nat) (q : InFlight) (hi : Nat) (src dst : Bank) :
    dst.regsOnly (f.writeTo c now j q hi src dst).1 := by
  have h : ∀ (ks : List Nat) (acc : Bank × FpFlags), dst.regsOnly acc.1 → dst.regsOnly (ks.foldl (fun acc k =>
      ((f.write c now j { q with next := q.next + k * f.unit q } (min hi (q.next + k * f.unit q + f.unit q)) src acc.1).1,
        acc.2 ||| (f.write c now j { q with next := q.next + k * f.unit q } (min hi (q.next + k * f.unit q + f.unit q)) src acc.1).2)) acc).1 := by
    intro ks
    induction ks with
    | nil => exact fun _ h => h
    | cons k ks ih => exact fun acc h => ih _ (h.trans (f.write_regsOnly _ _ _ _ _ _ _))
  exact h _ _ (.refl dst)

theorem SlotForm.release_regsOnly (f : SlotForm) (b : Bank) : b.regsOnly (f.release b) :=
  foldl_regsOnly (fun b (l : Bool × NameF) => b.lastUse l.1 l.2) (fun b l => b.lastUse_regsOnly l.1 l.2) _ b

theorem SlotForm.bind_regsOnly (f : SlotForm) (c : Context) (now : Nat) (q : InFlight) (b : Bank) : b.regsOnly (f.bind c now q b) := by
  unfold SlotForm.bind
  split
  · exact c.bindGroup_regsOnly b _ _ _ _
  · exact .refl b

theorem SlotForm.atOnce_regsOnly (f : SlotForm) (i : Instr) (c : Context) (now j : Nat) (b : Bank) : b.regsOnly (f.atOnce i c now j b).1 :=
  ((f.release_regsOnly b).trans (f.bind_regsOnly c now _ _)).trans (f.writeTo_regsOnly _ _ _ _ _ _ _)

theorem Bank.tagNames_regsOnly (b : Bank) (ns : List Nat) (t : TagBits) : b.regsOnly (b.tagNames ns t) :=
  foldl_regsOnly _ (fun b n => b.setTag_regsOnly n t) _ b

/-! The banks of a stream. -/

/-- d differs from a context at most in its banks and in FPSR. -/
def Context.banksOnly (c d : Context) : Prop := ∃ bs fl, d = { c with banks := bs, fpsr := fl }

theorem Context.banksOnly.refl (c : Context) : c.banksOnly c := ⟨c.banks, c.fpsr, rfl⟩

theorem Context.banksOnly.trans {c d e : Context} (h : c.banksOnly d) (k : d.banksOnly e) : c.banksOnly e := by
  obtain ⟨_, _, rfl⟩ := h
  obtain ⟨bs, fl, rfl⟩ := k
  exact ⟨bs, fl, rfl⟩

theorem Context.setBank_banksOnly (c : Context) (j : Nat) (b : Bank) : c.banksOnly (c.setBank j b) := ⟨_, c.fpsr, rfl⟩
theorem Context.orFlags_banksOnly (c : Context) (fl : FpFlags) : c.banksOnly (c.orFlags fl) := ⟨c.banks, _, rfl⟩

theorem foldl_banksOnly {β : Type} (f : Context → β → Context) (h : ∀ (c : Context) x, c.banksOnly (f c x)) (xs : List β) (c : Context) :
    c.banksOnly (xs.foldl f c) := by
  induction xs generalizing c with
  | nil => exact .refl c
  | cons x xs ih => exact (h c x).trans (ih _)

/-- d differs from a context at most in what its lanes change: the registers and the slots of its banks, and FPSR. -/
structure Context.lanesOnly (c d : Context) : Prop where
  banks : c.banksOnly d
  record : ∀ j, (d.bank j).record = (c.bank j).record

theorem Context.lanesOnly.refl (c : Context) : c.lanesOnly c := ⟨.refl c, fun _ => rfl⟩

theorem Context.lanesOnly.trans {c d e : Context} (h : c.lanesOnly d) (k : d.lanesOnly e) : c.lanesOnly e :=
  ⟨h.banks.trans k.banks, fun j => (k.record j).trans (h.record j)⟩

theorem foldl_lanesOnly {β : Type} (f : Context → β → Context) (h : ∀ (c : Context) x, c.lanesOnly (f c x)) (xs : List β) (c : Context) :
    c.lanesOnly (xs.foldl f c) := by
  induction xs generalizing c with
  | nil => exact .refl c
  | cons x xs ih => exact (h c x).trans (ih _)

theorem Context.orFlags_lanesOnly (c : Context) (fl : FpFlags) : c.lanesOnly (c.orFlags fl) := ⟨c.orFlags_banksOnly fl, fun _ => rfl⟩

/-- A bank is replaced by one with the same record. -/
theorem Context.setBank_lanesOnly (c : Context) (j : Nat) (b : Bank) (h : b.record = (c.bank j).record) : c.lanesOnly (c.setBank j b) := by
  refine ⟨c.setBank_banksOnly j b, fun i => ?_⟩
  rw [Context.bank_setBank]
  split
  · subst i; exact h
  · rfl

theorem SlotForm.advanceIn_lanesOnly (f : SlotForm) (c0 c : Context) (now x k hi : Nat) : c.lanesOnly (f.advanceIn c0 c now x k hi) := by
  unfold SlotForm.advanceIn
  dsimp only
  split
  · exact .refl c
  · next q0 _ =>
    have hgo := f.writeTo_regsOnly (c0.under (f.begin c0 now q0 (c0.bank x))) now x
      { f.begin c0 now q0 (c0.bank x) with next := f.upTo (f.begin c0 now q0 (c0.bank x)) (f.begin c0 now q0 (c0.bank x)).next }
      (f.upTo (f.begin c0 now q0 (c0.bank x)) (min hi (f.span (f.begin c0 now q0 (c0.bank x))))) (c0.bank x) (c.bank x)
    refine .trans (c.setBank_lanesOnly x _ ?_) (Context.orFlags_lanesOnly _ _)
    split
    · exact hgo.1
    · exact (f.release_regsOnly _).1.trans hgo.1

theorem Context.goOn_lanesOnly (c : Context) (now j k step : Nat) : c.lanesOnly (c.goOn now j k step) := by
  unfold Context.goOn
  dsimp only
  split
  · exact .refl c
  · split
    · exact c.setBank_lanesOnly j _ rfl
    · split
      · exact .refl c
      · split
        · exact foldl_lanesOnly _ (fun a x => SlotForm.advanceIn_lanesOnly _ c a _ _ _ _) _ c
        · exact SlotForm.advanceIn_lanesOnly _ c c _ _ _ _

theorem Context.laneStep_lanesOnly (c : Context) (now j : Nat) : c.lanesOnly (c.laneStep now j) := by
  unfold Context.laneStep
  split
  · exact .refl c
  · exact c.goOn_lanesOnly _ _ _ _

theorem Context.finishOne_lanesOnly (c : Context) (now j : Nat) (q : InFlight) : c.lanesOnly (c.finishOne now j q) := by
  unfold Context.finishOne
  split
  · exact .refl c
  · refine .trans (c.setBank_lanesOnly j _ ?_) (Context.orFlags_lanesOnly _ _)
    exact (SlotForm.release_regsOnly _ _).1.trans (SlotForm.writeTo_regsOnly _ _ _ _ _ _ _ _).1

theorem Context.runBanks_lanesOnly (c : Context) (now : Nat) (goal : Context → Nat → Bool) (n : Nat) :
    c.lanesOnly (c.runBanks now goal n) := by
  induction n generalizing c with
  | zero => exact .refl c
  | succ n ih =>
    refine .trans (foldl_lanesOnly _ (fun c x => ?_) _ c) (ih _)
    split
    · exact c.goOn_lanesOnly _ _ _ _
    · exact .refl c

/-- Work that completes changes registers, slots and FPSR (R164). -/
theorem Context.drain_lanesOnly (c : Context) (now : Nat) (js : List Nat) : c.lanesOnly (c.drain now js) := by
  unfold Context.drain
  split
  · exact .refl c
  · refine .trans (c.runBanks_lanesOnly _ _ _) (foldl_lanesOnly _ (fun c j => ?_) _ _)
    exact Context.lanesOnly.trans (c.setBank_lanesOnly j { c.bank j with slots := [] } rfl)
      (foldl_lanesOnly _ (fun c q => c.finishOne_lanesOnly now j q) _ _)

theorem Context.through_lanesOnly (c : Context) (now : Nat) (q : InFlight) : c.lanesOnly (c.through now q) := c.runBanks_lanesOnly _ _ _

theorem Context.finishCross_lanesOnly (c : Context) (now n : Nat) : c.lanesOnly (c.finishCross now n) := by
  induction n generalizing c with
  | zero => exact .refl c
  | succ n ih =>
    unfold Context.finishCross
    split
    · exact .refl c
    · exact (c.through_lanesOnly now _).trans (ih _)

/-! Stops (R168). -/

theorem Context.stopBank_banksOnly (c : Context) (now : Nat) (p : Word) (j : Nat) : c.banksOnly (c.stopBank now p j) :=
  ((c.setBank_banksOnly j _).trans (foldl_banksOnly (fun c (e : InFlight × Bool) => c.finishOne now j e.1) (fun c e => (c.finishOne_lanesOnly now j e.1).banks) _ _)).trans
    (Context.setBank_banksOnly _ j _)

/-- A stop changes of a stream its banks and FPSR. -/
theorem Context.stopLanes_banksOnly (c : Context) (now : Nat) : c.banksOnly (c.stopLanes now) := by
  have h := (c.finishCross_lanesOnly now c.inSlots).banks.trans (foldl_banksOnly (fun d j => d.stopBank now d.pc j)
    (fun d j => d.stopBank_banksOnly now d.pc j) (bankList c.gmBanks) _)
  rcases hs : c.sib with _ | b <;> simp only [Context.stopLanes, hs]
  · exact h
  · exact h.trans (foldl_banksOnly _ (fun d j => d.stopBank_banksOnly now b.pc j) _ _)

/-! Resumption (R169). -/

theorem State.resumeBank_banksOnly (s : State) (p : Word) (c : Context) (j : Nat) : c.banksOnly (s.resumeBank p c j) :=
  c.setBank_banksOnly j _

theorem State.resumeBanks_banksOnly (s : State) (c : Context) : c.banksOnly (s.resumeBanks c) := by
  unfold State.resumeBanks
  dsimp only
  have h1 : c.banksOnly (if ((bankList c.allBanks).any fun j => (c.bank j).crowded) = true then c.drain s.now (bankList c.allBanks) else c) := by
    split
    · exact (c.drain_lanesOnly _ _).banks
    · exact .refl c
  have h2 := h1.trans (foldl_banksOnly (fun a j => s.resumeBank (c.pcOf j) a j) (fun a j => s.resumeBank_banksOnly _ a j) (bankList c.allBanks) _)
  split
  · exact h2.trans (Context.drain_lanesOnly _ _ _).banks
  · exact h2

end Sys2Proof.Machine
end

section
/-! Jumps and the window (R79, R110), the return from a trap (R227), and the asynchronous causes (R44). -/

namespace Sys2Proof.Machine

/-! Jumps and the window. -/

theorem toSigned_toNat {w : Nat} (x : BitVec w) : toSigned w x.toNat = x.toInt := by
  unfold toSigned
  dsimp only
  rw [Nat.mod_eq_of_lt x.isLt, BitVec.toInt_eq_toNat_cond]
  push_cast
  rfl

theorem Context.read_mend (c : Context) (is : List Nat) (n : NameF) : (c.mend is).read n = c.read n := by
  rw [Context.mend_eq]; rfl

theorem execCall_next (s : State) (d : NameF) (i : BitVec 19) (hl : s.ctx.atLoopEnd = false) (hd : isSz d) (hi : s.ctx.intact [] [] [d]) :
    execCall d i s = .next ((s.withCtx (s.ctx.write d (s.ctx.pc + 4))).wentTo (s.ctx.pc + BitVec.ofInt 64 (4 * i.toInt))) := by
  simp only [execCall, hl, Bool.not_false, require_true, checkNames_scalar _ _ hd, sound_ok _ _ _ _ hi, except_ok_bind, except_pure,
    branchTarget, toSigned_toNat]
  exact State.finish_ok _ _ hi.2.2.2

theorem execJr_next (s : State) (a : NameF) (hl : s.ctx.atLoopEnd = false) (ha : isSz a) (hi : s.ctx.intact [a] [])
    (ht : (s.ctx.read a).toNat % 4 = 0) : execJr a s = .next (s.withCtx (s.ctx.goto (s.ctx.read a)).resync) := by
  simp only [execJr, hl, Bool.not_false, require_true, checkNames_scalar _ _ ha, decide_eq_true ht, sound_ok _ _ _ _ hi, except_ok_bind,
    except_pure]
  exact State.finish_ok _ _ hi.2.2.2

theorem execSwin_next (s : State) (n : BitVec 5) (hg : s.ctx.gmSub = false) (hi : s.ctx.intact [] [0x02]) : execSwin n s =
    .next (s.withCtx { s.ctx.mend [0x02] with win := s.ctx.win + BitVec.ofInt 8 (16 * n.toInt) }).advance := by
  simp only [execSwin, hg, Bool.not_false, require_true, sound_ok _ _ _ _ hi, except_ok_bind, except_pure, toSigned_toNat]
  exact State.finish_ok _ _ hi.2.2.2

theorem execSwin_subTrap (s : State) (n : BitVec 5) (hg : s.ctx.gmSub = true) :
    execSwin n s = .next (s.takeTrap 0x01 (wordOf (.swin n)) none) := by
  simp [execSwin, hg]

/-- Settles O27. -/
theorem jumpsAndWindow : Obligations.JumpsAndWindow := by
  unfold Obligations.JumpsAndWindow
  refine ⟨fun s hl => ⟨fun d i hd hi => execCall_next s d i hl hd hi, fun a ha hi ht => ?_⟩, fun s n => ⟨fun hg hi => ?_, fun hg => ?_, fun hi => ?_⟩⟩
  · exact ⟨_, execJr_next s a hl ha hi ht, rfl, rfl, rfl, rfl, rfl, rfl, rfl⟩
  · exact execSwin_next s n hg hi
  · exact execSwin_subTrap s n hg
  · exact State.finish_ok _ _ hi.2.2.2

/-! The return from a trap. -/

/-- No IRP entry of a bank is valid (R40). -/
def Bank.resumed (b : Bank) : Prop := ∀ q, (tabGet 0 b.irp q).getLsbD 31 = false

theorem Bank.clearValid_resumed (b : Bank) : b.clearValid.resumed := by
  refine tabGet_of_forall (fun e : Word => e.getLsbD 31 = false) 0 rfl _ |> fun h q => h q ?_
  intro e he
  simpa using (List.mem_filter.1 he).2

theorem State.resumeBank_bank (s : State) (p : Word) (c : Context) (j i : Nat) :
    ((s.resumeBank p c j).bank i).irp = if i = j then (c.bank j).clearValid.irp else (c.bank i).irp := by
  unfold State.resumeBank
  rw [Context.bank_setBank]
  split <;> rfl

/-- A bank that a list of re-issues has gone through has no valid entry left, and gets none. -/
theorem State.foldl_resumeBank_resumed (s : State) (p : Nat → Word) (js : List Nat) (c : Context) (i : Nat)
    (h : i ∈ js ∨ (c.bank i).resumed) : ((js.foldl (fun a j => s.resumeBank (p j) a j) c).bank i).resumed := by
  induction js generalizing c with
  | nil => exact h.resolve_left (List.not_mem_nil)
  | cons j js ih =>
    refine ih _ ?_
    by_cases hij : i = j
    · right
      intro q
      rw [s.resumeBank_bank, if_pos hij]
      exact (c.bank j).clearValid_resumed q
    · rcases h with h | h
      · exact .inl ((List.mem_cons.1 h).resolve_left hij)
      · right
        intro q
        rw [s.resumeBank_bank, if_neg hij]
        exact h q

theorem State.resumeBanks_resumed (s : State) (c : Context) (i : Nat) (h : i ∈ bankList c.allBanks) : ((s.resumeBanks c).bank i).resumed := by
  unfold State.resumeBanks
  dsimp only
  split
  · intro q
    have hr := (Context.drain_lanesOnly ((bankList c.allBanks).foldl (fun a j => s.resumeBank (c.pcOf j) a j)
      (if ((bankList c.allBanks).any fun j => (c.bank j).crowded) = true then c.drain s.now (bankList c.allBanks) else c))
      s.now (bankList c.allBanks)).record i
    rw [show Bank.irp _ = _ from congrArg Prod.fst hr]
    exact s.foldl_resumeBank_resumed c.pcOf _ _ i (.inl h) q
  · exact s.foldl_resumeBank_resumed c.pcOf _ _ i (.inl h)

theorem mem_allBanks (c : Context) (j : Nat) (h : j ∈ bankList c.gmBanks) : j ∈ bankList c.allBanks := by
  rw [mem_bankList] at h ⊢
  unfold Context.allBanks
  split
  · exact h
  · rw [BitVec.getLsbD_or, h.2]; exact ⟨h.1, rfl⟩

/-- Issue that resumes changes the banks, FPSR, MPROG and the MMF. -/
theorem State.resumeWork_ctx (s : State) (c : Context) : ∃ fl mp mm, s.resumeWork c = { c with
    banks := (s.resumeBanks c).banks, fpsr := fl, mprog := mp, mmf := mm, sibHeld := false } := by
  obtain ⟨bs, fl, h⟩ := s.resumeBanks_banksOnly c
  unfold State.resumeWork Context.resumeFold
  rw [h]
  dsimp only
  split <;> exact ⟨_, _, _, rfl⟩

theorem State.afterTrap_eq (s : State) : ∃ b, s.afterTrap = s.withCtx { s.ctx with
    sup := s.ctx.tstat.getLsbD 0, ad := s.ctx.tstat.getLsbD 1, pc := s.ctx.tpc.setWidth 64, stall := false, bad := b } :=
  ⟨_, by rw [State.afterTrap, Context.mend_eq]⟩

theorem wordOf_eret : wordOf .eret = 0x79800000 := by decide

theorem execEret_checked (s : State) (hl : s.ctx.atLoopEnd = false) (hs : s.ctx.sup = true) (ht : s.ctx.tpc.toNat % 4 = 0)
    (hi : s.ctx.intact [] s.ctx.eretCtl) :
    execEret s = if s.afterTrap.resumeWaits s.afterTrap.ctx then .next s.hold else .next s.returnFromTrap := by
  simp only [execEret, hl, hs, decide_eq_true ht, Bool.not_false, require_true, sound_ok _ _ _ _ hi, except_ok_bind]
  by_cases hw : s.afterTrap.resumeWaits s.afterTrap.ctx = true
  · rw [if_pos hw, hw]
    rfl
  · rw [if_neg hw, Bool.not_eq_true _ |>.mp hw]
    exact State.finish_ok _ _ hi.2.2.2

/-- Settles O11: the checks in their order, then the context that the return leaves. -/
theorem eretResults : Obligations.EretResults := by
  unfold Obligations.EretResults
  constructor
  · intro s hl hs ht hi hw
    refine ⟨s.returnFromTrap, by rw [exec_eret, execEret_checked s hl hs ht hi, hw]; rfl, ?_⟩
    obtain ⟨b, ha⟩ := s.afterTrap_eq
    obtain ⟨fl, mp, mm, hc⟩ := s.afterTrap.resumeWork_ctx s.afterTrap.ctx
    have hb : ∀ j, s.returnFromTrap.ctx.bank j = (s.afterTrap.resumeBanks s.afterTrap.ctx).bank j := by
      intro j
      rw [State.returnFromTrap, State.withCtx_ctx, hc]
      rfl
    have hj : ∀ j ∈ bankList s.ctx.gmBanks, j ∈ bankList s.afterTrap.ctx.allBanks := by
      intro j h
      refine mem_allBanks _ j ?_
      rw [ha]
      exact h
    have hirp : ∀ j ∈ bankList s.ctx.gmBanks, ∀ q, q < 4 → (tabGet 0 (s.returnFromTrap.ctx.bank j).irp q).getLsbD 31 = false := by
      intro j h q _
      rw [hb]
      exact s.afterTrap.resumeBanks_resumed _ j (hj j h) q
    rw [State.returnFromTrap, hc, ha] at hirp ⊢
    exact ⟨rfl, rfl, rfl, hirp, rfl, rfl, rfl, rfl, rfl, rfl, rfl, rfl, rfl⟩
  · intro s
    refine ⟨fun hl => ?_, fun hl hs => ?_, fun hl hs ht => ?_, fun hl hs ht hi hw => ?_⟩
    · simp [execEret, hl, wordOf_eret]
    · simp [execEret, hl, hs, wordOf_eret]
    · simp [execEret, hl, hs, ht]
    · rw [exec_eret, execEret_checked s hl hs ht hi, hw]
      rfl

/-! Asynchronous causes. -/

theorem execAsyncTrapEntry_whole (s : State) (hs : s.ctx.sib = none) (hm : s.ctx.markTrap = none) :
    execAsyncTrapEntry s = match s.asyncCause with
      | some (k, v, j, c) => .next ((s.withCtx c).takeTrap k v (some j))
      | none => .next s := by
  simp only [execAsyncTrapEntry, hm, State.turned, hs] <;> rfl

theorem Context.isLowest_whole (c : Context) (h : c.sib = none) : c.isLowest = true := by simp [Context.isLowest, h]

/-- Settles O12: the cause of a stream of one gang, in the order 0x30, 0x10, 0x11. -/
theorem asyncEntry : Obligations.AsyncEntry := by
  unfold Obligations.AsyncEntry
  intro s hs hm
  have hlow := s.ctx.isLowest_whole hs
  rw [exec_asyncTrapEntry, execAsyncTrapEntry_whole s hs hm]
  refine ⟨fun had => ?_, fun v had h30 => ?_, fun had h30 h10 => ?_, fun n had h30 h10 h11 => ?_⟩
  · simp [State.asyncCause, had]
  · simp [State.asyncCause, had, hlow, h30]
  · simp [State.asyncCause, had, hlow, h30, h10]
  · simp [State.asyncCause, had, hlow, h30, h10, h11]

end Sys2Proof.Machine
end

section
/-! What keeps the mode of a stream (R25, R37): the state's operations leave STATUS.SUP, TVEC and TSCR alone, or end or halt the stream. -/

namespace Sys2Proof.Machine

/-- A context that is resident after a change was resident before it, in the same mode, with the same TVEC and TSCR. -/
def Context.modeKept (c d : Context) : Prop :=
  d.place = .resident → c.place = .resident ∧ d.sup = c.sup ∧ d.tvec = c.tvec ∧ d.tscr = c.tscr

theorem Context.modeKept.refl (c : Context) : c.modeKept c := fun h => ⟨h, rfl, rfl, rfl⟩

theorem Context.modeKept.trans {c d e : Context} (h : c.modeKept d) (k : d.modeKept e) : c.modeKept e := by
  intro he
  obtain ⟨hd, k1, k2, k3⟩ := k he
  obtain ⟨hc, h1, h2, h3⟩ := h hd
  exact ⟨hc, k1.trans h1, k2.trans h2, k3.trans h3⟩

theorem Context.modeKept.of_eq {c d : Context} (h : d = c) : c.modeKept d := by rw [h]; exact .refl c

theorem Context.modeKept.of_notResident {c d : Context} (h : d.place ≠ .resident) : c.modeKept d := fun hd => absurd hd h

theorem Context.modeKept.ite {p : Prop} [Decidable p] {c d e : Context} (h : c.modeKept d) (k : c.modeKept e) :
    c.modeKept (if p then d else e) := by
  split
  · exact h
  · exact k

theorem Context.Woken.modeKept {c d : Context} (h : c.Woken d) : c.modeKept d := by
  obtain ⟨_, _, _, _, rfl⟩ := h
  exact fun h => ⟨h, rfl, rfl, rfl⟩

theorem Context.banksOnly.modeKept {c d : Context} (h : c.banksOnly d) : c.modeKept d := by
  obtain ⟨_, _, rfl⟩ := h
  exact fun h => ⟨h, rfl, rfl, rfl⟩

/-- A state whose running context keeps its mode. -/
def State.modeKept (s t : State) : Prop := s.ctx.modeKept t.ctx

theorem State.modeKept.of_ctx {s t : State} (h : s.ctx.modeKept t.ctx) : s.modeKept t := h

theorem State.modeKept.of_eq {s t : State} (h : t.ctx = s.ctx) : s.modeKept t := Context.modeKept.of_eq h

theorem State.modeKept.trans {s t u : State} (h : s.modeKept t) (k : t.modeKept u) : s.modeKept u := Context.modeKept.trans h k

theorem foldl_modeKept {β : Type} (f : State → β → State) (h : ∀ (s : State) x, s.modeKept (f s x)) (xs : List β) (s : State) :
    s.modeKept (xs.foldl f s) := by
  induction xs generalizing s with
  | nil => exact .of_eq rfl
  | cons x xs ih => exact (h s x).trans (ih _)

theorem foldl_ctxModeKept {β : Type} (f : Context → β → Context) (h : ∀ (c : Context) x, c.modeKept (f c x)) (xs : List β) (c : Context) :
    c.modeKept (xs.foldl f c) := by
  induction xs generalizing c with
  | nil => exact .of_eq rfl
  | cons x xs ih => exact (h c x).trans (ih _)

/-! Contexts. -/

theorem Context.write_modeKept (c : Context) (d : NameF) (v : Word) : c.modeKept (c.write d v) := by
  unfold Context.write; split
  · exact fun h => ⟨h, rfl, rfl, rfl⟩
  · exact .refl c

theorem Context.mend_modeKept (c : Context) (is : List Nat) : c.modeKept (c.mend is) := by
  rw [Context.mend_eq]; exact fun h => ⟨h, rfl, rfl, rfl⟩

theorem Context.orFlags_modeKept (c : Context) (f : FpFlags) : c.modeKept (c.orFlags f) := (c.orFlags_banksOnly f).modeKept

theorem Context.setBank_modeKept (c : Context) (j : Nat) (b : Bank) : c.modeKept (c.setBank j b) := (c.setBank_banksOnly j b).modeKept

theorem Context.overBanks_modeKept (c : Context) (run : Nat → Bank → Bank × FpFlags) (js : List Nat) : c.modeKept (c.overBanks run js) := by
  induction js generalizing c with
  | nil => exact .refl c
  | cons j js ih => exact ((c.setBank_modeKept j _).trans (Context.orFlags_modeKept _ _)).trans (ih _)

theorem Context.mendPred_modeKept (c : Context) (p : Nat) (w : Option Nat) : c.modeKept (c.mendPred p w) := by
  unfold Context.mendPred; split
  · exact .refl c
  · exact fun h => ⟨h, rfl, rfl, rfl⟩

theorem Context.setRows_modeKept (c : Context) (v : Nat) (f : Nat → RowReg) : c.modeKept (c.setRows v f) :=
  foldl_ctxModeKept _ (fun c j => c.setBank_modeKept j _) _ c

theorem Context.boundary_modeKept (c : Context) : c.modeKept c.boundary.1 := by
  obtain ⟨_, _, _, _, _, _, _, _, _, h⟩ := c.boundary_ctx
  rw [h]; exact fun h => ⟨h, rfl, rfl, rfl⟩

theorem Context.grant_modeKept (c : Context) : c.modeKept c.grant := by
  unfold Context.grant
  rw [Context.mend_eq]; exact fun h => ⟨h, rfl, rfl, rfl⟩

theorem Context.branchTo_modeKept (c : Context) (target : Word) : c.modeKept (c.branchTo target) := by
  unfold Context.branchTo
  extract_lets outC outS m1 c1 m2 c2
  have h1 : c.modeKept c1 := by
    dsimp only [c1, m1]; split
    · exact (c.mend_modeKept [0x0A]).trans fun h => ⟨h, rfl, rfl, rfl⟩
    · exact .refl c
  have h2 : c1.modeKept c2 := by
    dsimp only [c2, m2]; split
    · exact (c1.mend_modeKept [0x05, 0x09]).trans fun h => ⟨h, rfl, rfl, rfl⟩
    · exact .refl c1
  exact (h1.trans h2).trans fun h => ⟨h, rfl, rfl, rfl⟩

theorem Context.swap_modeKept (c : Context) : c.modeKept c.swap := by
  unfold Context.swap Context.swapTo; split <;> exact fun h => ⟨h, rfl, rfl, rfl⟩

theorem Context.onFlight_modeKept (c : Context) (n : Nat) (f : MmfFlight → MmfFlight) : c.modeKept (c.onFlight n f) :=
  fun h => ⟨h, rfl, rfl, rfl⟩

theorem Context.endLocks_modeKept (c : Context) (n : Nat) : c.modeKept (c.endLocks n) := by
  unfold Context.endLocks
  split
  · exact .refl c
  · split
    · exact .refl c
    · refine .trans ?_ (Context.onFlight_modeKept _ _ _)
      split <;> exact fun h => ⟨h, rfl, rfl, rfl⟩

theorem Context.foldFails_modeKept (c : Context) (v : Word) : c.modeKept (c.foldFails v) := by
  unfold Context.foldFails
  split
  · exact (foldl_ctxModeKept (fun c (m : MmfFlight) => c.endLocks m.q) (fun c m => c.endLocks_modeKept m.q) c.flights c).trans
      fun h => ⟨h, rfl, rfl, rfl⟩
  · exact .refl c

theorem Context.noticeLoss_modeKept (c : Context) (tier : Nat) : c.modeKept (c.noticeLoss tier) := fun h => ⟨h, rfl, rfl, rfl⟩

theorem Context.withdraw_modeKept (c : Context) (n : Nat) : c.modeKept (c.withdraw n) := fun h => ⟨h, rfl, rfl, rfl⟩

theorem Context.exitHalf_modeKept (c : Context) (b : Sibling) : c.modeKept (c.exitHalf b) := by
  have hdrop : c.modeKept (c.dropBanks (bankList c.gmBanks)) :=
    foldl_ctxModeKept (fun c (j : Nat) => { c with banks := tabErase c.banks j }) (fun c j h => ⟨h, rfl, rfl, rfl⟩) _ c
  unfold Context.exitHalf
  rw [Context.mend_eq]
  exact hdrop.trans fun h => ⟨h, rfl, rfl, rfl⟩

/-- User mode writes no register that holds its mode, TVEC or TSCR (R25). -/
theorem Context.setCtl_modeKept (c : Context) (i : Nat) (v : Word) (h : ctlWritable false i = true) : c.modeKept (c.setCtl i v) := by
  unfold ctlWritable at h
  simp only [Bool.false_and, Bool.or_false, decide_eq_true_eq] at h
  rcases h with rfl | rfl | rfl | rfl | rfl | rfl | rfl
  case inr.inr.inr.inr.inl =>
    simp only [Context.setCtl]
    split <;> exact fun h => ⟨h, rfl, rfl, rfl⟩
  all_goals exact fun h => ⟨h, rfl, rfl, rfl⟩

theorem SlotForm.mend_modeKept (f : SlotForm) (c : Context) : c.modeKept (f.mend c) := by
  cases f with
  | cmp r k g p => exact c.mendPred_modeKept _ _
  | _ => exact .refl c

/-! The state. -/

theorem State.mapCtxs_modeKept (s : State) (f : Context → Context) (h : ∀ c : Context, c.modeKept (f c)) : s.modeKept (s.mapCtxs f) := h _

theorem State.updCtx_modeKept (s : State) (id : Nat) (f : Context → Context) (h : ∀ c : Context, c.modeKept (f c)) : s.modeKept (s.updCtx id f) :=
  s.mapCtxs_modeKept _ fun c => by
    split
    · exact h c
    · exact .refl c

theorem State.hold_modeKept (s : State) : s.modeKept s.hold := fun h => ⟨h, rfl, rfl, rfl⟩
theorem State.tick_modeKept (s : State) : s.modeKept s.tick := .of_eq rfl

theorem State.writeLoc_modeKept (s : State) (l n v : Nat) : s.modeKept (s.writeLoc l n v) := (s.writeLoc_woken l n v).modeKept
theorem State.writeBytes_modeKept (s : State) (l n v : Nat) : s.modeKept (s.writeBytes l n v) := by
  rw [State.modeKept, State.writeBytes, State.murky_ctx]; exact s.writeLoc_modeKept l n v
theorem State.writeCells_modeKept (s : State) (pa n v : Nat) : s.modeKept (s.writeCells pa n v) := (s.writeCells_woken pa n v).modeKept
theorem State.emitTrace_modeKept (s : State) (typ cause w8 w16 : Nat) : s.modeKept (s.emitTrace typ cause w8 w16) :=
  (s.emitTrace_woken typ cause w8 w16).modeKept

theorem State.stripStarted_modeKept (s : State) : s.modeKept s.stripStarted := by
  unfold State.stripStarted
  extract_lets c s1
  exact Context.modeKept.trans (d := s1.ctx) (fun h => ⟨h, rfl, rfl, rfl⟩) (s1.emitTrace_modeKept _ _ _ _)

theorem State.advance_modeKept (s : State) : s.modeKept s.advance := by
  obtain ⟨_, _, _, _, _, _, _, _, h⟩ := s.advance_ctx
  exact s.ctx.boundary_modeKept.trans (by rw [h]; exact fun h => ⟨h, rfl, rfl, rfl⟩)

/-- A context that keeps the mode, put into any state, keeps it as the stream goes on. -/
theorem State.modeKept.goOn {s : State} {d : Context} (h : s.ctx.modeKept d) (u : State) : s.modeKept (u.withCtx d).advance :=
  State.modeKept.trans (t := u.withCtx d) h (State.advance_modeKept _)

theorem State.withCtx_advance_modeKept (s : State) {d : Context} (h : s.ctx.modeKept d) : s.modeKept (s.withCtx d).advance :=
  .goOn h s

theorem State.forceSlot_modeKept (s : State) (core j : Nat) : s.modeKept (s.forceSlot core j) := by
  unfold State.forceSlot
  split
  · dsimp only
    split
    · exact .of_eq rfl
    · exact State.updCtx_modeKept _ _ _ fun c h => ⟨h, rfl, rfl, rfl⟩
  · exact .of_eq rfl

theorem State.serveRefs_modeKept (s : State) (core : Nat) (js : List Nat) : s.modeKept (s.serveRefs core js) := by
  unfold State.serveRefs
  dsimp only
  split
  · exact .of_eq rfl
  · exact foldl_modeKept (fun (t : State) j => t.forceSlot core j) (fun t j => t.forceSlot_modeKept core j) _ s

theorem State.forced_modeKept (s : State) : s.modeKept s.forced :=
  foldl_modeKept (fun (t : State) j => t.forceSlot s.ctx.core j) (fun t j => t.forceSlot_modeKept _ j) _ s

theorem State.settled_modeKept (s : State) : s.modeKept s.settled := (s.ctx.drain_lanesOnly _ _).banks.modeKept

theorem State.released_modeKept (s : State) : s.modeKept s.released := by
  unfold State.released; split
  · exact fun h => ⟨h, rfl, rfl, rfl⟩
  · exact .of_eq rfl

theorem State.readied_modeKept (s : State) : s.modeKept s.readied :=
  (s.forced_modeKept.trans (State.settled_modeKept _)).trans (State.released_modeKept _)

theorem State.begun_modeKept (s : State) : s.modeKept s.begun := by
  unfold State.begun; split
  · exact s.readied_modeKept
  · exact s.forced_modeKept

theorem State.ready_modeKept {s t : State} (h : s.ready = .ok t) : s.modeKept t := by
  unfold State.ready at h
  split at h
  · cases h
  · cases h; exact s.readied_modeKept

theorem State.issued_modeKept {s t : State} (h : s.issued = .ok t) : s.modeKept t := by
  unfold State.issued at h
  split at h
  · cases h
  · cases h; exact s.begun_modeKept

theorem State.rowReady_modeKept {s t : State} (h : s.rowReady = .ok t) : s.modeKept t := by
  unfold State.rowReady at h
  rcases hr : s.ready with e | u
  · rw [hr] at h; cases h
  · rw [hr] at h
    cases h
    exact (State.ready_modeKept hr).trans (State.serveRefs_modeKept _ _ _)

theorem SlotForm.onset_modeKept {f : SlotForm} {s t : State} (h : f.onset s = .ok t) : s.modeKept t := by
  unfold SlotForm.onset at h
  split at h
  · exact State.ready_modeKept h
  · exact State.issued_modeKept h

theorem SlotForm.start_modeKept (f : SlotForm) (i : Instr) (s : State) : s.modeKept (f.start i s) := by
  unfold SlotForm.start
  dsimp only
  split
  · exact (s.ctx.overBanks_modeKept _ _).trans (f.mend_modeKept _)
  · exact s.settled_modeKept.trans (.of_ctx ((Context.overBanks_modeKept _ _ _).trans (f.mend_modeKept _)))

theorem State.predsReady_modeKept (s : State) (ps : List NameF) : s.modeKept (s.predsReady ps) := by
  unfold State.predsReady; split
  · exact s.settled_modeKept
  · exact .of_eq rfl

theorem State.drainedIn_modeKept (s : State) (js : List Nat) : s.modeKept (s.drainedIn js) :=
  ((foldl_modeKept (fun (t : State) j => t.forceSlot s.ctx.core j) (fun t j => t.forceSlot_modeKept _ j) js s).trans
    (.of_ctx (Context.drain_lanesOnly _ _ _).banks.modeKept)).trans (State.serveRefs_modeKept _ _ _)

theorem State.drained_modeKept (s : State) : s.modeKept s.drained := s.drainedIn_modeKept _

end Sys2Proof.Machine
end

section
/-! What the state's operations on memory, copies, translations and the ends of streams leave of a stream's mode (R25, R37). -/

namespace Sys2Proof.Machine

theorem State.writeRegion_modeKept (s : State) (i o : Nat) (v : Word) : s.modeKept (s.writeRegion i o v) := by
  unfold State.writeRegion
  dsimp only
  repeat' split
  all_goals exact .of_eq rfl

theorem State.spoil_modeKept (s : State) (r : Region) : s.modeKept (s.spoil r) :=
  foldl_modeKept _ (fun t _ => t.writeLoc_modeKept _ _ _) _ s

theorem State.storeRegion_modeKept (s : State) (i o : Nat) (v : Word) : s.modeKept (s.storeRegion i o v) := by
  unfold State.storeRegion
  extract_lets t r
  have h : s.modeKept t := s.writeRegion_modeKept i o v
  by_cases hs : (s.region i).v ≠ (t.region i).v ∧ s.traffic r
  · rw [if_pos hs]; exact h.trans (t.spoil_modeKept r)
  · rw [if_neg hs]; exact h

theorem State.noteBinding_ctx (s t : State) (token : Word) : (s.noteBinding t token).ctx = t.ctx := by
  unfold State.noteBinding; split <;> rfl

theorem State.writeAsid_modeKept (s : State) (i o : Nat) (v : Word) : s.modeKept (s.writeAsid i o v) :=
  .of_eq (by unfold State.writeAsid; extract_lets e e' t; rw [State.noteBinding_ctx, State.noteBinding_ctx])

theorem ite_modeKept {p : Prop} [Decidable p] {s t u : State} (h : s.modeKept t) (k : s.modeKept u) :
    s.modeKept (if p then t else u) := by
  split
  · exact h
  · exact k

theorem State.writeControl_modeKept (s : State) (off : Nat) (v : Word) : s.modeKept (s.writeControl off v) := by
  unfold State.writeControl
  refine ite_modeKept (s.writeRegion_modeKept _ _ v) (ite_modeKept (s.writeAsid_modeKept _ _ v) (ite_modeKept (.of_eq rfl)
    (ite_modeKept ?_ (ite_modeKept (.of_eq rfl) (ite_modeKept ?_ (ite_modeKept (.of_eq rfl) (ite_modeKept (.of_eq rfl)
      (ite_modeKept (.of_eq rfl) (ite_modeKept (.of_eq rfl) (ite_modeKept (.of_eq rfl) (.of_eq rfl)))))))))))
  · exact ite_modeKept (.of_eq rfl) (ite_modeKept (.of_eq rfl) (.of_eq rfl))
  · exact ite_modeKept (.of_eq rfl) (.of_eq rfl)

theorem State.poke_modeKept (s : State) (p : BlockPoke) : s.modeKept (s.poke p) := by
  unfold State.poke; split
  · exact .of_eq rfl
  · exact s.writeCells_modeKept _ _ _

theorem State.pokeBlock_modeKept (s : State) (c : Context) (off keep set_ : Nat) : s.modeKept (s.pokeBlock c off keep set_) := by
  unfold State.pokeBlock; split
  · exact s.poke_modeKept _
  · exact .of_eq rfl

theorem State.pokePend_modeKept (s : State) (id bits : Nat) : s.modeKept (s.pokePend id bits) := by
  unfold State.pokePend; split
  · exact .of_eq rfl
  · exact s.pokeBlock_modeKept _ _ _ _

theorem State.failFold_modeKept (s : State) (id : Nat) (v : Word) : s.modeKept (s.failFold id v) := by
  unfold State.failFold; split
  · exact .of_eq rfl
  · split
    · exact (s.updCtx_modeKept id _ fun c => c.foldFails_modeKept v).trans (State.pokeBlock_modeKept _ _ _ _ _)
    · exact .of_eq rfl

theorem State.clash_modeKept (s : State) (c x : Context) (q : Nat) : s.modeKept (s.clash c x q) := by
  refine foldl_modeKept _ (fun t y => ?_) _ s
  split
  · exact t.failFold_modeKept _ _
  · split
    · exact t.updCtx_modeKept _ _ fun z h => ⟨h, rfl, rfl, rfl⟩
    · exact .of_eq rfl

/-! Copies. -/

theorem State.admitSlot_modeKept (s : State) (core n : Nat) : s.modeKept (s.admitSlot core n) := by
  unfold State.admitSlot
  extract_lets q k q1 gone s1
  split
  · exact foldl_modeKept (fun (t : State) (x : FillRecord) => t.setStack x.stack { t.stack x.stack with decomp := dropEntry (core, n) (t.stack x.stack).decomp })
      (fun t x => .of_eq rfl) gone s
  · exact .of_eq rfl

theorem State.admitReads_modeKept (s : State) (core : Nat) : s.modeKept (s.admitReads core) :=
  foldl_modeKept _ (fun t n => t.admitSlot_modeKept core n) _ s

theorem State.leaveQueues_modeKept (s : State) (gone : Nat × Nat → Bool) : s.modeKept (s.leaveQueues gone) :=
  foldl_modeKept (fun t (e : Nat × StackRec) => t.setStack e.1 { e.2 with decomp := e.2.decomp.filter fun q => !gone q })
    (fun _ _ => .of_eq rfl) _ s

theorem State.dropMurk_modeKept (s : State) : s.modeKept s.dropMurk := by
  unfold State.dropMurk; split <;> exact .of_eq rfl

theorem State.settleAhead_modeKept (s : State) (c : CopySlot) : s.modeKept (s.settleAhead c) := by
  unfold State.settleAhead
  split
  · exact .of_eq rfl
  · refine foldl_modeKept _ (fun t p => foldl_modeKept _ (fun u j => ?_) _ t) _ s
    split
    · dsimp only
      split
      · exact .of_eq rfl
      · exact u.writeLoc_modeKept _ _ _
    · exact .of_eq rfl

theorem State.cancelSlot_modeKept (s : State) (core n : Nat) : s.modeKept (s.cancelSlot core n) := by
  unfold State.cancelSlot
  extract_lets c s1 s2
  split
  · refine State.modeKept.trans (t := s2) (s.settleAhead_modeKept c) ?_
    exact (State.leaveQueues_modeKept (s2.setSlot core n _) _).trans (State.dropMurk_modeKept _)
  · exact .of_eq rfl

theorem State.freeSlots_modeKept (s : State) (core id : Nat) : s.modeKept (s.freeSlots core id) := by
  unfold State.freeSlots
  extract_lets r gone s1
  exact (s1.leaveQueues_modeKept _).trans (State.dropMurk_modeKept _)

/-! Translations. -/

theorem State.postRequest_modeKept (s : State) (asid page : Nat) : s.modeKept (s.postRequest asid page) := by
  unfold State.postRequest
  extract_lets q
  repeat' split
  all_goals exact .of_eq rfl

theorem State.fillLine_ctx (s : State) (core pa : Nat) : (s.fillLine core pa).ctx = s.ctx := by
  unfold State.fillLine
  extract_lets base line
  show ((s.reached core 0 pa).corrected (s.locOf base) 64).ctx = _
  rw [State.corrected_ctx, State.reached_ctx]

theorem State.prefetchPage_modeKept (s : State) (va len : Nat) : s.modeKept (s.prefetchPage va len) := by
  unfold State.prefetchPage
  split
  · exact .of_eq rfl
  split
  · split
    · exact s.postRequest_modeKept _ _
    · exact .of_eq rfl
  · exact .of_eq rfl
  split
  · refine foldl_modeKept _ (fun t i => ?_) _ s
    dsimp only
    split
    · exact .of_eq (t.fillLine_ctx _ _)
    · exact .of_eq rfl
  · exact .of_eq rfl

theorem State.prefetch_modeKept (n : Nat) (s : State) (va len : Nat) : s.modeKept (s.prefetch n va len) := by
  induction n generalizing s va len with
  | zero => exact .of_eq rfl
  | succ n ih =>
    unfold State.prefetch
    dsimp only
    split
    · exact .of_eq rfl
    · exact (s.prefetchPage_modeKept _ _).trans (ih _ _ _)

/-! Rows. -/

theorem State.copyRow_modeKept (s : State) (p q : Nat) : s.modeKept (s.copyRow p q) := by
  unfold State.copyRow
  split
  · exact .of_eq rfl
  · extract_lets ms s1
    exact State.modeKept.trans (t := s.corrected p 8192) (.of_eq (s.corrected_ctx _ _)) (State.writeCells_modeKept _ _ _ _)

theorem State.writeBeats_modeKept (s : State) (r : RowReg) (segs : Nat) : s.modeKept (s.writeBeats r segs) := by
  refine foldl_modeKept _ (fun t b => ?_) _ s
  split
  · exact t.writeCells_modeKept _ _ _
  · exact .of_eq rfl

theorem State.writeLatch_modeKept (s : State) (r : RowReg) (segs base : Nat) : s.modeKept (s.writeLatch r segs base) := by
  unfold State.writeLatch
  exact foldl_modeKept _ (fun t _ => t.writeBytes_modeKept _ _ _) _ s

theorem State.rowsCorrected_modeKept (s : State) (loc segs : Nat) : s.modeKept (s.rowsCorrected loc segs) :=
  foldl_modeKept _ (fun t _ => .of_eq (t.corrected_ctx _ _)) _ s

/-! Stores. -/

theorem State.sendStore_modeKept (s : State) (va : Word) (pa n v : Nat) (rel : Bool) : s.modeKept (s.sendStore va pa n v rel) := by
  unfold State.sendStore; split
  · exact .of_eq rfl
  · exact (s.writeCells_modeKept _ _ _).trans (.of_eq (State.serve_ctx _ _))

theorem State.sendPiece_modeKept (s : State) (va pa v : Nat) : s.modeKept (s.sendPiece va pa v) := by
  unfold State.sendPiece
  dsimp only
  split
  · exact .of_eq rfl
  · exact (s.writeCells_modeKept _ _ _).trans (.of_eq (State.reached_ctx _ _ _ _))

theorem State.performAt_modeKept (s : State) (k : Nat) (p : Posted) : s.modeKept (s.performAt k p) := by
  unfold State.performAt
  extract_lets s1 s2
  have h2 : s.modeKept s2 := (s1.writeCells_modeKept _ _ _).trans (.of_eq (State.reached_ctx _ _ _ _))
  split
  · split
    · exact (s1.writeBytes_modeKept _ _ _).trans (.of_eq (State.reached_ctx _ _ _ _))
    · split
      · exact h2.trans (.of_eq (State.counted_ctx _ _))
      · exact h2
  · exact .of_eq rfl

theorem State.sendWaiting_modeKept (s : State) : s.modeKept s.sendWaiting := by
  unfold State.sendWaiting; split
  · exact .of_eq rfl
  · refine foldl_modeKept _ (fun t k => ?_) _ s
    repeat' split
    all_goals exact .of_eq rfl

theorem State.storeHome_modeKept (s : State) (k : Nat) : s.modeKept (s.storeHome k) := by
  unfold State.storeHome
  split
  · exact .of_eq rfl
  split
  · exact (s.performAt_modeKept _ _).trans (State.sendWaiting_modeKept _)
  · exact .of_eq rfl

theorem State.storesHome_modeKept (n : Nat) (s : State) : s.modeKept (s.storesHome n) := by
  induction n generalizing s with
  | zero => exact .of_eq rfl
  | succ n ih =>
    unfold State.storesHome
    split
    · exact .of_eq rfl
    · exact (s.storeHome_modeKept _).trans (ih _)

/-! The end of a stream, a tier taken offline, and a stream halted with its state saved. -/

theorem State.reportDone_ctx (s : State) (seq : Nat) (lost : Bool) : (s.reportDone seq lost).ctx = s.ctx := by
  unfold State.reportDone; split <;> rfl

theorem State.endContext_modeKept (s : State) (id : Nat) (lost : Bool) : s.modeKept (s.endContext id lost) := by
  unfold State.endContext
  split
  · exact .of_eq rfl
  · next c _ =>
    extract_lets s1 s1' ended s2
    refine State.modeKept.trans (t := s2) ((s.freeSlots_modeKept c.core id).trans ?_) (.of_eq (s2.reportDone_ctx _ _))
    exact s1'.updCtx_modeKept id _ fun c => .of_notResident (d := { ended with id := c.id, place := .ended }) (by simp)

theorem State.noticeLosses_modeKept (s : State) (id t : Nat) (n : Context → Nat) :
    s.modeKept (s.updCtx id fun c => (List.range (n c)).foldl (fun c _ => c.noticeLoss t) c) :=
  s.updCtx_modeKept id _ fun d => foldl_ctxModeKept _ (fun d _ => d.noticeLoss_modeKept t) _ d

theorem State.foldl_setCore_modeKept (f : State → Nat → CoreRec) (ks : List Nat) (s : State) :
    s.modeKept (ks.foldl (fun t k => t.setCore k (f t k)) s) :=
  foldl_modeKept (fun t k => t.setCore k (f t k)) (fun _ _ => .of_eq rfl) ks s

theorem State.offlineTier_modeKept (s : State) (t : Nat) : s.modeKept (s.offlineTier t) := by
  unfold State.offlineTier
  extract_lets gone mine hit s1 s2 seqs n told s3 s4 off s5
  have h1 : s.modeKept s1 := foldl_modeKept _ (fun t c => t.failFold_modeKept _ _) _ s
  have h2 : s1.modeKept s2 := foldl_modeKept _ (fun t c => t.endContext_modeKept _ _) _ s1
  have h3 : s2.modeKept s3 := foldl_modeKept _ (fun u (c : Context) => (u.noticeLosses_modeKept c.id t n).trans (State.pokePend_modeKept _ _ 2)) _ s2
  have h4 : s3.modeKept s4 := s3.dropMurk_modeKept.trans (State.foldl_setCore_modeKept _ mine _)
  have h5 : s4.modeKept s5 := s4.leaveQueues_modeKept fun e => mine.contains e.1
  exact ite_modeKept ((((h1.trans h2).trans h3).trans h4).trans (h5.trans (.of_eq rfl))) (.of_eq rfl)
theorem State.storeControl_modeKept (s : State) (off : Nat) (v : Word) : s.modeKept (s.storeControl off v) := by
  unfold State.storeControl
  split
  · exact s.offlineTier_modeKept _
  split
  · exact s.storeRegion_modeKept _ _ _
  · exact s.writeControl_modeKept _ _

theorem State.writeBulk_modeKept (s : State) (pa k v : Nat) : s.modeKept (s.writeBulk pa k v) :=
  foldl_modeKept _ (fun t _ => t.writeCells_modeKept _ _ _) _ s

theorem State.writeMeta_modeKept (s : State) (core j k v o n : Nat) : s.modeKept (s.writeMeta core j k v o n) := by
  unfold State.writeMeta
  refine foldl_modeKept _ (fun t i => ?_) _ s
  dsimp only
  split
  · exact t.writeBytes_modeKept _ _ _
  · exact .of_eq rfl

theorem State.saveBank_modeKept (s : State) (c : Context) (k j : Nat) : s.modeKept (s.saveBank c k j) := by
  unfold State.saveBank
  extract_lets b s1 s2
  have h1 : s.modeKept s1 := foldl_modeKept _ (fun t i => by
    dsimp only
    split
    · exact .of_eq rfl
    · exact t.writeLatch_modeKept _ _ _) _ s
  have h2 : s1.modeKept s2 := foldl_modeKept _ (fun t n => by
    split
    · exact .of_eq rfl
    · exact t.writeBytes_modeKept _ _ _) _ s1
  exact (h1.trans h2).trans (foldl_modeKept _ (fun t w => t.writeMeta_modeKept _ _ _ _ _ _) _ s2)

theorem State.saveContext_modeKept (s : State) (c : Context) (place : Place) (h : place ≠ .resident) : s.modeKept (s.saveContext c place) := by
  unfold State.saveContext
  extract_lets due c1 k blk s0 s1 s2 c2
  have h0 : s.modeKept s0 := State.serveRefs_modeKept (s.setCore c1.core _) _ _
  have h1 : s0.modeKept s1 := foldl_modeKept _ (fun t j => t.saveBank_modeKept c1 k j) _ s0
  have h2 : s1.modeKept s2 := by
    dsimp only [s2]; split
    · exact .of_eq rfl
    · exact s1.writeBulk_modeKept _ _ _
  exact ((h0.trans h1).trans h2).trans (s2.updCtx_modeKept c1.id _ fun _ => .of_notResident h)

theorem State.haltNow_modeKept (s : State) (reason : Nat) : s.modeKept (s.haltNow reason) :=
  (s.emitTrace_modeKept _ _ _ _).trans (State.saveContext_modeKept _ _ _ (by simp))

end Sys2Proof.Machine
end

section
/-! A user-mode stream leaves its mode by a trap entry alone (R25, R37, R43): one lemma per shape of instruction. -/

namespace Sys2Proof.Machine

/-- What a user-mode instruction may come to: the mode kept, or a trap taken from a state that keeps it. -/
def State.confined (s t : State) : Prop :=
  s.modeKept t ∨ ∃ u cause val bank, s.modeKept u ∧ t = u.takeTrap cause val bank

/-- Every next state of an outcome is confined. -/
def State.confines (s : State) (o : Host.Outcome State Fault Refusal) : Prop := ∀ t, o = .next t → s.confined t

/-- A computation that, where it comes to a state, keeps the mode. -/
def State.keepsMode (s : State) (r : Except Stop State) : Prop := ∀ t, r = .ok t → s.modeKept t

section
variable {s : State}

theorem State.keepsMode.error (e : Stop) : s.keepsMode (.error e) := fun _ h => by cases h

theorem State.keepsMode.pure {t : State} (h : s.modeKept t) : s.keepsMode (.ok t) := fun _ e => by cases e; exact h

theorem Except.ok_of_bind {α β : Type} {x : Except Stop α} {f : α → Except Stop β} {b : β} (h : x >>= f = .ok b) :
    ∃ a, x = .ok a ∧ f a = .ok b := by
  cases x with
  | error e => cases h
  | ok a => exact ⟨a, rfl, h⟩

theorem State.keepsMode.bind {α : Type} {x : Except Stop α} {f : α → Except Stop State}
    (h : ∀ a, x = .ok a → s.keepsMode (f a)) : s.keepsMode (x >>= f) := by
  cases hx : x with
  | error e => exact .error e
  | ok a => exact h a hx

/-- A check does not change the state. -/
theorem State.keepsMode.check {α : Type} {x : Except Stop α} {r : Except Stop State} (h : s.keepsMode r) : s.keepsMode (x >>= fun _ => r) :=
  .bind fun _ _ => h

theorem State.keepsMode.ite {p : Prop} [Decidable p] {x y : Except Stop State} (h : s.keepsMode x) (k : s.keepsMode y) :
    s.keepsMode (if p then x else y) := by
  split
  · exact h
  · exact k

theorem State.keepsMode.from {t : State} {r : Except Stop State} (h : s.modeKept t) (k : t.keepsMode r) : s.keepsMode r :=
  fun u hu => h.trans (k u hu)

theorem State.keepsMode.required {p : Bool} {cause : Nat} {val : Word} {r : Except Stop State} (h : p = true → s.keepsMode r) :
    s.keepsMode (require p cause val >>= fun _ => r) := by
  cases p
  · exact .error _
  · exact h rfl

theorem State.confines.next {t : State} (h : s.modeKept t) : s.confines (.next t) := fun _ e => by cases e; exact .inl h

theorem State.confines.trap {u : State} (cause : Nat) (val : Word) (bank : Option Nat) (h : s.modeKept u) :
    s.confines (.next (u.takeTrap cause val bank)) :=
  fun _ e => by cases e; exact .inr ⟨u, cause, val, bank, h, rfl⟩

theorem State.finish_confines {u : State} {r : Except Stop State} (hu : s.modeKept u) (hr : s.keepsMode r) : s.confines (u.finish r) := by
  unfold State.finish
  split
  · next t =>
    split
    · exact .next (hr t rfl)
    · split
      · exact .next (hr t rfl)
      · exact .trap _ _ _ hu
  · exact .trap _ _ _ hu
  · exact .next (hu.trans u.hold_modeKept)

end

theorem State.modeKept.refl (s : State) : s.modeKept s := .of_eq rfl

/-- The requests that an access notes beside its checks (R75) keep the mode. -/
theorem State.asks_modeKept (s : State) (dest pa n : Nat) : s.modeKept (s.asks dest pa n) := fun h => ⟨h, rfl, rfl, rfl⟩

theorem State.asked_modeKept (s : State) (plain : Bool) (va : Word) (kind : AccessKind) (n : Nat) :
    s.modeKept (s.asked plain va kind n) := by
  unfold State.asked; split
  · exact s.asks_modeKept _ _ _
  · exact .refl s

theorem State.askDesc_modeKept (s : State) (b : Word) : s.modeKept (s.askDesc b) := fun h => ⟨h, rfl, rfl, rfl⟩

/-! The scalar class. -/

section
variable (s : State)

theorem scalarOp_confines (names : List (List NameClass × NameF)) (reads : List NameF) (ctl : List Nat) (f : Context → Context)
    (hf : s.ctx.modeKept (f s.ctx)) : s.confines (scalarOp s names reads ctl f) :=
  s.finish_confines (.refl s) (.check (.check (.pure (s.withCtx_advance_modeKept hf))))

theorem binaryOp_confines (d a b : NameF) (f : Word → Word → Word) : s.confines (binaryOp d a b s f) :=
  scalarOp_confines s _ _ _ _ (s.ctx.write_modeKept _ _)

theorem unaryOp_confines (d a : NameF) (f : Word → Word) : s.confines (unaryOp d a s f) :=
  scalarOp_confines s _ _ _ _ (s.ctx.write_modeKept _ _)

theorem ternaryOp_confines (d a b : NameF) (f : Word → Word → Word → Word) : s.confines (ternaryOp d a b s f) :=
  scalarOp_confines s _ _ _ _ (s.ctx.write_modeKept _ _)

theorem constOp_confines (d : NameF) (f : Context → Word) : s.confines (constOp d s f) :=
  scalarOp_confines s _ _ _ _ (s.ctx.write_modeKept _ _)

theorem floatOp_confines (d a : NameF) (names : List (List NameClass × NameF)) (reads : List NameF) (f : Context → Word × FpFlags) :
    s.confines (floatOp d a s names reads f) :=
  scalarOp_confines s _ _ _ _ ((s.ctx.write_modeKept _ _).trans (Context.orFlags_modeKept _ _))

theorem floatBinary_confines (op : ScalarFp) (f : Fmt) (d a b : NameF) : s.confines (floatBinary op f d a b s) :=
  floatOp_confines s _ _ _ _ _

theorem condBranch_confines (i : Instr) (cond : Cond) (a : NameF) (o : BitVec 16) : s.confines (condBranch i cond a o s) :=
  s.finish_confines (.refl s) (.check (.check (.check (.pure (ite_modeKept (s.ctx.branchTo_modeKept _) s.advance_modeKept)))))

theorem predBranch_confines (i : Instr) (all : Bool) (a : NameF) (o : BitVec 16) : s.confines (predBranch i all a o s) :=
  s.finish_confines (.refl s) (.check (.check (.check (.check (.from (s.predsReady_modeKept [a])
    (.pure (ite_modeKept (Context.branchTo_modeKept _ _) (State.advance_modeKept _))))))))

theorem fenceOp_confines (i : Instr) (constants : Bool) (c : BitVec 3) : s.confines (fenceOp i constants c s) := by
  have h : s.ctx.modeKept (if 1 ≤ c.toNat then { s.ctx with fencedAt := s.now } else s.ctx) := by
    split
    · exact fun h => ⟨h, rfl, rfl, rfl⟩
    · exact .refl _
  refine s.finish_confines (.refl s) (.check (.check (.pure (s.withCtx_advance_modeKept ?_))))
  cases constants
  · exact h
  · exact h.trans fun h => ⟨h, rfl, rfl, rfl⟩

theorem execCall_confines (d : NameF) (i : BitVec 19) : s.confines (execCall d i s) :=
  s.finish_confines (.refl s) (.check (.check (.check (.pure ((s.ctx.write_modeKept d _).trans fun h => ⟨h, rfl, rfl, rfl⟩)))))

theorem execJr_confines (a : NameF) : s.confines (execJr a s) :=
  s.finish_confines (.refl s) (.check (.check (.check (.check (.pure fun h => ⟨h, rfl, rfl, rfl⟩)))))

theorem execBr_confines (o : BitVec 16) : s.confines (execBr o s) :=
  s.finish_confines (.refl s) (.check (.pure (s.ctx.branchTo_modeKept _)))

theorem execSwin_confines (n : BitVec 5) : s.confines (execSwin n s) :=
  s.finish_confines (.refl s) (.check (.check (.pure (s.withCtx_advance_modeKept
    ((s.ctx.mend_modeKept [0x02]).trans fun h => ⟨h, rfl, rfl, rfl⟩)))))

theorem execLoop_confines (a : NameF) (l : BitVec 11) : s.confines (execLoop a l s) := by
  refine s.finish_confines (.refl s) (.check (.check (.check (.pure ?_))))
  refine .of_ctx ?_
  dsimp only [State.withCtx_ctx]
  split <;> simp only [Context.mend_eq] <;> exact fun h => ⟨h, rfl, rfl, rfl⟩

theorem execSloop_confines (d a : NameF) (l : BitVec 11) : s.confines (execSloop d a l s) := by
  refine s.finish_confines (.refl s) (.check (.check (.check (.pure ?_))))
  refine ite_modeKept (.of_ctx ?_) (.trans (.of_ctx ?_) (State.stripStarted_modeKept _))
  · simp only [Context.mend_eq]
    exact fun h => ⟨h, rfl, rfl, rfl⟩
  · simp only [Context.grant, Context.mend_eq]
    exact fun h => ⟨h, rfl, rfl, rfl⟩

theorem execTrap_confines (c : BitVec 7) : s.confines (execTrap c s) := s.finish_confines (.refl s) (.error _)

theorem execTrace_confines (a : NameF) : s.confines (execTrace a s) :=
  s.finish_confines (.refl s) (.check (.check (.pure ((s.emitTrace_modeKept _ _ _ _).trans (State.advance_modeKept _)))))

theorem execYield_confines : s.confines (execYield s) :=
  s.finish_confines (.refl s) (.pure (s.withCtx_advance_modeKept fun h => ⟨h, rfl, rfl, rfl⟩))

theorem execNop_confines : s.confines (execNop s) := s.finish_confines (.refl s) (.pure s.advance_modeKept)

theorem execBrk_confines : s.confines (execBrk s) := by
  unfold execBrk
  split
  · exact .next (ite_modeKept s.hold_modeKept (s.haltNow_modeKept 4))
  · exact s.finish_confines (.refl s) (.error _)

theorem State.leaveHalf_modeKept (b : Sibling) : s.modeKept (s.leaveHalf b) := by
  have h := s.advance_modeKept.trans (.of_ctx (t := s.advance.withCtx (s.advance.ctx.exitHalf b)) (s.advance.ctx.exitHalf_modeKept b))
  exact ite_modeKept (h.trans (State.advance_modeKept _)) h

theorem execExit_confines : s.confines (execExit s) := by
  refine s.finish_confines (.refl s) (.from (s.drainedIn_modeKept (bankList s.ctx.gmBanks)) ?_)
  generalize s.drainedIn (bankList s.ctx.gmBanks) = s1
  dsimp only
  split
  · exact .check (.pure (s1.leaveHalf_modeKept _))
  · have h2 : s1.modeKept ((s1.ownedSlots s1.ctx.core s1.ctx.id).foldl (fun s n => s.cancelSlot s1.ctx.core n) s1) :=
      foldl_modeKept _ (fun t n => t.cancelSlot_modeKept _ _) _ s1
    generalize (s1.ownedSlots s1.ctx.core s1.ctx.id).foldl (fun s n => s.cancelSlot s1.ctx.core n) s1 = s2 at h2 ⊢
    have h3 : s1.modeKept (if s2.postedBy s1.ctx.id then s2.storesHome s2.posted.length else s2) :=
      h2.trans (ite_modeKept (State.storesHome_modeKept _ _) (.refl _))
    exact .check (.check (.check (.ite (.pure (h3.trans (State.hold_modeKept _)))
      (.check (.pure (h3.trans (State.endContext_modeKept _ _ _)))))))

theorem execMfc_confines (d : NameF) (x : BitVec 7) : s.confines (execMfc d x s) := by
  refine s.finish_confines (.refl s) (.check (.check (.check (.check (.check (.pure ?_))))))
  have h1 : s.modeKept (if ctlDrains x.toNat then s.drained else s) := ite_modeKept s.drained_modeKept (.refl s)
  exact (h1.trans (ite_modeKept (State.tick_modeKept _) (.refl _))).trans
    (State.withCtx_advance_modeKept _ (Context.write_modeKept _ _ _))

/-! The control registers of the supervisor, ERET and TLBINV trap in user mode (R25, R227, R228). -/

theorem execMtc_confines (a : NameF) (x : BitVec 7) (hu : s.ctx.sup = false) : s.confines (execMtc a x s) := by
  refine s.finish_confines (.refl s) (.check (.check (.check (.required fun hw => .check (.check (.pure ?_))))))
  rw [hu] at hw
  have h1 : s.modeKept (if x.toNat = 0x01 then s.drained else s) := ite_modeKept s.drained_modeKept (.refl s)
  exact h1.trans (State.withCtx_advance_modeKept _ ((Context.setCtl_modeKept _ _ _ hw).trans fun h => ⟨h, rfl, rfl, rfl⟩))

theorem execEret_confines (hu : s.ctx.sup = false) : s.confines (execEret s) :=
  s.finish_confines (.refl s) (.check (.required fun h => by rw [hu] at h; cases h))

theorem invalidation_confines (i : Instr) (names : List (List NameClass × NameF)) (reads : List NameF) (sel : Option InvSel)
    (hu : s.ctx.sup = false) : s.confines (invalidation i names reads s sel) :=
  State.finish_confines (u := s.withCtx { s.ctx with inv := true }) (fun h => ⟨h, rfl, rfl, rfl⟩)
    (.check (.required fun h => by rw [hu] at h; cases h))

/-! Memory. -/

theorem State.fetchData_modeKept {s : State} {va : Word} {pa n : Nat} {r : Nat × State} (h : s.fetchData va pa n = .ok r) :
    s.modeKept r.2 := by
  obtain ⟨v, -, h⟩ := Except.ok_of_bind h
  cases h
  exact .of_eq (by rw [State.corrected_ctx, State.serve_ctx])

theorem State.loadData_modeKept {s : State} {plain : Bool} {va : Word} {n : Nat} {r : Nat × State}
    (h : s.loadData plain va n = .ok r) : s.modeKept r.2 := by
  obtain ⟨⟨pa, e⟩, -, h⟩ := Except.ok_of_bind h
  dsimp only at h
  split at h
  · obtain ⟨_, -, h⟩ := Except.ok_of_bind h
    cases h
    exact .refl s
  · exact State.fetchData_modeKept h

theorem State.storeData_modeKept {s t : State} {plain : Bool} {va : Word} {n v : Nat} {rel : Bool}
    (h : s.storeData plain va n v rel = .ok t) : s.modeKept t := by
  obtain ⟨⟨pa, e⟩, -, h⟩ := Except.ok_of_bind h
  obtain ⟨_, -, h⟩ := Except.ok_of_bind h
  split at h
  · cases h; exact s.storeControl_modeKept _ _
  · cases h; exact s.sendStore_modeKept _ _ _ _ _

/-- A value read in a state that keeps the mode is written to a scalar, and the stream goes on. -/
theorem State.modeKept.writeOn {s t : State} (h : s.modeKept t) (d : NameF) (v : Word) :
    s.modeKept (t.withCtx (t.ctx.write d v)).advance :=
  h.trans (t.withCtx_advance_modeKept (t.ctx.write_modeKept d v))

theorem loadOp_confines (i : Instr) (plain : Bool) (d a : NameF) (f : BitVec 3) (imm : BitVec 9) :
    s.confines (loadOp i plain d a f imm s) :=
  State.finish_confines (s.asked_modeKept _ _ _ _)
    (.check (.check (.bind fun ⟨_, _⟩ h => .check (.pure ((State.loadData_modeKept h).writeOn d _)))))

theorem storeOp_confines (rel : Bool) (d a : NameF) (f : BitVec 2) (imm : BitVec 9) : s.confines (storeOp rel d a f imm s) :=
  State.finish_confines (s.asked_modeKept _ _ _ _)
    (.check (.bind fun _ h => .check (.pure ((State.storeData_modeKept h).trans (State.advance_modeKept _)))))

theorem atomicOp_confines (i : Instr) (op : AtomicOp) (names : List (List NameClass × NameF)) (d a : NameF) (w32 : Bool)
    (o : BitVec 2) (c : BitVec 3) : s.confines (atomicOp i op names d a w32 o c s) :=
  State.finish_confines (ite_modeKept (.refl s) (s.asked_modeKept _ _ _ _))
    (.check (.check (.bind fun ⟨_, _⟩ _ => .check (.check (.check (.bind fun ⟨_, _⟩ h => .check (.pure
      (((State.fetchData_modeKept h).trans (State.writeCells_modeKept _ _ _ _)).writeOn d _))))))))

theorem execClaim_confines (d a b : NameF) : s.confines (execClaim d a b s) := by
  refine State.finish_confines (s.asked_modeKept _ _ _ _) (.check (.bind fun ⟨_, _⟩ _ => .check (.check
    (.bind fun ⟨_, _⟩ h => .check (.pure (((State.fetchData_modeKept h).trans (State.writeCells_modeKept _ _ _ _)).trans
      (State.withCtx_advance_modeKept _ ?_)))))))
  exact .ite (Context.write_modeKept _ _ _) ((Context.write_modeKept _ d _).trans fun h => ⟨h, rfl, rfl, rfl⟩)

theorem execLdc_confines (d a : NameF) (i : BitVec 10) : s.confines (execLdc d a i s) := by
  refine State.finish_confines ?_ (.check (.bind fun ⟨pa, e⟩ _ => ?_))
  · split
    · exact s.asks_modeKept _ _ _
    · exact .refl s
  · dsimp only
    split
    · exact .check (.check (.pure ((State.modeKept.refl s).writeOn d _)))
    · refine .bind fun v _ => .check (.pure (State.modeKept.writeOn (ite_modeKept (.of_eq (s.fillLine_ctx _ _)) (.of_eq ?_)) d _))
      rw [State.corrected_ctx, State.reached_ctx]

theorem execPfetch_confines (d a : NameF) (i : BitVec 10) : s.confines (execPfetch d a i s) :=
  s.finish_confines (.refl s) (.check (.check (.pure ((State.prefetch_modeKept _ s _ _).trans (State.advance_modeKept _)))))

theorem State.watchWord_modeKept (core loc : Nat) : s.modeKept (s.watchWord core loc) := by
  unfold State.watchWord; exact ite_modeKept (.of_eq rfl) (.refl s)

theorem waitwRead_modeKept {d a : NameF} {s : State} {r : Word × Nat × State} (h : waitwRead d a s = .ok r) : s.modeKept r.2.2 := by
  obtain ⟨_, -, h⟩ := Except.ok_of_bind h
  obtain ⟨⟨pa, e⟩, -, h⟩ := Except.ok_of_bind h
  obtain ⟨⟨n, s1⟩, hf, h⟩ := Except.ok_of_bind h
  obtain ⟨_, -, h⟩ := Except.ok_of_bind h
  cases h
  exact State.fetchData_modeKept (r := (n, s1)) hf

theorem waitwOp_confines (d a : NameF) (ok : Word → Word → Bool) : s.confines (waitwOp d a s ok) := by
  unfold waitwOp
  split
  · exact State.finish_confines (s.asked_modeKept _ _ _ _) (.error _)
  · next v loc t h =>
    have ht : s.modeKept t := waitwRead_modeKept h
    split
    · exact s.finish_confines (.refl s) (.pure (ht.writeOn d v))
    · exact .next ((ht.trans (.of_ctx fun h => ⟨h, rfl, rfl, rfl⟩)).trans (State.watchWord_modeKept _ _ _))

end

end Sys2Proof.Machine
end

section
/-! User mode is left by a trap entry alone: the instructions of the lanes, the gang, the rows, the matrix slice and the copies, and O60. -/

namespace Sys2Proof.Machine

section
variable (s : State)

/-! Shapes that begin by waiting for the work before them. -/

theorem State.keepsMode.ready {s : State} {f : State → Except Stop State} (h : ∀ t, s.modeKept t → t.keepsMode (f t)) :
    s.keepsMode (s.ready >>= f) :=
  .bind fun t ht => .from (State.ready_modeKept ht) (h t (State.ready_modeKept ht))

theorem State.keepsMode.issued {s : State} {f : State → Except Stop State} (h : ∀ t, s.modeKept t → t.keepsMode (f t)) :
    s.keepsMode (s.issued >>= f) :=
  .bind fun t ht => .from (State.issued_modeKept ht) (h t (State.issued_modeKept ht))

theorem State.keepsMode.rowReady {s : State} {f : State → Except Stop State} (h : ∀ t, s.modeKept t → t.keepsMode (f t)) :
    s.keepsMode (s.rowReady >>= f) :=
  .bind fun t ht => .from (State.rowReady_modeKept ht) (h t (State.rowReady_modeKept ht))

theorem slotOp_confines (i : Instr) (names : List (List NameClass × NameF)) (reads : List NameF)
    (check : State → Nat → List (Nat × Word)) : s.confines (slotOp i names reads check s) := by
  unfold slotOp
  split
  · exact s.finish_confines (.refl s) (.error _)
  · next f _ =>
    exact s.finish_confines (.refl s) (.check (.bind fun t ht => .from (SlotForm.onset_modeKept ht)
      (.check (.check (.check (.check (.pure ((f.start_modeKept i t).trans (State.advance_modeKept _)))))))))

theorem laneOp_confines (i : Instr) (names : List (List NameClass × NameF)) : s.confines (laneOp i names s) := by
  unfold laneOp
  split
  · exact s.finish_confines (.refl s) (.error _)
  · exact slotOp_confines s _ _ _ _

theorem cmpOp_confines (i : Instr) (f : LaneForm) (d a b : NameF) : s.confines (cmpOp i f d a b s) := slotOp_confines s _ _ _ _

theorem slideOp_confines (i : Instr) (d a b : NameF) : s.confines (slideOp i d a b s) := slotOp_confines s _ _ _ _

theorem gangMove_confines (i : Instr) (d a b : NameF) (cls : List NameClass) : s.confines (gangMove i d a b cls s) :=
  slotOp_confines s _ _ _ _

theorem execGred_confines (la : Bool) (d a : NameF) (x : BitVec 7) : s.confines (execGred la d a x s) := slotOp_confines s _ _ _ _

theorem cvtOp_confines (i : Instr) (d a : NameF) : s.confines (cvtOp i d a s) := by
  unfold cvtOp
  split
  · exact laneOp_confines s _ _
  · exact s.finish_confines (.refl s) (.error _)

theorem bankOp_confines (names : List (List NameClass × NameF)) (reads : List NameF) (check : State → Nat → List (Nat × Word))
    (touch : State → Nat → List Nat × List Nat) (effect : State → Context) (h : ∀ t : State, t.ctx.modeKept (effect t)) :
    s.confines (bankOp s names reads check touch effect) :=
  s.finish_confines (.refl s) (.check (.ready fun t _ => .check (.check (.pure (t.withCtx_advance_modeKept (h t))))))

theorem predOp_confines (d : NameF) (names : List (List NameClass × NameF)) (ps reads : List NameF) (f : Context → Bank → Nat) :
    s.confines (predOp d names ps reads s f) :=
  bankOp_confines s _ _ _ _ _ fun _ => (Context.overBanks_modeKept _ _ _).trans (Context.mendPred_modeKept _ _ _)

theorem predCount_confines (d a : NameF) (f : Context → Word) : s.confines (predCount d a s f) :=
  bankOp_confines s _ _ _ _ _ fun _ => Context.write_modeKept _ _ _

theorem execPmovs_confines (d a b : NameF) : s.confines (execPmovs d a b s) := by
  unfold execPmovs
  split
  · exact bankOp_confines s _ _ _ _ _ fun _ => (Context.overBanks_modeKept _ _ _).trans (Context.mendPred_modeKept _ _ _)
  · exact bankOp_confines s _ _ _ _ _ fun _ => Context.write_modeKept _ _ _
  · exact bankOp_confines s _ _ _ _ _ fun _ => Context.write_modeKept _ _ _
  · exact s.finish_confines (.refl s) (.error _)

/-! The shape, the window of the gang, and refresh. -/

theorem setShape_modeKept (r n : Nat) : s.modeKept (setShape s r n) := by
  unfold setShape
  extract_lets m s1
  have h : s.modeKept s1 := .of_ctx ((s.ctx.mend_modeKept [0x04]).trans fun h => ⟨h, rfl, rfl, rfl⟩)
  exact (h.trans (State.emitTrace_modeKept _ _ _ _ _)).trans (State.advance_modeKept _)

theorem refOp_modeKept (n : Nat) : s.modeKept (refOp s n) := by
  unfold refOp
  extract_lets c ask s1
  have h : s.modeKept s1 := ite_modeKept (.refl s) (.of_eq rfl)
  exact (h.trans (ite_modeKept (State.serveRefs_modeKept _ _ _) (.refl _))).trans (State.advance_modeKept _)

theorem execVcfg_confines (x : BitVec 2) : s.confines (execVcfg x s) :=
  s.finish_confines (.refl s) (.check (.rowReady fun t _ => .check (.check (.pure (t.withCtx_advance_modeKept
    ((t.ctx.mend_modeKept [0x03]).trans fun h => ⟨h, rfl, rfl, rfl⟩))))))

theorem execVshapeImm_confines (j i : BitVec 4) : s.confines (execVshapeImm j i s) :=
  s.finish_confines (.refl s) (.check (.issued fun t _ => .pure (setShape_modeKept t _ _)))

theorem execVshape_confines (a b : NameF) : s.confines (execVshape a b s) :=
  s.finish_confines (.refl s) (.check (.issued fun t _ => .check (.check (.check (.pure (setShape_modeKept t _ _))))))

theorem execRefImm_confines (n : BitVec 4) : s.confines (execRefImm n s) :=
  s.finish_confines (.refl s) (.check (.issued fun t _ => .check (.pure (refOp_modeKept t _))))

theorem execRefScalar_confines (a : NameF) : s.confines (execRefScalar a s) :=
  s.finish_confines (.refl s) (.check (.issued fun t _ => .check (.pure (refOp_modeKept t _))))

theorem execGbar_confines : s.confines (execGbar s) :=
  s.finish_confines (.refl s) (.issued fun t _ => .check (.pure (t.withCtx_advance_modeKept fun h => ⟨h, rfl, rfl, rfl⟩)))

theorem execGsync_confines : s.confines (execGsync s) :=
  s.finish_confines (.refl s) (.ready fun t _ => .check (.check (.check (.pure
    ((t.serveRefs_modeKept _ _).trans (State.advance_modeKept _))))))

theorem execGsplit_confines (a b : NameF) : s.confines (execGsplit a b s) := by
  refine s.finish_confines (.refl s) (.check (.check (.check (.issued fun t _ => .from (t.predsReady_modeKept [a]) (.check ?_)))))
  generalize t.predsReady [a] = u
  exact .ite (.pure u.advance_modeKept) (.ite (.pure fun h => ⟨h, rfl, rfl, rfl⟩) (.pure fun h => ⟨h, rfl, rfl, rfl⟩))

theorem execGjoin_confines : s.confines (execGjoin s) := by
  refine s.finish_confines (.refl s) (.issued fun t _ => .check ?_)
  dsimp only
  split
  · exact .pure (t.withCtx_advance_modeKept fun h => ⟨h, rfl, rfl, rfl⟩)
  · next b _ =>
    refine .ite (.check (.pure (t.withCtx_advance_modeKept ?_))) (.check (.pure (.of_ctx ?_)))
    · exact (t.ctx.mend_modeKept [0x0E, 0x1F]).trans fun h => ⟨h, rfl, rfl, rfl⟩
    · exact t.ctx.swap_modeKept.trans fun h => ⟨h, rfl, rfl, rfl⟩

/-! Rows. -/

theorem execWb_confines (d : NameF) : s.confines (execWb d s) := by
  refine s.finish_confines (.refl s) (.check (.rowReady fun t _ => .check (.check (.pure ?_))))
  exact (foldl_modeKept _ (fun u _ => u.writeBeats_modeKept _ _) _ t).trans
    (State.withCtx_advance_modeKept _ (Context.setRows_modeKept _ _ _))

theorem execPre_confines (d : NameF) : s.confines (execPre d s) :=
  s.finish_confines (.refl s) (.check (.check (.ready fun t _ => .check (.pure
    (t.withCtx_advance_modeKept (Context.setRows_modeKept _ _ _))))))

theorem execRcopy_confines (d a : NameF) : s.confines (execRcopy d a s) :=
  s.finish_confines (.refl s) (.check (.rowReady fun t _ => .check (.check (.check (.pure
    ((foldl_modeKept _ (fun u _ => u.copyRow_modeKept _ _) _ t).trans (State.advance_modeKept _)))))))

theorem execTag_confines (d : NameF) (x : BitVec 4) : s.confines (execTag d x s) :=
  s.finish_confines (.refl s) (.check (.ready fun t _ => .check (.check (.pure (t.withCtx_advance_modeKept
    (foldl_ctxModeKept _ (fun c _ => c.setBank_modeKept _ _) _ t.ctx))))))

theorem execSaverow_confines (d a b : NameF) : s.confines (execSaverow d a b s) := by
  refine s.finish_confines (.refl s) (.check (.rowReady fun t _ => .check (.check (.check (.pure ?_)))))
  refine State.modeKept.trans (.trans ?_ (foldl_modeKept _ (fun u _ => foldl_modeKept _ (fun v i => v.sendPiece_modeKept _ _ _) _ u) _ _))
    (State.advance_modeKept _)
  refine foldl_modeKept _ (fun u j => ?_) _ t
  split
  · exact u.writeLatch_modeKept _ _ _
  · exact .refl u

theorem execLoadrow_confines (d a b : NameF) : s.confines (execLoadrow d a b s) :=
  State.finish_confines (s.askDesc_modeKept _) (.check (.rowReady fun t _ => .check (.check (.check (.check (.check (.check
    (.pure (.goOn (t.ctx.setRows_modeKept _ _) _)))))))))

theorem actOp_confines (zero : Bool) (d a : NameF) (x : BitVec 4) : s.confines (actOp zero d a x s) :=
  s.finish_confines (.refl s) (.check (.rowReady fun t _ => .check (.check (.check (.check (.pure
    (.goOn (t.ctx.setRows_modeKept _ _) _)))))))

/-! The matrix slice. -/

theorem execMshape_confines (d a : NameF) : s.confines (execMshape d a s) := by
  have hw : ∀ (t : State) g v, t.ctx.modeKept (Context.write { t.ctx with mg := g, mseq := 0, doomQ := none } d v) :=
    fun t g v => .trans (d := { t.ctx with mg := g, mseq := 0, doomQ := none }) (fun h => ⟨h, rfl, rfl, rfl⟩) (Context.write_modeKept _ _ _)
  exact s.finish_confines (.refl s) (.check (.ready fun t _ => .check (.check (.check (.ite (.pure (.goOn (hw t _ _) _))
    (.check (.pure (.goOn (hw t _ _) _))))))))

theorem execMzero_confines (d : NameF) : s.confines (execMzero d s) :=
  s.finish_confines (.refl s) (.check (.ready fun t _ => .check (.check (.pure (t.withCtx_advance_modeKept
    (t.ctx.setBank_modeKept _ _))))))

/-- A fold fault that the member takes (R269) keeps the mode up to its trap. -/
theorem State.takeFoldFault_confines {s t : State} (h : s.modeKept t) (v : Word) : s.confines (.next (t.takeFoldFault v)) :=
  .trap _ _ _ (h.trans (.of_ctx fun h => ⟨h, rfl, rfl, rfl⟩))

theorem execMwait_confines : s.confines (execMwait s) := by
  unfold execMwait
  split
  · exact s.finish_confines (.refl s) (.error _)
  · next t h =>
    have ht := State.ready_modeKept h
    split
    · exact State.takeFoldFault_confines ht _
    · exact s.finish_confines (.refl s) (.check (.pure (ht.trans t.advance_modeKept)))

theorem execMstat_confines (d a : NameF) : s.confines (execMstat d a s) := by
  unfold execMstat
  extract_lets n checks
  have hc : s.keepsMode checks :=
    .check (.check (.check (.ite (fun _ h => State.ready_modeKept h) (fun _ h => State.issued_modeKept h))))
  clear_value checks
  cases checks with
  | error e => exact s.finish_confines (.refl s) (.error _)
  | ok t =>
    have ht := hc t rfl
    dsimp only
    split
    · exact State.takeFoldFault_confines ht _
    · exact s.finish_confines (.refl s) (.check (.pure (ht.writeOn d _)))

theorem mmfOp_confines (i : Instr) (strict la lb : Bool) (d a b : NameF) : s.confines (mmfOp i strict la lb d a b s) := by
  unfold mmfOp
  extract_lets checks
  have hc : s.keepsMode checks := .check (.check (.ready fun t _ => .check (.pure (.refl t))))
  clear_value checks
  cases checks with
  | error e => exact s.finish_confines (.refl s) (.error _)
  | ok t =>
    have ht := hc t rfl
    dsimp only
    split
    · exact s.finish_confines (.refl s) (.error _)
    · split
      · exact State.takeFoldFault_confines ht _
      · refine s.finish_confines (.refl s) (.check (.pure (ht.trans (State.modeKept.trans ?_ (State.advance_modeKept _)))))
        split
        · exact State.modeKept.trans (.of_ctx fun h => ⟨h, rfl, rfl, rfl⟩) (State.clash_modeKept _ _ _ _)
        · exact fun h => ⟨h, rfl, rfl, rfl⟩

/-! Copies. -/

theorem State.waitDetents_modeKept (ticket : Nat) (ks : List Nat) : s.modeKept (s.waitDetents ticket ks) :=
  State.modeKept.trans (.of_ctx fun h => ⟨h, rfl, rfl, rfl⟩) (State.hold_modeKept _)

theorem execCset_confines (a : NameF) (x : BitVec 7) : s.confines (execCset a x s) :=
  s.finish_confines (.refl s) (.check (.check (.issued fun t _ => .check (.check (.pure (t.withCtx_advance_modeKept
    fun h => ⟨h, rfl, rfl, rfl⟩))))))

theorem execCgo_confines (d : NameF) : s.confines (execCgo d s) := by
  refine s.finish_confines (.refl s) (.check (.issued fun t _ => .check (.check (.check (.check ?_)))))
  split
  · exact .error _
  · refine .check (.check (.bind fun pages _ => .check (.check (.check ?_))))
    split
    · exact .error _
    · refine .ite (.pure (.goOn (t.ctx.write_modeKept _ _) _)) (.pure ?_)
      exact State.waitDetents_modeKept { t with ticket := _ } _ _

theorem execCwait_confines (d a : NameF) : s.confines (execCwait d a s) :=
  s.finish_confines (.refl s) (.check (.issued fun t _ => .bind fun _ _ => .check (.check (.check (.pure
    (.goOn (t.ctx.write_modeKept _ _) _))))))

theorem execCstat_confines (d a : NameF) : s.confines (execCstat d a s) :=
  s.finish_confines (.refl s) (.check (.issued fun t _ => .bind fun _ _ => .check (.pure ((State.modeKept.refl t).writeOn d _))))

theorem execCcancel_confines (a : NameF) : s.confines (execCcancel a s) :=
  s.finish_confines (.refl s) (.check (.issued fun t _ => .bind fun n _ => .check (.ite
    (.check (.pure ((t.cancelSlot_modeKept _ n).trans (State.withCtx_advance_modeKept _ (Context.withdraw_modeKept _ n)))))
    (.pure t.advance_modeKept))))

theorem execCresume_confines (a : NameF) : s.confines (execCresume a s) :=
  s.finish_confines (.refl s) (.check (.issued fun t _ => .bind fun _ _ => .ite (.bind fun _ _ => .check
    (.ite (.pure (.goOn (Context.withdraw_modeKept _ _) _)) (.pure (t.waitDetents_modeKept _ _)))) (.check (.pure t.advance_modeKept))))
/-- Every encoded instruction of a user-mode stream keeps the mode, or takes a trap from a state that keeps it. -/
theorem exec_confines (i : Instr) (hw : isWord i = true) (hu : s.ctx.sup = false) : s.confines (exec i s) := by
  cases i
  all_goals dsimp only [exec]
  case add | sub | and | or | xor | andn | shl | shr | sar | rol | mul | mulhs | mulhn | divs | divn | rems | remn | mins | maxs |
    minn | maxn | seq | sne | slts | sltn | sles | slen | bfx => exact binaryOp_confines s _ _ _ _
  case clz | ctz | popc | bswap | extsX8 | extsX16 | extsX32 | extzN8 | extzN16 | extzN32 | fclass | addi | andi | ori | xori | shli
    | shri | sari | sltsi | sltni => exact unaryOp_confines s _ _ _
  case sel | bfi => exact ternaryOp_confines s _ _ _ _
  case faddS | fsubS | fmulS | fdivS | fminS | fmaxS | fcmpS | ffmaS | faddD | fsubD | fmulD | fdivD | fminD | fmaxD | fcmpD | ffmaD
    => exact floatBinary_confines s _ _ _ _ _
  case fsqrt | frsqe | frcpe | fcvt => exact floatOp_confines s _ _ _ _ _
  case movi | lui | addpc => exact constOp_confines s _ _
  case call => exact execCall_confines s _ _
  case bEqz | bNez | bLtz | bGez | bGtz | bLez => exact condBranch_confines s _ _ _ _
  case bAny | bAll => exact predBranch_confines s _ _ _ _
  case br => exact execBr_confines s _
  case loop => exact execLoop_confines s _ _
  case sloop => exact execSloop_confines s _ _ _
  case swin => exact execSwin_confines s _
  case vcfg => exact execVcfg_confines s _
  case vshapeImm => exact execVshapeImm_confines s _ _
  case act | actz => exact actOp_confines s _ _ _ _
  case refImm => exact execRefImm_confines s _
  case ld | ldAcq => exact loadOp_confines s _ _ _ _ _ _
  case st | stRel => exact storeOp_confines s _ _ _ _ _
  case ldc => exact execLdc_confines s _ _ _
  case pfetch => exact execPfetch_confines s _ _ _
  case vadd | vsub | vmul | vfma | vfms | vfnma | vabs | vneg | vand | vor | vxor | vandn | vshl | vshr | vsar | vsel | vmin | vminX
    | vminN | vmax | vmaxX | vmaxN | vmulw | vmulwX | vmulwN | vrsqe | vrcpe | vexp2e | viota | vbcast | vclr | vcopy | vscl =>
    exact laneOp_confines s _ _
  case vmerge | vins | vperm | vred => exact slotOp_confines s _ _ _ _
  case vext => exact bankOp_confines s _ _ _ _ _ fun _ => (Context.overBanks_modeKept _ _ _).trans (Context.write_modeKept _ _ _)
  case vslideUp | vslideDn => exact slideOp_confines s _ _ _ _
  case vshape => exact execVshape_confines s _ _
  case pmovs => exact execPmovs_confines s _ _ _
  case vcmpEq | vcmpNe | vcmpLt | vcmpLe | vcmpUn | vcmpLtX | vcmpLeX | vcmpLtN | vcmpLeN => exact cmpOp_confines s _ _ _ _ _
  case vcvt | vcvtX | vcvtN => exact cvtOp_confines s _ _ _
  case pand | por | pxor | pandn | pnot | pset => exact predOp_confines s _ _ _ _ _
  case pcnt | pfirst => exact predCount_confines s _ _ _
  case shuf | shufx | gbcast => exact gangMove_confines s _ _ _ _ _
  case gbar => exact execGbar_confines s
  case gsplit => exact execGsplit_confines s _ _
  case gjoin => exact execGjoin_confines s
  case gsync => exact execGsync_confines s
  case gred => exact execGred_confines s _ _ _ _
  case wb => exact execWb_confines s _
  case pre => exact execPre_confines s _
  case rcopy => exact execRcopy_confines s _ _
  case tag => exact execTag_confines s _ _
  case saverow => exact execSaverow_confines s _ _ _
  case loadrow => exact execLoadrow_confines s _ _ _
  case refScalar => exact execRefScalar_confines s _
  case mshape => exact execMshape_confines s _ _
  case mzero => exact execMzero_confines s _
  case mmf | mmfO => exact mmfOp_confines s _ _ _ _ _ _ _
  case mwait => exact execMwait_confines s
  case mstat => exact execMstat_confines s _ _
  case cset => exact execCset_confines s _ _
  case cgo => exact execCgo_confines s _
  case cwait => exact execCwait_confines s _ _
  case cstat => exact execCstat_confines s _ _
  case ccancel => exact execCcancel_confines s _
  case cresume => exact execCresume_confines s _
  case aadd | ainc | amins | amaxs | aminn | amaxn | aand | aor | axor | axchg | acas => exact atomicOp_confines s _ _ _ _ _ _ _ _
  case fence | fenceC => exact fenceOp_confines s _ _ _
  case claim => exact execClaim_confines s _ _ _
  case mfc => exact execMfc_confines s _ _
  case mtc => exact execMtc_confines s _ _ hu
  case trap => exact execTrap_confines s _
  case eret => exact execEret_confines s hu
  case tlbinvVa | tlbinvTok | tlbinvAll => exact invalidation_confines s _ _ _ _ hu
  case trace => exact execTrace_confines s _
  case jr => exact execJr_confines s _
  case exit => exact execExit_confines s
  case yield => exact execYield_confines s
  case nop => exact execNop_confines s
  case brk => exact execBrk_confines s
  case waitwEq | waitwNe | waitwGe => exact waitwOp_confines s _ _ _
  all_goals cases hw

end

/-- A stop of the lanes and of a member of the gang's fold keeps the mode. -/
theorem Context.stopFold_modeKept (c : Context) (trap : Bool) : c.modeKept (c.stopFold trap) := by
  unfold Context.stopFold
  split
  · exact .refl c
  · exact .ite (.refl c) ((c.mend_modeKept [0x13]).trans fun h => ⟨h, rfl, rfl, rfl⟩)

/-- Where a trap taken in user mode leaves the stream resident, supervisor mode is come to only at TVEC, with the user mode saved (R43). -/
theorem State.takeTrap_entered (s : State) (cause : Nat) (val : Word) (bank : Option Nat)
    (hr : (s.takeTrap cause val bank).ctx.place = .resident) :
    s.ctx.place = .resident ∧ (s.takeTrap cause val bank).ctx.tvec = s.ctx.tvec ∧ (s.takeTrap cause val bank).ctx.tscr = s.ctx.tscr ∧
    (s.ctx.sup = false → (s.takeTrap cause val bank).ctx.sup = true →
      (s.takeTrap cause val bank).ctx.pc = s.ctx.tvec.setWidth 64 ∧ (s.takeTrap cause val bank).ctx.ad = true ∧
      (s.takeTrap cause val bank).ctx.tstat.getLsbD 0 = false) := by
  unfold State.takeTrap at hr ⊢
  extract_lets c c1 at hr ⊢
  split at hr
  · next hd =>
    rw [if_pos hd]
    obtain ⟨hp, hs, ht, hc⟩ := ite_modeKept s.hold_modeKept (s.haltNow_modeKept 5) hr
    exact ⟨hp, ht, hc, fun hu h => absurd (hs.symm.trans h) (by simp [hu])⟩
  · next hd =>
    rw [if_neg hd]
    have h1 : c.modeKept c1 := (c.stopLanes_banksOnly s.now).modeKept.trans (Context.stopFold_modeKept _ true)
    generalize hb : bank.getD (lowBank c.gmBanks) = b at hr ⊢
    obtain ⟨_, _, _, _, hw⟩ := (s.withCtx (c1.enter cause val b)).emitTrace_woken 3 cause (c.pc.toNat % 2 ^ 56) val.toNat
    rw [hw] at hr ⊢
    simp only [State.withCtx_ctx, Context.enter, Context.mend_eq] at hr ⊢
    obtain ⟨hp, hs, ht, hc⟩ := h1 hr
    refine ⟨hp, ht, hc, fun hu _ => ⟨by rw [ht], trivial, ?_⟩⟩
    rw [hs, show c.sup = false from hu]
    have hbit : ∀ a r : Bool, (BitVec.ofNat 3 (boolNat false + 2 * boolNat a + 4 * boolNat r)).getLsbD 0 = false := by decide
    exact hbit _ _

/-- Settles O60: an instruction keeps the mode or takes a trap, and the trap entry alone sets STATUS.SUP. -/
theorem userModeConfined : Obligations.UserModeConfined := by
  unfold Obligations.UserModeConfined
  intro i s t hw _ hu hn hr
  rcases exec_confines s i hw hu t hn with h | ⟨u, cause, val, bank, h, rfl⟩
  · obtain ⟨_, hs, ht, hc⟩ := h hr
    exact ⟨ht, hc, fun hsup => absurd (hs.symm.trans hsup) (by simp [hu])⟩
  · obtain ⟨hp, ht, hc, htrap⟩ := u.takeTrap_entered cause val bank hr
    obtain ⟨_, hs, ht', hc'⟩ := h hp
    rw [ht'] at ht htrap
    exact ⟨ht, hc.trans hc', htrap (hs.trans hu)⟩

end Sys2Proof.Machine
end

section
/-! Trap entry (R43): what a stop records (R168, R40), what the entry saves, and the double fault (R363). -/

namespace Sys2Proof.Machine

/-! What a stop records of a bank. -/

/-- A table filled from a list, in its order, reads back the list. -/
theorem tabGet_foldl_zipIdx {α : Type} (f : α → Word) (xs : List α) (k : Nat) (t : Tab Word) (i : Nat) :
    tabGet 0 ((xs.zipIdx k).foldl (fun t (e : α × Nat) => tabSet 0 t e.2 (f e.1)) t) i =
      (if k ≤ i then xs[i - k]?.map f else none).getD (tabGet 0 t i) := by
  induction xs generalizing k t with
  | nil => simp
  | cons x xs ih =>
    rw [List.zipIdx_cons, List.foldl_cons, ih, tabGet_tabSet]
    dsimp only
    rcases Nat.lt_trichotomy i k with h | rfl | h
    · rw [if_neg (show ¬ k + 1 ≤ i by omega), if_neg (show i ≠ k by omega), if_neg (show ¬ k ≤ i by omega)]
    · simp
    · rw [if_pos (show k + 1 ≤ i by omega), if_neg (show i ≠ k by omega), if_pos (show k ≤ i by omega),
        show i - k = (i - (k + 1)) + 1 by omega, List.getElem?_cons_succ]

theorem Context.finishOne_bank_other (c : Context) (now j i : Nat) (q : InFlight) (h : i ≠ j) : (c.finishOne now j q).bank i = c.bank i := by
  unfold Context.finishOne
  split
  · rfl
  · show ((c.setBank j _).orFlags _).bank i = _
    exact (Context.bank_setBank _ _ _ _).trans (if_neg h)

theorem Context.stopBank_bank_other (c : Context) (now : Nat) (p : Word) (j i : Nat) (h : i ≠ j) :
    (c.stopBank now p j).bank i = c.bank i := by
  unfold Context.stopBank
  extract_lets es emptied c1 left
  have h1 : c1.bank i = c.bank i := by
    refine (foldl_keeps (fun (c : Context) (e : InFlight × Bool) => c.finishOne now j e.1) (fun c => c.bank i)
      (fun c e => c.finishOne_bank_other now j i e.1 h) _ _).trans ?_
    rw [Context.bank_setBank, if_neg h]
  rw [Context.bank_setBank, if_neg h, h1]

/-- The instructions that a stop leaves in a bank, in slot order (R168). -/
def Context.leftAtStop (c : Context) (now j : Nat) : List InFlight :=
  ((c.atStop now j (c.bank j).slots).filter fun e => !e.2).map Prod.fst

theorem Context.stopBank_irp (c : Context) (now : Nat) (p : Word) (j i : Nat) :
    tabGet 0 ((c.stopBank now p j).bank j).irp i = ((c.leftAtStop now j)[i]?.map fun q => q.asRecorded.resumePoint p).getD 0 := by
  unfold Context.stopBank Context.leftAtStop
  extract_lets es emptied c1 left
  rw [Context.bank_setBank, if_pos rfl]
  refine (tabGet_foldl_zipIdx (fun q => InFlight.resumePoint q p) _ 0 [] i).trans ?_
  rw [if_pos (Nat.zero_le i), Nat.sub_zero, List.getElem?_map, List.getElem?_map, Option.map_map, Option.map_map]
  rfl

/-- Which instructions a stop leaves is told from the bank and from what the lanes do not change. -/
theorem Context.atStop_congr {c d : Context} (h : c.banksOnly d) (now j : Nat) (hb : d.bank j = c.bank j) (qs : List InFlight) :
    d.atStop now j qs = c.atStop now j qs := by
  have hsame : ∀ q, d.sameInputs now j q = c.sameInputs now j q := by
    obtain ⟨bs, fl, rfl⟩ := h
    intro q
    unfold Context.sameInputs Context.allTagged
    split
    · rfl
    · rw [hb]; rfl
  have hconf : ∀ p q, d.conflicts p q = c.conflicts p q := by
    obtain ⟨bs, fl, rfl⟩ := h
    intro p q; rfl
  induction qs with
  | nil => rfl
  | cons q qs ih => simp only [Context.atStop, ih, hsame, hconf]

theorem Context.leftAtStop_congr {c d : Context} (h : c.banksOnly d) (now j : Nat) (hb : d.bank j = c.bank j) :
    d.leftAtStop now j = c.leftAtStop now j := by
  unfold Context.leftAtStop; rw [hb, Context.atStop_congr h now j hb]

theorem Context.banksOnly.pc_eq {c d : Context} (h : c.banksOnly d) : d.pc = c.pc := by
  obtain ⟨_, _, rfl⟩ := h; rfl

theorem foldl_stopBank_bank_other (now : Nat) (js : List Nat) (j : Nat) (hj : j ∉ js) (c : Context) :
    (js.foldl (fun c j => c.stopBank now c.pc j) c).bank j = c.bank j := by
  induction js generalizing c with
  | nil => rfl
  | cons x xs ih =>
    rw [List.mem_cons, not_or] at hj
    rw [List.foldl_cons, ih hj.2, Context.stopBank_bank_other c now _ x j hj.1]

/-- Each bank of the gang takes the record of its own instructions, whatever the stop of the banks before it has finished there. -/
theorem foldl_stopBank_irp (now : Nat) (js : List Nat) (hn : js.Nodup) (j : Nat) (hj : j ∈ js) (c : Context) (i : Nat) :
    tabGet 0 ((js.foldl (fun c j => c.stopBank now c.pc j) c).bank j).irp i =
      ((c.leftAtStop now j)[i]?.map fun q => q.asRecorded.resumePoint c.pc).getD 0 := by
  induction js generalizing c with
  | nil => cases hj
  | cons x xs ih =>
    rw [List.nodup_cons] at hn
    rw [List.foldl_cons]
    by_cases hx : j = x
    · subst hx
      rw [foldl_stopBank_bank_other now xs j hn.1, Context.stopBank_irp]
    · have hb := c.stopBank_banksOnly now c.pc x
      rw [ih hn.2 ((List.mem_cons.mp hj).resolve_left hx), hb.pc_eq,
        Context.leftAtStop_congr hb now j (c.stopBank_bank_other now _ x j hx)]

theorem Context.mem_atStop (c : Context) (now j : Nat) (qs : List InFlight) {e : InFlight × Bool} (h : e ∈ c.atStop now j qs) : e.1 ∈ qs := by
  induction qs with
  | nil => cases h
  | cons q qs ih =>
    rcases List.mem_cons.mp h with rfl | h
    · exact List.mem_cons_self
    · exact List.mem_cons_of_mem _ (ih h)

/-- With no cross-bank instruction in flight a stop has none to finish (R198). -/
theorem Context.finishCross_none (c : Context) (now n : Nat)
    (h : ∀ j ∈ bankList c.allBanks, ∀ q ∈ (c.bank j).slots, (slotForm q.instr).any SlotForm.cross = false) : c.finishCross now n = c := by
  cases n with
  | zero => rfl
  | succ n =>
    have hnone : ((bankList c.allBanks).findSome? fun j => (c.atStop now j (c.bank j).slots).find? fun e =>
        e.2 && (slotForm e.1.instr).any SlotForm.cross) = none := by
      rw [List.findSome?_eq_none_iff]
      intro j hj
      rw [List.find?_eq_none]
      intro e he
      rw [h j hj e.1 (c.mem_atStop now j _ he)]
      simp
    unfold Context.finishCross
    rw [hnone]

/-- The IRP entries that a stop of a stream of one gang records (R40, R168). -/
theorem Context.stopLanes_irp (c : Context) (now : Nat) (hs : c.sib = none)
    (h : ∀ j ∈ bankList c.allBanks, ∀ q ∈ (c.bank j).slots, (slotForm q.instr).any SlotForm.cross = false) (j : Nat)
    (hj : j ∈ bankList c.gmBanks) (i : Nat) :
    tabGet 0 ((c.stopLanes now).bank j).irp i = ((c.leftAtStop now j)[i]?.map fun q => q.asRecorded.resumePoint c.pc).getD 0 := by
  simp only [Context.stopLanes, hs]
  rw [Context.finishCross_none c now _ h]
  exact foldl_stopBank_irp now _ (bankList_nodup _) j hj c i

theorem InFlight.resumePoint_asRecorded (q : InFlight) (p : Word) :
    q.asRecorded.resumePoint p = BitVec.ofNat 64 ((p - q.pc).toNat / 4 % 2 ^ 32 * 2 ^ 32 + 2 ^ 31 +
      (if (slotForm q.instr).any SlotForm.whole then 0 else q.next) / q.ncol * 2 ^ 16 +
      (if (slotForm q.instr).any SlotForm.whole then 0 else q.next) % q.ncol) := by
  unfold InFlight.asRecorded
  split <;> rfl

/-! The entry. -/

/-- The stop of a member's fold looks at the member alone (R273). -/
theorem Context.stopFold_banks (c : Context) (bs : Tab Bank) (fl : FpFlags) (trap : Bool) :
    ∃ bd, Context.stopFold { c with banks := bs, fpsr := fl } trap =
      { c with banks := bs, fpsr := fl, bad := bd, mprog := (c.stopFold trap).mprog, mmf := (c.stopFold trap).mmf } := by
  unfold Context.stopFold
  cases hm : c.mmf with
  | none => exact ⟨c.bad, by simp only [hm]⟩
  | some m =>
    dsimp only
    by_cases hr : m.released = true ∨ m.stopped = true
    · rw [if_pos hr, if_pos hr]
      exact ⟨c.bad, by simp only [hm]⟩
    · rw [if_neg hr, if_neg hr]
      exact ⟨_, by rw [Context.mend_eq]⟩

/-- Trap entry, field by field (R43): of the stream it changes these alone. -/
theorem State.takeTrap_ctx (s : State) (cause : Nat) (val : Word) (bank : Option Nat)
    (h : isAsync cause = true ∨ s.ctx.pc ≠ s.ctx.tvec.setWidth 64) :
    ∃ fl bd p st n sb sh, (s.takeTrap cause val bank).ctx = { s.ctx with
      banks := (s.ctx.stopLanes s.now).banks, fpsr := fl, bad := bd, mprog := (s.ctx.stopFold true).mprog, mmf := (s.ctx.stopFold true).mmf
      tpc := s.ctx.pc.setWidth 56
      tcause := BitVec.ofNat 13 (cause + 2 ^ 8 * bank.getD (lowBank s.ctx.gmBanks) + 2 ^ 12 * boolNat (isAsync cause))
      tval := val, tstat := BitVec.ofNat 3 (boolNat s.ctx.sup + 2 * boolNat s.ctx.ad + 4 * boolNat (s.ctx.stopLanes s.now).anyResume)
      sup := true, ad := true, pc := s.ctx.tvec.setWidth 64, sibHeld := sh, gbar := false, parked := p, asking := [], detentWait := none
      inv := false, stall := st, yielding := false, since := n, sib := sb } := by
  have hd : ¬(isAsync cause = false ∧ s.ctx.pc = s.ctx.tvec.setWidth 64) := by
    rintro ⟨ha, hp⟩
    exact h.elim (fun h => by rw [ha] at h; cases h) fun h => h hp
  unfold State.takeTrap
  extract_lets c c1
  rw [if_neg hd]
  obtain ⟨p, st, n, sb, hw⟩ := (s.withCtx (c1.enter cause val (bank.getD (lowBank c.gmBanks)))).emitTrace_woken 3 cause
    (c.pc.toNat % 2 ^ 56) val.toNat
  obtain ⟨bs, fl, hL⟩ := c.stopLanes_banksOnly s.now
  rw [hw]
  dsimp only [c1, c] at hL ⊢
  obtain ⟨bd, hF⟩ := s.ctx.stopFold_banks bs fl true
  rw [hL, hF]
  simp only [State.withCtx_ctx, Context.enter, Context.mend_eq]
  exact ⟨_, _, _, _, _, _, _, rfl⟩

/-! The double fault. A stream that halts is saved, and its trap frame with it (R363). -/

/-- d is the stream c, with the same trap frame: TPC, TCAUSE, TVAL, TSTAT and STATUS.SUP. -/
def Context.frameKept (c d : Context) : Prop :=
  d.id = c.id ∧ d.tpc = c.tpc ∧ d.tcause = c.tcause ∧ d.tval = c.tval ∧ d.tstat = c.tstat ∧ d.sup = c.sup

theorem Context.frameKept.refl (c : Context) : c.frameKept c := ⟨rfl, rfl, rfl, rfl, rfl, rfl⟩

theorem Context.frameKept.trans {c d e : Context} (h : c.frameKept d) (k : d.frameKept e) : c.frameKept e := by
  obtain ⟨h1, h2, h3, h4, h5, h6⟩ := h
  obtain ⟨k1, k2, k3, k4, k5, k6⟩ := k
  exact ⟨k1.trans h1, k2.trans h2, k3.trans h3, k4.trans h4, k5.trans h5, k6.trans h6⟩

theorem Context.Woken.frameKept {c d : Context} (h : c.Woken d) : c.frameKept d := by
  obtain ⟨_, _, _, _, rfl⟩ := h
  exact ⟨rfl, rfl, rfl, rfl, rfl, rfl⟩

theorem Context.banksOnly.frameKept {c d : Context} (h : c.banksOnly d) : c.frameKept d := by
  obtain ⟨_, _, rfl⟩ := h
  exact ⟨rfl, rfl, rfl, rfl, rfl, rfl⟩

theorem foldl_frameKept {β : Type} (f : Context → β → Context) (h : ∀ (c : Context) x, c.frameKept (f c x)) (xs : List β) (c : Context) :
    c.frameKept (xs.foldl f c) := by
  induction xs generalizing c with
  | nil => exact .refl c
  | cons x xs ih => exact (h c x).trans (ih _)

theorem Context.countForced_frameKept (c : Context) : c.frameKept c.countForced := ⟨rfl, rfl, rfl, rfl, rfl, rfl⟩

theorem Context.stopFold_frameKept (c : Context) (trap : Bool) : c.frameKept (c.stopFold trap) := by
  obtain ⟨bd, h⟩ := c.stopFold_banks c.banks c.fpsr trap
  rw [show c.stopFold trap = _ from h]
  exact ⟨rfl, rfl, rfl, rfl, rfl, rfl⟩

theorem Context.lowFirst_frameKept (c : Context) : c.frameKept c.lowFirst := by
  have hswap : c.frameKept c.swap := by
    unfold Context.swap Context.swapTo
    split <;> exact ⟨rfl, rfl, rfl, rfl, rfl, rfl⟩
  unfold Context.lowFirst
  split
  · exact .refl c
  · split
    · exact hswap.trans ⟨rfl, rfl, rfl, rfl, rfl, rfl⟩
    · exact .refl c

theorem Context.halts_frameKept (c : Context) (now : Nat) : c.frameKept (c.halts now) := by
  have h1 : c.frameKept (c.charge now) := (foldl_banksOnly _ (fun d j => d.setBank_banksOnly j _) _ c).frameKept
  refine (h1.trans ?_).trans (Context.stopFold_frameKept _ false)
  exact ((foldl_banksOnly _ (fun d j => d.setBank_banksOnly j _) _ _).trans (Context.stopLanes_banksOnly _ now)).frameKept

/-! The running stream while a context is saved. -/

/-- A state whose running stream is the same, with the same trap frame. -/
def State.frameKept (s t : State) : Prop := s.ctx.frameKept t.ctx

theorem State.frameKept.refl (s : State) : s.frameKept s := Context.frameKept.refl s.ctx

theorem State.frameKept.trans {s t u : State} (h : s.frameKept t) (k : t.frameKept u) : s.frameKept u := Context.frameKept.trans h k

theorem foldl_stateFrameKept {β : Type} (f : State → β → State) (h : ∀ (s : State) x, s.frameKept (f s x)) (xs : List β) (s : State) :
    s.frameKept (xs.foldl f s) := by
  induction xs generalizing s with
  | nil => exact .refl s
  | cons x xs ih => exact (h s x).trans (ih _)

theorem State.writeCells_frameKept (s : State) (pa n v : Nat) : s.frameKept (s.writeCells pa n v) := (s.writeCells_woken pa n v).frameKept

theorem State.emitTrace_frameKept (s : State) (typ cause w8 w16 : Nat) : s.frameKept (s.emitTrace typ cause w8 w16) :=
  (s.emitTrace_woken typ cause w8 w16).frameKept

theorem State.writeBytes_frameKept (s : State) (l n v : Nat) : s.frameKept (s.writeBytes l n v) := by
  rw [State.frameKept, State.writeBytes, State.murky_ctx]
  exact (s.writeLoc_woken l n v).frameKept

theorem State.foldl_writeBytes_frameKept (l v : Nat → Nat) (n : Nat) (xs : List Nat) (s : State) :
    s.frameKept (xs.foldl (fun s i => s.writeBytes (l i) n (v i)) s) :=
  foldl_stateFrameKept _ (fun t _ => t.writeBytes_frameKept _ _ _) xs s

theorem State.writeLatch_frameKept (s : State) (r : RowReg) (segs base : Nat) : s.frameKept (s.writeLatch r segs base) :=
  State.foldl_writeBytes_frameKept (fun i => base + i * 2 ^ 22) (fun i => bitsOf r.latch (65536 * i) 65536) 8192 _ s

theorem State.writeMeta_frameKept (s : State) (core j k v o n : Nat) : s.frameKept (s.writeMeta core j k v o n) := by
  unfold State.writeMeta
  refine foldl_stateFrameKept _ (fun t i => ?_) _ s
  dsimp only
  split
  · exact t.writeBytes_frameKept _ _ _
  · exact .refl t

theorem State.saveBank_frameKept (s : State) (c : Context) (k j : Nat) : s.frameKept (s.saveBank c k j) := by
  unfold State.saveBank
  extract_lets b s1 s2
  have h1 : s.frameKept s1 := foldl_stateFrameKept _ (fun t i => by
    dsimp only
    split
    · exact .refl t
    · exact t.writeLatch_frameKept _ _ _) _ s
  have h2 : s1.frameKept s2 := foldl_stateFrameKept _ (fun t n => by
    split
    · exact .refl t
    · exact t.writeBytes_frameKept _ _ _) _ s1
  exact (h1.trans h2).trans (foldl_stateFrameKept _ (fun t w => t.writeMeta_frameKept _ _ _ _ _ _) _ s2)

theorem State.updCtx_countForced_frameKept (s : State) (id : Nat) : s.frameKept (s.updCtx id Context.countForced) := by
  show s.ctx.frameKept (if s.ctx.id = id then s.ctx.countForced else s.ctx)
  split
  · exact s.ctx.countForced_frameKept
  · exact .refl _

theorem State.forceSlot_frameKept (s : State) (core j : Nat) : s.frameKept (s.forceSlot core j) := by
  unfold State.forceSlot
  split
  · dsimp only
    split
    · exact .refl s
    · exact State.updCtx_countForced_frameKept _ _
  · exact .refl s

theorem State.serveRefs_frameKept (s : State) (core : Nat) (js : List Nat) : s.frameKept (s.serveRefs core js) := by
  unfold State.serveRefs
  dsimp only
  split
  · exact .refl s
  · exact foldl_stateFrameKept (fun (t : State) j => t.forceSlot core j) (fun t j => t.forceSlot_frameKept core j) _ s

/-- A saved stream is where it was to be, with its trap frame; the running stream that is not the saved one keeps its own. -/
theorem State.saveContext_frameKept (s : State) (c : Context) (place : Place) (h : s.ctx.frameKept c) :
    s.frameKept (s.saveContext c place) ∧ (s.saveContext c place).ctx.place = place := by
  unfold State.saveContext
  extract_lets due c1 k blk s0 s1 s2 c2
  have h0 : s.frameKept s0 := State.serveRefs_frameKept (s.setCore c1.core _) _ _
  have h1 : s0.frameKept s1 := foldl_stateFrameKept _ (fun t j => t.saveBank_frameKept c1 k j) _ s0
  have h2 : s1.frameKept s2 := by
    dsimp only [s2]; split
    · exact .refl s1
    · exact foldl_stateFrameKept _ (fun t _ => t.writeCells_frameKept _ _ _) _ s1
  have hc1 : s.ctx.frameKept c1 := (h.trans c.lowFirst_frameKept).trans (foldl_frameKept _ (fun d _ => d.countForced_frameKept) _ _)
  have hc2 : s.ctx.frameKept c2 := hc1.trans (foldl_banksOnly _ (fun d j => d.setBank_banksOnly j _) _ c1).frameKept
  have hid : s2.ctx.id = c1.id := ((h0.trans h1).trans h2).1.trans hc1.1.symm
  have hctx : (s2.updCtx c1.id fun _ => { c2.abandon with
      place := place, saveset := k, block := blk, pheld := false, claims := false, leaving := false }).ctx =
      { c2.abandon with place := place, saveset := k, block := blk, pheld := false, claims := false, leaving := false } := if_pos hid
  exact ⟨by rw [State.frameKept, hctx]; exact hc2, by rw [hctx]⟩

theorem State.haltNow_frameKept (s : State) (reason : Nat) : s.frameKept (s.haltNow reason) ∧ (s.haltNow reason).ctx.place = .halted reason := by
  obtain ⟨h, hp⟩ := State.saveContext_frameKept _ _ (.halted reason)
    ((s.emitTrace 4 reason (s.ctx.pc.toNat % 2 ^ 56) s.ctx.shapeWord).ctx.halts_frameKept s.now)
  exact ⟨(s.emitTrace_frameKept _ _ _ _).trans h, hp⟩

/-- The double fault (R363): the frame of the first trap stays, and where the save need not wait the context halts with reason 5. -/
theorem State.takeTrap_double (s : State) (cause : Nat) (val : Word) (bank : Option Nat) (ha : isAsync cause = false)
    (hp : s.ctx.pc = s.ctx.tvec.setWidth 64) :
    s.frameKept (s.takeTrap cause val bank) ∧ (s.haltWaits = false → (s.takeTrap cause val bank).ctx.place = .halted 5) ∧
      (s.haltWaits = true → s.takeTrap cause val bank = s.hold) := by
  obtain ⟨hf, hpl⟩ := s.haltNow_frameKept 5
  unfold State.takeTrap
  dsimp only
  rw [if_pos ⟨ha, hp⟩]
  split
  · next hw => exact ⟨⟨rfl, rfl, rfl, rfl, rfl, rfl⟩, fun h => absurd (hw.symm.trans h) (by simp), fun _ => rfl⟩
  · next hw => exact ⟨hf, fun _ => hpl, fun h => absurd h hw⟩

/-! Memory, IRP and MPROG after an entry. -/

theorem State.takeTrap_untraced (s : State) (cause : Nat) (val : Word) (bank : Option Nat)
    (h : isAsync cause = true ∨ s.ctx.pc ≠ s.ctx.tvec.setWidth 64) (ht : s.ctx.trc = false) :
    (s.takeTrap cause val bank).mem = s.mem ∧ (s.takeTrap cause val bank).others = s.others := by
  have hd : ¬(isAsync cause = false ∧ s.ctx.pc = s.ctx.tvec.setWidth 64) := by
    rintro ⟨ha, hp⟩
    exact h.elim (fun h => by rw [ha] at h; cases h) fun h => h hp
  unfold State.takeTrap
  extract_lets c c1
  rw [if_neg hd, State.emitTrace_off]
  · exact ⟨rfl, rfl⟩
  obtain ⟨bs, fl, hL⟩ := c.stopLanes_banksOnly s.now
  obtain ⟨bd, hF⟩ := s.ctx.stopFold_banks bs fl true
  simp only [c1, c, hL, hF, State.withCtx_ctx, Context.enter, Context.mend_eq]
  exact ht

theorem Context.stopFold_running (c : Context) (trap : Bool) (m : MmfFlight) (h : c.mmf = some m) (hr : m.released = false)
    (hs : m.stopped = false) :
    (c.stopFold trap).mprog = m.progress ∧
      (c.stopFold trap).mmf = some { m with stopped := true, byTrap := trap, noted := m.progress } := by
  simp [Context.stopFold, h, hr, hs]

theorem Context.stopFold_idle (c : Context) (trap : Bool)
    (h : c.mmf = none ∨ ∃ m, c.mmf = some m ∧ (m.released = true ∨ m.stopped = true)) : c.stopFold trap = c := by
  rcases h with h | ⟨m, h, hm⟩
  · simp only [Context.stopFold, h]
  · simp only [Context.stopFold, h, if_pos hm]

theorem MmfFlight.progress_toNat (m : MmfFlight) :
    m.progress.toNat = (m.partialRow.1 + (if m.partialRow.1 = grantKC m.mg then m.rows * 2 ^ 32 + grantN m.mg * 2 ^ 40 else 0) + 2 ^ 48) %
      2 ^ 64 := by
  unfold MmfFlight.progress grantKC grantN
  rw [BitVec.toNat_ofNat]

theorem boolNat_isAsync (k : Nat) : boolNat (isAsync k) = if k = 0x10 ∨ k = 0x11 ∨ k = 0x30 then 1 else 0 := by
  by_cases h : k = 0x10 ∨ k = 0x11 ∨ k = 0x30 <;> simp [isAsync, boolNat, h]

/-- Settles O9: an entry field by field, the records of the stop, and the double fault. -/
theorem trapEntry : Obligations.TrapEntry := by
  unfold Obligations.TrapEntry
  refine ⟨fun s k v b h => ?_, fun s k v b ha hp => ?_⟩
  · intro t
    have hmem := s.takeTrap_untraced k v b h
    have hcause := boolNat_isAsync k
    have hirp := s.ctx.stopLanes_irp s.now
    obtain ⟨fl, bd, p, st, n, sb, sh, hctx⟩ := s.takeTrap_ctx k v b h
    rw [hcause] at hctx
    change t.ctx = _ at hctx
    change s.ctx.trc = false → t.mem = s.mem ∧ t.others = s.others at hmem
    rw [hctx]
    refine ⟨rfl, rfl, rfl, rfl, rfl, rfl, rfl, rfl, rfl, rfl, rfl, rfl, rfl, rfl, rfl, rfl, rfl, rfl, rfl, rfl, rfl, rfl, rfl, rfl, rfl, rfl,
      rfl, rfl, hmem, fun hs hx j hj => ?_, fun m hm hr hst => ?_, fun hm => ?_⟩
    · intro left i
      refine ⟨fun q hq => ?_, fun hq => ?_⟩
      · refine (hirp hs hx j hj i).trans ?_
        rw [show (s.ctx.leftAtStop s.now j)[i]? = some q from hq]
        exact q.resumePoint_asRecorded _
      · refine (hirp hs hx j hj i).trans ?_
        rw [show (s.ctx.leftAtStop s.now j)[i]? = none from hq]
        rfl
    · obtain ⟨hp, hf⟩ := s.ctx.stopFold_running true m hm hr hst
      refine ⟨?_, _, hf, rfl, rfl, rfl, rfl, rfl, rfl⟩
      exact (congrArg BitVec.toNat hp).trans m.progress_toNat
    · dsimp only
      rw [s.ctx.stopFold_idle true hm]
      exact ⟨rfl, rfl⟩
  · obtain ⟨⟨-, h1, h2, h3, h4, h5⟩, hplace, hhold⟩ := s.takeTrap_double k v b ha hp
    exact ⟨hplace, hhold, h1, h2, h3, h4, h5⟩

end Sys2Proof.Machine
end

section
/-! Steps around an instruction (R73, R75, R344, R401): what the next instruction is, and what follows one of a stream that runs alone. -/

namespace Sys2Proof.Machine

/-! What the running stream does next. -/

theorem State.nextInstr_undefined {s : State} {w : Nat} (hi : s.canIssue = true) (he : s.entryDue = false)
    (hw : s.fetchWord s.ctx.pc = .ok w) (hd : decode (BitVec.ofNat 32 w) = none) :
    s.nextInstr = some (.illegalInstruction (BitVec.ofNat 32 w)) := by
  simp [State.nextInstr, hi, he, hw, hd]

theorem State.nextInstr_fetchFault {s : State} {k : Nat} {v : Word} {b : Option Nat} (hi : s.canIssue = true) (he : s.entryDue = false)
    (hw : s.fetchWord s.ctx.pc = .error (.trap k v b)) : s.nextInstr = some .instructionFetchFault := by
  simp [State.nextInstr, hi, he, hw]

theorem step_nextInstr {s : State} {i : Instr} (hh : s.held = false) (hin : s.inputs = []) (hi : s.nextInstr = some i) :
    step s = outcomeSettle s.nextIsBank s.ctx (exec i s) := by
  have hs : s.stopped = false := by simp [State.stopped, hh]
  simp [step, hs, hin, hi]

theorem exec_illegalInstruction_break (w : BitVec 32) (s : State) (h : isBreakWord w = true) :
    exec (.illegalInstruction w) s = exec .brk s := by
  show execIllegalInstruction w s = execBrk s
  rw [execIllegalInstruction, if_pos h]

theorem exec_illegalInstruction_trap (w : BitVec 32) (s : State) (h : isBreakWord w = false) :
    exec (.illegalInstruction w) s = .next (s.takeTrap 0x01 (w.setWidth 64) none) := by
  show execIllegalInstruction w s = _
  rw [execIllegalInstruction, h]
  rfl

theorem exec_instructionFetchFault_trap {s : State} {k : Nat} {v : Word} {b : Option Nat}
    (h : s.fetchWord s.ctx.pc = .error (.trap k v b)) : exec .instructionFetchFault s = .next (s.takeTrap k v b) := by
  show execInstructionFetchFault s = _
  rw [execInstructionFetchFault, h]
  rfl

/-! What follows an instruction of a stream that runs alone on an idle device. -/

/-- The running stream with the time since which its next instruction is ready (R344). -/
def State.readyAt (t : State) : State :=
  t.withCtx { t.ctx with since := if t.ctx.stall ∨ t.ctx.parked ≠ none then t.ctx.since else t.now }

theorem State.issuedBy_alone (t : State) (bank : Bool) (c : Context) (hid : t.ctx.id = c.id) (hr : t.ctx.resident = true)
    (ho : t.ctx.stepOnce = false) (hs : t.ctx.sib = none)
    (hn : t.ctx.num = if bank then (t.core t.ctx.core).lastBank else (t.core t.ctx.core).lastPick) :
    t.issuedBy bank c = t.readyAt := by
  have hwait : (t.ctx.stall || t.ctx.parked.isSome) = decide (t.ctx.stall ∨ t.ctx.parked ≠ none) := by
    cases t.ctx.stall <;> cases t.ctx.parked <;> rfl
  have hctx : { t.ctx with
      since := if (t.ctx.stall || t.ctx.parked.isSome) || (t.ctx.sib.isSome && c.sib.isSome && decide (t.ctx.gmBanks ≠ c.gmBanks)) then
        t.ctx.since else t.now
      stepOnce := t.ctx.stepOnce && ((t.ctx.stall || t.ctx.parked.isSome) || t.ctx.entered c)
      haltReq := if t.ctx.stepOnce && !((t.ctx.stall || t.ctx.parked.isSome) || t.ctx.entered c) then some 3 else t.ctx.haltReq } =
      t.readyAt.ctx := by
    rw [hs, ho, hwait]
    simp [State.readyAt, ho, hs]
  unfold State.issuedBy
  dsimp only
  rw [if_pos ⟨hid, hr⟩, hctx]
  exact if_pos (.inr (.inr hn))

theorem State.beside_idle {t : State} (h : t.busy = false) : t.beside = t := by simp [State.beside, h]

theorem State.passTurns_alone {t : State} (hs : t.ctx.sib = none) (ho : t.others = []) : t.passTurns = t := by
  unfold State.passTurns State.mapCtxs
  dsimp only
  rw [if_neg (by simp [hs]), ho, List.map_nil, ← ho]

theorem State.turn_alone {t : State} (hs : t.ctx.sib = none) (ho : t.others = []) : t.turn = t := by
  simp [State.turn, hs, ho]

theorem State.settle_alone (t : State) (bank : Bool) (c : Context) (hid : t.ctx.id = c.id) (hr : t.ctx.resident = true)
    (ho : t.ctx.stepOnce = false) (hs : t.ctx.sib = none)
    (hn : t.ctx.num = if bank then (t.core t.ctx.core).lastBank else (t.core t.ctx.core).lastPick) (hoth : t.others = [])
    (hb : t.busy = false) : t.settle bank c = t.readyAt.tock := by
  have hb' : t.readyAt.busy = false := hb
  unfold State.settle
  rw [t.issuedBy_alone bank c hid hr ho hs hn, State.beside_idle hb', State.passTurns_alone (t := t.readyAt) hs hoth,
    State.turn_alone (t := t.readyAt) hs hoth]

/-- Settles O6. -/
theorem stepAround : Obligations.StepAround := by
  unfold Obligations.StepAround
  refine ⟨fun s hh hin hi he => ⟨fun w hw hd => ⟨fun hb => ?_, fun hb => ?_⟩, fun k v b hw => ?_⟩, fun s i rest hh hin => ?_,
    fun s hh hin => ?_, fun bank c t hid hr ho hs hn hoth hb => t.settle_alone bank c hid hr ho hs hn hoth hb⟩
  · rw [step_nextInstr hh hin (State.nextInstr_undefined hi he hw hd), exec_illegalInstruction_trap _ _ hb]
  · rw [step_nextInstr hh hin (State.nextInstr_undefined hi he hw hd), exec_illegalInstruction_break _ _ hb]
  · rw [step_nextInstr hh hin (State.nextInstr_fetchFault hi he hw), exec_instructionFetchFault_trap hw]
  · have hs : s.stopped = false := by simp [State.stopped, hh]
    simp [step, hs, hin]
  · have hs : s.stopped = true := by simp [State.stopped, hh, hin]
    simp [step, hs]

end Sys2Proof.Machine
end

section
/-! Instructions that take a slot (R164): which shape each of them has, and what the work before them leaves alone. -/

namespace Sys2Proof.Machine

/-- Every instruction that takes a slot is one shape: the names, the scalars and the checks of its form. -/
theorem exec_slotForm (i : Instr) (f : SlotForm) (s : State) (hf : slotForm i = some f) (hw : i.wf = true) :
    exec i s = slotOp i (f.names i) f.reads (fun s j => f.faults s j) s := by
  cases i
  case vadd | vsub | vmul | vfma | vfms | vfnma | vabs | vneg | vand | vor | vxor | vandn | vshl | vshr | vsar | vsel | vmin | vminX
    | vminN | vmax | vmaxX | vmaxN | vmulw | vmulwX | vmulwN | vrsqe | vrcpe | vexp2e | viota | vbcast | vclr | vcopy | vscl
    | vcmpEq | vcmpNe | vcmpLt | vcmpLe | vcmpUn | vcmpLtX | vcmpLeX | vcmpLtN | vcmpLeN | vmerge | vins | vslideUp | vslideDn | vperm
    | shuf | shufx | gbcast => cases hf; rfl
  case vred | gred =>
    dsimp only [slotForm, laneForm] at hf
    split at hf
    · cases hf; rfl
    · cases hf
  case vcvt | vcvtX | vcvtN => cases hf; exact if_pos hw
  all_goals cases hf

/-! The banks of other sub-gangs (R198, R207): nothing that runs in some banks reaches a bank whose instructions in flight are others. -/

/-- What tells an instruction in flight from another (R197). -/
def InFlight.identity (q : InFlight) : Word × Instr × BitVec 16 := (q.pc, q.instr, q.gang)

theorem InFlight.isOne_iff (q y : InFlight) : q.isOne y = true ↔ y.identity = q.identity := by
  simp [InFlight.isOne, InFlight.identity]

/-- No instruction in flight is both in one of some banks and in another bank. -/
def Context.workApart (c : Context) (js : List Nat) : Prop :=
  ∀ x ∉ js, ∀ q ∈ (c.bank x).slots, ∀ j ∈ js, ∀ y ∈ (c.bank j).slots, y.identity ≠ q.identity

/-- What work in some banks leaves of a stream: the other banks, and in every slot an instruction that was there. -/
structure Context.worksIn (js : List Nat) (c d : Context) : Prop where
  others : ∀ x, x ∉ js → d.bank x = c.bank x
  slots : ∀ x, ∀ y ∈ (d.bank x).slots, ∃ q ∈ (c.bank x).slots, q.identity = y.identity

theorem Context.worksIn.refl (js : List Nat) (c : Context) : Context.worksIn js c c := ⟨fun _ _ => rfl, fun _ y h => ⟨y, h, rfl⟩⟩

theorem Context.worksIn.trans {js : List Nat} {c d e : Context} (h : Context.worksIn js c d) (k : Context.worksIn js d e) :
    Context.worksIn js c e := by
  refine ⟨fun x hx => (k.others x hx).trans (h.others x hx), fun x y hy => ?_⟩
  obtain ⟨q, hq, e1⟩ := k.slots x y hy
  obtain ⟨p, hp, e2⟩ := h.slots x q hq
  exact ⟨p, hp, e2.trans e1⟩

theorem Context.worksIn.apart {js : List Nat} {c d : Context} (h : Context.worksIn js c d) (ha : c.workApart js) : d.workApart js := by
  intro x hx q hq j hj y hy he
  obtain ⟨q', hq', e1⟩ := h.slots x q hq
  obtain ⟨y', hy', e2⟩ := h.slots j y hy
  exact ha x hx q' hq' j hj y' hy' (e2.trans (he.trans e1.symm))

/-- A bank of the list is replaced by one that holds no new instruction. -/
theorem Context.setBank_worksIn (js : List Nat) (c : Context) (j : Nat) (b : Bank) (hj : j ∈ js)
    (h : ∀ y ∈ b.slots, ∃ q ∈ (c.bank j).slots, q.identity = y.identity) : Context.worksIn js c (c.setBank j b) := by
  refine ⟨fun x hx => ?_, fun x y hy => ?_⟩
  · rw [Context.bank_setBank, if_neg fun e : x = j => hx (e ▸ hj)]
  · rw [Context.bank_setBank] at hy
    by_cases e : x = j
    · subst e; rw [if_pos rfl] at hy; exact h y hy
    · rw [if_neg e] at hy; exact ⟨y, hy, rfl⟩

theorem Context.orFlags_worksIn (js : List Nat) (c : Context) (fl : FpFlags) : Context.worksIn js c (c.orFlags fl) :=
  ⟨fun _ _ => rfl, fun _ y h => ⟨y, h, rfl⟩⟩

theorem SlotForm.begin_identity (f : SlotForm) (c : Context) (now : Nat) (q : InFlight) (src : Bank) :
    (f.begin c now q src).identity = q.identity := by
  unfold SlotForm.begin; split <;> rfl

theorem SlotForm.advanceIn_worksIn (js : List Nat) (f : SlotForm) (c0 c : Context) (now x k hi : Nat) (hx : x ∈ js) :
    Context.worksIn js c (f.advanceIn c0 c now x k hi) := by
  unfold SlotForm.advanceIn
  extract_lets b
  split
  · exact .refl js c
  · next q0 hq0 =>
    refine .trans (c.setBank_worksIn js x _ hx fun y hy => ?_) (Context.orFlags_worksIn js _ _)
    have hput : ∀ y ∈ b.slots.take k ++ b.slots.drop (k + 1), ∃ q ∈ b.slots, q.identity = y.identity := fun y hy =>
      ⟨y, (List.mem_append.mp hy).elim List.mem_of_mem_take List.mem_of_mem_drop, rfl⟩
    dsimp only at hy
    split at hy
    · change y ∈ b.slots.take k ++ [_] ++ b.slots.drop (k + 1) at hy
      simp only [List.mem_append, List.mem_singleton] at hy
      rcases hy with (hy | rfl) | hy
      · exact hput y (List.mem_append_left _ hy)
      · exact ⟨q0, List.mem_of_getElem? hq0, (f.begin_identity c0 now q0 (c0.bank x)).symm⟩
      · exact hput y (List.mem_append_right _ hy)
    · change y ∈ b.slots.take k ++ [] ++ b.slots.drop (k + 1) at hy
      rw [List.append_nil] at hy
      exact hput y hy

/-- The banks that hold an instruction of one of the list are in the list. -/
theorem Context.crossBanks_mem {js : List Nat} {c : Context} (ha : c.workApart js) {j : Nat} (hj : j ∈ js) {q : InFlight}
    (hq : q ∈ (c.bank j).slots) {x : Nat} (hx : x ∈ c.crossBanks q) : x ∈ js := by
  by_contra hn
  obtain ⟨y, hy, he⟩ := List.any_eq_true.mp (List.mem_filter.mp hx).2
  exact ha x hn y hy j hj q hq ((q.isOne_iff y).mp he).symm

theorem foldl_worksIn {β : Type} (js : List Nat) (f : Context → β → Context) (xs : List β)
    (h : ∀ (c : Context), ∀ x ∈ xs, Context.worksIn js c (f c x)) (c : Context) : Context.worksIn js c (xs.foldl f c) := by
  induction xs generalizing c with
  | nil => exact .refl js c
  | cons x xs ih => exact (h c x List.mem_cons_self).trans (ih (fun c y hy => h c y (List.mem_cons_of_mem _ hy)) _)

theorem Context.goOn_worksIn {js : List Nat} {c : Context} (ha : c.workApart js) (now j k step : Nat) (hj : j ∈ js) :
    Context.worksIn js c (c.goOn now j k step) := by
  unfold Context.goOn
  extract_lets b
  split
  · exact .refl js c
  · next q hq =>
    split
    · exact c.setBank_worksIn js j { b with slots := b.slots.eraseIdx k } hj fun y hy => ⟨y, List.mem_of_mem_eraseIdx hy, rfl⟩
    · next f _ =>
      split
      · exact .refl js c
      · split
        · exact foldl_worksIn js _ _ (fun a x hx => f.advanceIn_worksIn js c a _ x _ _
            (Context.crossBanks_mem ha hj (List.mem_of_getElem? hq) hx)) c
        · exact f.advanceIn_worksIn js c c _ j _ _ hj

/-- Banks that go on before those of a goal among the list are in the list (R197). -/
theorem Context.ahead_mem {js : List Nat} {c : Context} (ha : c.workApart js) {goal : Nat → Bool} (hg : ∀ x, goal x = true → x ∈ js) {x : Nat}
    (h : c.ahead goal x = true) : x ∈ js := by
  rcases (Bool.or_eq_true _ _).mp h with h | h
  · exact hg x h
  · by_contra hn
    obtain ⟨q, hq, h⟩ := List.any_eq_true.mp h
    obtain ⟨z, hz, hgz⟩ := List.any_eq_true.mp ((Bool.and_eq_true _ _).mp h).2
    obtain ⟨y, hy, he⟩ := List.any_eq_true.mp (List.mem_filter.mp hz).2
    exact ha x hn q hq z (hg z hgz) y hy ((q.isOne_iff y).mp he)

theorem Context.runBanks_worksIn {js : List Nat} {c : Context} (ha : c.workApart js) (now : Nat) {goal : Context → Nat → Bool}
    (hg : ∀ c x, goal c x = true → x ∈ js) (n : Nat) : Context.worksIn js c (c.runBanks now goal n) := by
  have hround : ∀ (xs : List Nat) (c : Context), c.workApart js →
      Context.worksIn js c (xs.foldl (fun c x => if c.ahead (goal c) x then c.goOn now x 0 16384 else c) c) := by
    intro xs
    induction xs with
    | nil => exact fun c _ => .refl js c
    | cons x xs ih =>
      intro c ha
      have h1 : Context.worksIn js c (if c.ahead (goal c) x then c.goOn now x 0 16384 else c) := by
        split
        · next h => exact Context.goOn_worksIn ha now x 0 16384 (Context.ahead_mem ha (hg c) h)
        · exact .refl js c
      exact h1.trans (ih _ (h1.apart ha))
  induction n generalizing c with
  | zero => exact .refl js c
  | succ n ih =>
    have h1 := hround (bankList c.allBanks) c ha
    exact h1.trans (ih (h1.apart ha))

theorem SlotForm.goThrough_slots (f : SlotForm) (c : Context) (now j : Nat) (q : InFlight) (hi : Nat) (src dst : Bank) :
    (f.goThrough c now j q hi src dst).1.slots = dst.slots := (f.writeTo_regsOnly _ now j _ _ src dst).2

theorem Context.finishOne_worksIn {js : List Nat} (c : Context) (now j : Nat) (q : InFlight) (hj : j ∈ js) :
    Context.worksIn js c (c.finishOne now j q) := by
  unfold Context.finishOne
  split
  · exact .refl js c
  · next f _ =>
    have hs := (f.release_regsOnly _).2.trans (f.goThrough_slots c now j q (f.span q) (c.bank j) (c.bank j))
    refine .trans (c.setBank_worksIn js j _ hj fun y hy => ⟨y, ?_, rfl⟩) (Context.orFlags_worksIn js _ _)
    rw [← hs]
    exact hy

/-- Work that completes in some banks leaves the others alone where the two share no instruction (R198). -/
theorem Context.drain_worksIn {js : List Nat} {c : Context} (ha : c.workApart js) (now : Nat) : Context.worksIn js c (c.drain now js) := by
  unfold Context.drain
  split
  · exact .refl js c
  · refine .trans (Context.runBanks_worksIn ha now (fun c x h => ?_) _) (foldl_worksIn js _ js (fun c j hj => ?_) _)
    · simpa using (Bool.and_eq_true _ _).mp h |>.1
    · exact .trans (c.setBank_worksIn js j { c.bank j with slots := [] } hj fun y hy => by cases hy)
        (foldl_worksIn js _ _ (fun c q _ => c.finishOne_worksIn now j q hj) _)

end Sys2Proof.Machine
end

section
/-! Instructions that take a slot complete, at once or in flight (R164). -/

namespace Sys2Proof.Machine

/-! Away from their banks, the boundary changes nothing that the lanes read. -/

theorem State.advance_bank (s : State) (j : Nat) : s.advance.ctx.bank j = s.ctx.bank j := by
  obtain ⟨_, _, _, _, _, _, _, _, h⟩ := s.advance_ctx
  obtain ⟨_, _, _, _, _, _, _, _, _, hb⟩ := s.ctx.boundary_ctx
  rw [h, hb]; rfl

theorem State.advance_fpsr (s : State) : s.advance.ctx.fpsr = s.ctx.fpsr := by
  obtain ⟨_, _, _, _, _, _, _, _, h⟩ := s.advance_ctx
  obtain ⟨_, _, _, _, _, _, _, _, _, hb⟩ := s.ctx.boundary_ctx
  rw [h, hb]

theorem State.advance_scalars (s : State) : s.advance.ctx.scalars = s.ctx.scalars := by
  obtain ⟨_, _, _, _, _, _, _, _, h⟩ := s.advance_ctx
  obtain ⟨_, _, _, _, _, _, _, _, _, hb⟩ := s.ctx.boundary_ctx
  rw [h, hb]

theorem Context.not_ends_of_atLoopEnd {c : Context} (h : c.atLoopEnd = false) : ¬c.endsCount ∧ ¬c.endsStrip := by
  rw [Context.endsCount_iff, Context.endsStrip_iff]
  exact ⟨fun hc => by simp [Context.atLoopEnd, hc] at h, fun hc => by simp [Context.atLoopEnd, hc] at h⟩

theorem State.stripStarted_mem (s : State) (h : s.ctx.trc = false) : s.stripStarted.mem = s.mem := by
  unfold State.stripStarted
  extract_lets c s1
  rw [s1.emitTrace_off _ _ _ _ h]

theorem State.advance_mem (s : State) (h : s.ctx.trc = false) : s.advance.mem = s.mem := by
  obtain ⟨_, _, _, _, _, _, _, _, _, hb⟩ := s.ctx.boundary_ctx
  unfold State.advance
  generalize hp : s.ctx.boundary = p at hb
  obtain ⟨c, strip⟩ := p
  dsimp only at hb ⊢
  split
  · refine State.stripStarted_mem _ ?_
    rw [State.withCtx_ctx, hb]
    exact h
  · rfl

/-! The state that a slot-taking instruction acts on. -/

/-- d differs from c at most in what the work before an instruction changes: banks, FPSR, FREF and the GBAR that it waits out. -/
def Context.primes (c d : Context) : Prop := ∃ bs fl fr gb, d = { c with banks := bs, fpsr := fl, fref := fr, gbar := gb }

theorem Context.primes.refl (c : Context) : c.primes c := ⟨c.banks, c.fpsr, c.fref, c.gbar, rfl⟩

theorem Context.primes.trans {c d e : Context} (h : c.primes d) (k : d.primes e) : c.primes e := by
  obtain ⟨_, _, _, _, rfl⟩ := h
  obtain ⟨bs, fl, fr, gb, rfl⟩ := k
  exact ⟨bs, fl, fr, gb, rfl⟩

theorem Context.banksOnly.primes {c d : Context} (h : c.banksOnly d) : c.primes d := by
  obtain ⟨bs, fl, rfl⟩ := h
  exact ⟨bs, fl, c.fref, c.gbar, rfl⟩

/-- t is s with the work before an instruction of the banks js done. -/
structure State.primes (js : List Nat) (s t : State) : Prop where
  ctx : s.ctx.primes t.ctx
  mem : t.mem = s.mem
  works : s.ctx.workApart js → Context.worksIn js s.ctx t.ctx

theorem State.primes.refl (js : List Nat) (s : State) : State.primes js s s := ⟨.refl _, rfl, fun _ => .refl js _⟩

theorem State.primes.trans {js : List Nat} {s t u : State} (h : State.primes js s t) (k : State.primes js t u) : State.primes js s u :=
  ⟨h.ctx.trans k.ctx, k.mem.trans h.mem, fun ha => (h.works ha).trans (k.works ((h.works ha).apart ha))⟩

theorem State.forceSlot_primes (js : List Nat) (s : State) (core j : Nat) : State.primes js s (s.forceSlot core j) := by
  unfold State.forceSlot
  split
  · dsimp only
    split
    · exact ⟨.refl _, rfl, fun _ => .refl js _⟩
    · next c _ =>
      have hctx : ∀ u : State, (u.updCtx c.id Context.countForced).ctx = if u.ctx.id = c.id then u.ctx.countForced else u.ctx := fun u => rfl
      refine ⟨?_, rfl, fun _ => ?_⟩ <;> rw [hctx] <;> split
      · exact ⟨_, _, _, _, rfl⟩
      · exact .refl _
      · exact ⟨fun _ _ => rfl, fun _ y h => ⟨y, h, rfl⟩⟩
      · exact .refl js _
  · exact .refl js s

theorem State.forced_primes (js : List Nat) (s : State) : State.primes js s s.forced := by
  unfold State.forced
  generalize bankList s.ctx.gmBanks = ks
  generalize s.ctx.core = core
  induction ks generalizing s with
  | nil => exact .refl js s
  | cons k ks ih => exact (s.forceSlot_primes js core k).trans (ih _)

theorem State.settled_primes (s : State) : State.primes (bankList s.ctx.gmBanks) s s.settled :=
  ⟨(s.ctx.drain_lanesOnly _ _).banks.primes, rfl, fun ha => Context.drain_worksIn ha _⟩

theorem State.released_primes (js : List Nat) (s : State) : State.primes js s s.released := by
  unfold State.released
  split
  · exact ⟨⟨_, _, _, _, rfl⟩, rfl, fun _ => ⟨fun _ _ => rfl, fun _ y h => ⟨y, h, rfl⟩⟩⟩
  · exact .refl js s

theorem State.primes.gang {js : List Nat} {s t : State} (h : State.primes js s t) : t.ctx.gmBanks = s.ctx.gmBanks := by
  obtain ⟨_, _, _, _, h⟩ := h.ctx
  rw [h]

theorem State.readied_primes (s : State) : State.primes (bankList s.ctx.gmBanks) s s.readied := by
  have h1 := s.forced_primes (bankList s.ctx.gmBanks)
  have h2 := s.forced.settled_primes
  rw [h1.gang] at h2
  exact (h1.trans h2).trans (State.released_primes _ _)

theorem SlotForm.primed_primes (f : SlotForm) (s : State) : State.primes (bankList s.ctx.gmBanks) s (f.primed s) := by
  unfold SlotForm.primed State.begun
  split
  · exact s.readied_primes
  · split
    · exact s.readied_primes
    · exact s.forced_primes _

theorem Context.primes.intact {c d : Context} (h : c.primes d) {names : List NameF} {ctl : List Nat} {dst : List NameF}
    (hi : c.intact names ctl dst) : d.intact names ctl dst := by
  obtain ⟨_, _, _, _, rfl⟩ := h
  exact hi

/-! The effect over the banks. -/

theorem overBanks_fpsr (run : Nat → Bank → Bank × FpFlags) (js : List Nat) (hj : js.Nodup) (c : Context) (k : Nat) :
    (c.overBanks run js).fpsr.getLsbD k = (c.fpsr.getLsbD k || js.any fun j => (run j (c.bank j)).2.getLsbD k) := by
  induction js generalizing c with
  | nil => simp [Context.overBanks]
  | cons j js ih =>
    have hn := List.nodup_cons.mp hj
    have hrest : (js.any fun x => (run x (((c.setBank j (run j (c.bank j)).1).orFlags (run j (c.bank j)).2).bank x)).2.getLsbD k) =
        js.any fun x => (run x (c.bank x)).2.getLsbD k := by
      rw [Bool.eq_iff_iff]
      simp only [List.any_eq_true, Context.bank_orFlags, Context.bank_setBank]
      refine exists_congr fun x => and_congr_right fun hx => ?_
      rw [if_neg fun e : x = j => hn.1 (e ▸ hx)]
    simp only [Context.overBanks]
    rw [ih hn.2, hrest, List.any_cons, ← Bool.or_assoc]
    congr 1
    exact BitVec.getLsbD_or

theorem Context.overBanks_banksOnly (c : Context) (run : Nat → Bank → Bank × FpFlags) (js : List Nat) : c.banksOnly (c.overBanks run js) := by
  induction js generalizing c with
  | nil => exact .refl c
  | cons j js ih => exact ((c.setBank_banksOnly j _).trans (Context.orFlags_banksOnly _ _)).trans (ih _)

/-- An error mark of a predicate that a compare has written is gone (R369). -/
theorem SlotForm.mend_eq (f : SlotForm) (c : Context) : ∃ b, f.mend c = { c with bad := b } := by
  unfold SlotForm.mend Context.mendPred
  split
  · split
    · exact ⟨c.bad, rfl⟩
    · exact ⟨_, rfl⟩
  · exact ⟨c.bad, rfl⟩

/-- What such an instruction leaves of a stream whose banks hold no work of each other: the other banks, the scalars, and away from a loop
end the shape and the next word. -/
theorem State.start_rest {js : List Nat} {s u : State} (f : SlotForm) (hu : State.primes js s u) (run : Nat → Bank → Bank × FpFlags)
    (hn : js.Nodup) :
    let t := (u.withCtx (f.mend (u.ctx.overBanks run js))).advance
    (∀ j ∈ js, t.ctx.bank j = (run j (u.ctx.bank j)).1) ∧
    (∀ k, t.ctx.fpsr.getLsbD k = (u.ctx.fpsr.getLsbD k || js.any fun j => (run j (u.ctx.bank j)).2.getLsbD k)) ∧
    (s.ctx.workApart js → ∀ j, j ∉ js → t.ctx.bank j = s.ctx.bank j) ∧ t.ctx.scalars = s.ctx.scalars ∧
    (s.ctx.atLoopEnd = false → t.ctx.nrow = s.ctx.nrow ∧ t.ctx.ncol = s.ctx.ncol ∧ t.ctx.pc = s.ctx.pc + 4) ∧
    (s.ctx.trc = false → t.mem = s.mem) := by
  intro t
  obtain ⟨bd, hm⟩ := f.mend_eq (u.ctx.overBanks run js)
  have hbank : ∀ j, t.ctx.bank j = (u.ctx.overBanks run js).bank j := fun j => by
    refine (State.advance_bank _ j).trans ?_
    rw [State.withCtx_ctx, hm]; rfl
  have hframe : ∃ bs fl fr gb bd, f.mend (u.ctx.overBanks run js) =
      { s.ctx with banks := bs, fpsr := fl, fref := fr, gbar := gb, bad := bd } := by
    obtain ⟨bs, fl, hb⟩ := u.ctx.overBanks_banksOnly run js
    obtain ⟨_, _, fr, gb, hc⟩ := hu.ctx
    rw [hm, hb, hc]
    exact ⟨bs, fl, fr, gb, bd, rfl⟩
  refine ⟨fun j hj => ?_, fun k => ?_, fun ha j hj => ?_, ?_, fun he => ?_, fun ht => ?_⟩
  · rw [hbank, overBanks_bank run js hn, if_pos hj]
  · refine (congrArg (BitVec.getLsbD · k) (State.advance_fpsr _)).trans ?_
    rw [State.withCtx_ctx, hm]
    exact overBanks_fpsr run js hn u.ctx k
  · rw [hbank, overBanks_bank run js hn, if_neg hj]
    exact (hu.works ha).others j hj
  · refine (State.advance_scalars _).trans ?_
    obtain ⟨_, _, _, _, _, h⟩ := hframe
    rw [State.withCtx_ctx, h]
  · obtain ⟨_, _, _, _, _, h⟩ := hframe
    have he' : (f.mend (u.ctx.overBanks run js)).atLoopEnd = false := by rw [h]; exact he
    obtain ⟨hc, hs⟩ := Context.not_ends_of_atLoopEnd he'
    rw [show t = _ from State.advance_away _ hc hs]
    rw [h]
    exact ⟨rfl, rfl, rfl⟩
  · obtain ⟨_, _, _, _, _, h⟩ := hframe
    refine (State.advance_mem _ ?_).trans hu.mem
    rw [State.withCtx_ctx, h]
    exact ht

theorem Context.apart.workApart {c : Context} (h : c.apart) : c.workApart (bankList c.gmBanks) := by
  intro x hx q hq j hj y hy he
  have hf := h x hx q hq j hj y hy
  rw [(y.isOne_iff q).mpr he.symm] at hf
  cases hf

/-- Settles O43: the instruction is issued behind the work before it, and its effect is that of its form over the banks of the gang. -/
theorem laneResults : Obligations.LaneResults := by
  unfold Obligations.LaneResults
  intro i f s hf hw hn hm u v js rest hpass hi hun
  have hu : State.primes js s u := f.primed_primes s
  have hgang : bankList u.ctx.gmBanks = js := congrArg bankList hu.gang
  have hnext : f.lazily i u = false ∨ u.ctx.slotsFree = true → exec i s = .next (f.start i u).advance := fun hl => by
    rw [exec_slotForm i f s hf hw]
    exact slotOp_next i f (f.names i) f.reads _ s hf hn hm hpass (sound_ok _ _ _ _ (hu.ctx.intact hi)) hun hl hi.2.2.2
  refine ⟨fun hl hfree => ?_, fun hl => ?_⟩
  · refine ⟨_, hnext (.inr hfree), ?_⟩
    have hstart : f.start i u = u.withCtx (f.mend (u.ctx.overBanks (fun j b => (f.enter i u.ctx u.now j b, 0)) js)) := by
      rw [SlotForm.start, if_pos hl, hgang]
    rw [hstart]
    obtain ⟨hb, hfl, ho, hrest⟩ := State.start_rest f hu (fun j b => (f.enter i u.ctx u.now j b, 0)) (bankList_nodup _)
    refine ⟨hb, BitVec.eq_of_getLsbD_eq fun k _ => ?_, fun ha => ho ha.workApart, hrest⟩
    rw [hfl k]
    simp
  · intro run
    refine ⟨_, hnext (.inl hl), ?_⟩
    have hset := u.settled_primes
    rw [hgang] at hset
    have hstart : f.start i u = v.withCtx (f.mend (v.ctx.overBanks (f.atOnce i v.ctx v.now) js)) := by
      rw [SlotForm.start, if_neg (by rw [hl]; exact Bool.false_ne_true), hgang]
    rw [hstart]
    obtain ⟨hb, hfl, ho, hrest⟩ := State.start_rest f (hu.trans hset) (f.atOnce i v.ctx v.now) (bankList_nodup _)
    exact ⟨hb, hfl, fun ha => ho ha.workApart, hrest⟩

end Sys2Proof.Machine
end

section
/-! The elements that lanes leave in D (R161): O45 tells B's element from its code alone, modulo the result's width, where the work before
the instruction may have given B another tag than the checks saw. -/

namespace Sys2Proof.Machine

/-- A VCOPY v1, v2 in flight that was issued while both were x8: it leaves v1 tagged x8. -/
def narrowCopy : InFlight :=
  { instr := .vcopy false 1 2, pc := 0, gang := 1, next := 0, nrow := 1, ncol := 1, rm := 0, fz := false, sval := 0, sval2 := 0
    tagA := 8, tagB := 0, tagD := 8 }

/-- A bank with narrowCopy in flight, v1 since tagged x32, 0xFF in v2, and k0 bound as x32. -/
def retaggedBank : Bank :=
  { Bank.reset with
    rows := [(1, { RowReg.reset with st := .opened, tag := 10 }), (2, { RowReg.reset with st := .opened, tag := 8, latch := 255 })]
    kname := [(0, 1)], pool := [(0, { KeepRow.reset with tag := 10 })], slots := [narrowCopy] }

/-- A stream of that bank, with lanes that go on beside it, and VL 1. -/
def retagged : State :=
  { State.reset.withCtx { State.reset.ctx with gmBanks := 1, nrow := 1, ncol := 1, banks := [(0, retaggedBank)] } with eager := false }

/-- VADD k0, k0 (last use), v1: its own last use of D's name keeps it from being left in flight. -/
def retaggedAdd : Instr := .vadd true false 8 8 1

/-- The form of retaggedAdd. -/
def retaggedForm : LaneForm := ⟨.add, 8, 8, some 1, true, false⟩

theorem retagged_premises :
    let g := SlotForm.lane retaggedForm
    let u := g.primed retagged
    retagged.mayIssue ∧ retagged.ctx.acceptsAll (laneNames retaggedAdd) ∧ u.allPass (g.faults u) ∧
      retagged.ctx.intact g.reads vecCtl ((g.names retaggedAdd).map Prod.snd) ∧ g.unheld retaggedAdd u ∧ g.lazily retaggedAdd u = false := by
  decide +kernel

/-- After the VCOPY v1 is x8, while A and D are x32. -/
theorem retagged_tags :
    let v := ((SlotForm.lane retaggedForm).primed retagged).settled
    let q := (SlotForm.lane retaggedForm).issue retaggedAdd v.ctx v.now 0
    q.tagA = 10 ∧ q.tagD = 10 ∧ 0 ∈ bankList retagged.ctx.gmBanks ∧ retagged.ctx.vl = 1 := by
  decide +kernel

/-- An unwritten row holds 0 where every row the stream owned before held 0. -/
theorem Bank.openRow_of_clear (b : Bank) (now : Nat) (h : ∀ x ∈ b.history, x = 0) : b.openRow now = 0 := by
  have hget : ∀ n, (0 :: b.history).getD n 0 = 0 := by
    intro n
    rw [List.getD_eq_getElem?_getD]
    cases hn : (0 :: b.history)[n]? with
    | none => rfl
    | some x =>
      rcases List.mem_cons.mp (List.mem_of_getElem? hn) with hx | hx
      · exact hx
      · exact h x hx
  unfold Bank.openRow
  split
  · rfl
  · simp only [hget]
    decide +kernel

/-- Bind an unbound keep name to a row that holds 0. -/
def Bank.bindClear (b : Bank) (k : Nat) : Bank :=
  { b with
    kname := tabPut b.kname k (b.freeRow + 1)
    pool := tabSet KeepRow.reset b.pool b.freeRow KeepRow.reset }

theorem Bank.bind_eq_bindClear (b : Bank) (k now : Nat) (hb : b.bound k = none) (h : ∀ x ∈ b.history, x = 0) :
    b.bind k now = b.bindClear k := by
  simp only [Bank.bind, hb, b.openRow_of_clear now h]
  rfl

theorem SlotForm.atOnce_of_bind (f : SlotForm) (i : Instr) (c : Context) (now j : Nat) (b : Bank) {b' : Bank}
    (h : f.bind c now (f.issue i c now j) (f.release b) = b') :
    (f.atOnce i c now j b).1 = (f.writeTo c now j (f.issue i c now j) (f.total (f.issue i c now j)) b b').1 := by
  rw [SlotForm.atOnce, h]

/-- The stream as its work before retaggedAdd leaves it. -/
def retaggedBefore : State := ((SlotForm.lane retaggedForm).primed retagged).settled

/-- retaggedAdd as bank 0 runs it. -/
def retaggedQ : InFlight := (SlotForm.lane retaggedForm).issue retaggedAdd retaggedBefore.ctx retaggedBefore.now 0

/-- Bank 0 before retaggedAdd, its row given back. -/
def retaggedFreed : Bank := (SlotForm.lane retaggedForm).release (retaggedBefore.ctx.bank 0)

/-- What retaggedAdd leaves in bank 0, told by a row that opens with 0. -/
def retaggedLeft : Bank :=
  ((SlotForm.lane retaggedForm).writeTo retaggedBefore.ctx retaggedBefore.now 0 retaggedQ ((SlotForm.lane retaggedForm).total retaggedQ)
    (retaggedBefore.ctx.bank 0) (retaggedFreed.bindClear 0)).1

theorem retagged_group : retaggedBefore.ctx.groupSize 8 retaggedQ.tagD ((SlotForm.lane retaggedForm).total retaggedQ) = 1 := by
  decide +kernel

theorem retaggedFreed_bound : retaggedFreed.bound 0 = none := by
  decide +kernel

theorem eq_zero_of_toNat {w : Nat} (x : BitVec w) (h : x.toNat = 0) : x = 0 :=
  BitVec.eq_of_toNat_eq (h.trans BitVec.toNat_zero.symm)

theorem retaggedFreed_history : ∀ x ∈ retaggedFreed.history, x = 0 := by
  have h : retaggedFreed.history.all (fun x => decide (x.toNat = 0)) = true := by decide +kernel
  exact fun x hx => eq_zero_of_toNat x (of_decide_eq_true (List.all_eq_true.mp h x hx))

theorem retagged_bind : (SlotForm.lane retaggedForm).bind retaggedBefore.ctx retaggedBefore.now retaggedQ retaggedFreed =
    retaggedFreed.bindClear 0 := by
  have hd : (SlotForm.lane retaggedForm).dest.toNat = 8 := rfl
  rw [SlotForm.bind, if_pos (show isReg _ = true by decide +kernel), Context.bindGroup, hd, if_pos (le_refl 8), retagged_group]
  exact retaggedFreed.bind_eq_bindClear 0 _ retaggedFreed_bound retaggedFreed_history

theorem retaggedLeft_code : (retaggedBefore.ctx.regVec retaggedLeft retaggedBefore.now 8 retaggedQ.tagD 1).code 0 = 0xFFFFFFFF := by
  decide +kernel

theorem retaggedLeft_kname : retaggedLeft.kname = [(0, 1)] := by
  decide +kernel

theorem retaggedLeft_rowsApart : retaggedLeft.rowsApart := by
  have hone : ∀ n r, retaggedLeft.bound n = some r → n = 0 := by
    intro n r h
    by_contra hn
    simp [Bank.bound, retaggedLeft_kname, tabGet, tabFind, Ne.symm hn] at h
  intro m n r hm hn
  rw [hone m r hm, hone n r hn]

/-- v1's 0xFF is added as −1, the number its tag gives it, and not as 255. -/
theorem retagged_sum :
    let c := retaggedBefore.ctx
    let q := retaggedQ
    let x := retaggedForm.inputs c retaggedBefore.now (c.bank 0) q.tagA q.tagB q.tagD q.tagD q.count q.rm q.fz q.sval
    (BitVec.ofNat (tagBits q.tagD) (x.a.code 0) + BitVec.ofNat (tagBits q.tagD) (x.b.code 0)).toNat = 255 := by
  decide +kernel

theorem retagged_atOnce : ((SlotForm.lane retaggedForm).atOnce retaggedAdd retaggedBefore.ctx retaggedBefore.now 0
    (retaggedBefore.ctx.bank 0)).1 = retaggedLeft :=
  SlotForm.atOnce_of_bind _ _ _ _ _ _ retagged_bind

theorem exec_retaggedAdd : ∃ t, exec retaggedAdd retagged = .next t ∧ t.ctx.bank 0 = retaggedLeft := by
  obtain ⟨hm, hn, hp, hi, hu, hl⟩ := retagged_premises
  obtain ⟨-, h⟩ := laneResults retaggedAdd (SlotForm.lane retaggedForm) retagged rfl rfl hn hm hp hi hu
  obtain ⟨t, ht, hb, -⟩ := h hl
  exact ⟨t, ht, (hb 0 retagged_tags.2.2.1).trans retagged_atOnce⟩

/-- Refutes O45: an instruction in flight that tags B's register anew, as it completes before a VADD that its own last use makes wait, gives
B another width than D. -/
theorem not_laneElements : ¬ Obligations.LaneElements := by
  unfold Obligations.LaneElements
  intro h
  obtain ⟨hm, hn, hp, hi, hu, hl⟩ := retagged_premises
  obtain ⟨hA, hD, hj, hvl⟩ := retagged_tags
  obtain ⟨hadd, -⟩ := h retagged true false 8 8 1 0 0 hm
  obtain ⟨t, ht, hb⟩ := hadd retaggedForm rfl rfl hn hp hi hu hl
  obtain ⟨t', ht', hleft⟩ := exec_retaggedAdd
  obtain rfl : t' = t := by injection ht'.symm.trans ht
  obtain ⟨-, he⟩ := hb 0 hj
  have he := he rfl (fun _ => ⟨congrArg tagI hA, congrArg tagI hD⟩) (.inr (hleft ▸ retaggedLeft_rowsApart)) 0 (by rw [hvl]; exact Nat.one_pos)
  rw [hleft, hvl] at he
  exact absurd (retaggedLeft_code.symm.trans (he.trans retagged_sum)) (by decide)

end Sys2Proof.Machine
end

section
/-! Where the access of a memory instruction of the scalar class stops (R41, R216): its translation, its memory, a mark. -/

namespace Sys2Proof.Machine

/-! ## A translation: the checks in their order (R41) -/

theorem State.locate_misaligned (s : State) (token va : Word) (sup : Bool) (kind : AccessKind) (n : Nat) (h : va.toNat % n ≠ 0) :
    s.locate token sup va kind n = trapS 0x0F va := by
  simp [State.locate, require, h, trapS, bind, Except.bind]

theorem State.locate_outside (s : State) (token va : Word) (sup : Bool) (kind : AccessKind) (n : Nat) (h : va.toNat % n = 0)
    (hr : 2 ^ 56 ≤ va.toNat) : s.locate token sup va kind n = trapS 0x0C va := by
  have hd : decide (va.toNat < 2 ^ 56) = false := decide_eq_false (Nat.not_lt.mpr hr)
  simp only [State.locate, require, h, hd, decide_true, if_true, trapS, bind, Except.bind, Bool.false_eq_true, if_false]

theorem State.locate_inside (s : State) (token va : Word) (sup : Bool) (kind : AccessKind) (n : Nat) (h : va.toNat % n = 0)
    (hr : va.toNat < 2 ^ 56) : s.locate token sup va kind n = (do
      let e ← s.pageOf token va.toNat
      require (e.permits kind sup) 0x09 va
      return (e.frame + va.toNat % e.size, e)) := by
  simp only [State.locate, require, h, hr, decide_true, if_true, bind, Except.bind]

/-! ## The stop of an access -/

/-- i stops at the state s with e, its request to memory listed or not. -/
def State.stopsAt (s : State) (i : Instr) (e : Stop) : Prop :=
  ∃ asking : List Request, exec i s = (s.withCtx { s.ctx with asking := asking }).finish (.error e)

theorem State.stopsAt_of_finish {s : State} {i : Instr} {e : Stop} (h : exec i s = s.finish (.error e)) : s.stopsAt i e :=
  ⟨s.ctx.asking, h⟩

theorem State.stopsAt_of_asks {s : State} {i : Instr} {e : Stop} (dest pa n : Nat) (h : exec i s = (s.asks dest pa n).finish (.error e)) :
    s.stopsAt i e :=
  ⟨_, h⟩

theorem State.stopsAt_of_asked {s : State} {i : Instr} {e : Stop} (plain : Bool) (va : Word) (kind : AccessKind) (n : Nat)
    (h : exec i s = (s.asked plain va kind n).finish (.error e)) : s.stopsAt i e := by
  unfold State.asked at h
  split at h
  · exact State.stopsAt_of_asks _ _ _ h
  · exact State.stopsAt_of_finish h

/-- i makes the access q: it stops where the translation fails, where the memory is not there and where a sector it reads is marked. -/
def Access.stops (q : Access) (i : Instr) (s : State) : Prop :=
  (∀ e, s.locate s.ctx.owner s.ctx.sup q.va q.kind q.n = .error e → s.stopsAt i e) ∧
  ∀ pa e, s.locate s.ctx.owner s.ctx.sup q.va q.kind q.n = .ok (pa, e) → spaceOf pa = .device →
    (s.backed q.plain pa = false → s.stopsAt i (.trap 0x0C q.va none)) ∧
    ∀ k, s.backed q.plain pa = true → (∀ d a f x, i ≠ .st d a f x ∧ i ≠ .stRel d a f x) → s.accessGoes i pa e q.n →
      s.markCause (s.locOf pa) q.n = some k → s.stopsAt i (.trap k q.va none)

theorem offsetAddr_toInt {w : Nat} (base : Word) (imm : BitVec w) (n : Nat) :
    offsetAddr base w imm.toNat n = base + BitVec.ofInt 64 (imm.toInt * n) := by
  have h : toSigned w imm.toNat = imm.toInt := by
    rw [toSigned, BitVec.toInt_eq_toNat_cond, Nat.mod_eq_of_lt imm.isLt]
    push_cast
    rfl
  rw [offsetAddr, h]

theorem State.fetchFrom_marked (s : State) (dest : Nat) (va : Word) (pa n k : Nat) (hm : s.mayAccessTo dest pa n = true)
    (hb : s.blocked pa n = false) (hk : s.markCause (s.locOf pa) n = some k) : s.fetchFrom dest va pa n = trapS k va := by
  simp [State.fetchFrom, hm, hb, hk, waitUnless, bind, Except.bind]

theorem State.fetchData_marked (s : State) (va : Word) (pa n k : Nat) (hm : s.mayAccess pa n = true)
    (hb : s.blocked pa n = false) (hk : s.markCause (s.locOf pa) n = some k) : s.fetchData va pa n = trapS k va := by
  rw [State.fetchData, s.fetchFrom_marked _ va pa n k hm hb hk]
  rfl

theorem State.translate_error (s : State) (plain : Bool) (va : Word) (kind : AccessKind) (n : Nat) (e : Stop)
    (h : s.locate s.ctx.owner s.ctx.sup va kind n = .error e) : s.translate plain va kind n = .error e := by
  rw [State.translate, State.translateAs, h]
  rfl

theorem State.translate_absent (s : State) (plain : Bool) (va : Word) (kind : AccessKind) (n pa : Nat) (e : Page)
    (h : s.locate s.ctx.owner s.ctx.sup va kind n = .ok (pa, e)) (hb : s.backed plain pa = false) :
    s.translate plain va kind n = trapS 0x0C va := by
  rw [State.translate, State.translateAs, h]
  simp [bind, Except.bind, hb, require, trapS]

theorem State.translate_backed (s : State) (plain : Bool) (va : Word) (kind : AccessKind) (n pa : Nat) (e : Page)
    (h : s.locate s.ctx.owner s.ctx.sup va kind n = .ok (pa, e)) (hb : s.backed plain pa = true) :
    s.translate plain va kind n = .ok (pa, e) := by
  rw [State.translate, State.translateAs, h]
  simp [bind, Except.bind, hb, require, pure, Except.pure]

theorem Access.stops_of_translate {q : Access} {i : Instr} {s : State}
    (hstop : ∀ e, s.translate q.plain q.va q.kind q.n = .error e → s.stopsAt i e)
    (hmark : ∀ pa e k, s.translate q.plain q.va q.kind q.n = .ok (pa, e) → spaceOf pa = .device →
      (∀ d a f x, i ≠ .st d a f x ∧ i ≠ .stRel d a f x) → s.accessGoes i pa e q.n → s.markCause (s.locOf pa) q.n = some k →
      s.stopsAt i (.trap k q.va none)) : q.stops i s :=
  ⟨fun e h => hstop e (s.translate_error _ _ _ _ e h), fun pa e h hd =>
    ⟨fun hb => hstop _ (s.translate_absent _ _ _ _ pa e h hb), fun k hb hs hg hk =>
      hmark pa e k (s.translate_backed _ _ _ _ pa e h hb) hd hs hg hk⟩⟩

/-! ## The instructions -/

theorem loadData_error (s : State) (plain : Bool) (va : Word) (n : Nat) (e : Stop) (h : s.translate plain va .read n = .error e) :
    s.loadData plain va n = .error e := by
  rw [State.loadData, h]
  rfl

theorem loadData_marked (s : State) (plain : Bool) (va : Word) (n pa k : Nat) (e : Page) (h : s.translate plain va .read n = .ok (pa, e))
    (hd : spaceOf pa = .device) (hm : s.mayAccess pa n = true) (hb : s.blocked pa n = false)
    (hk : s.markCause (s.locOf pa) n = some k) : s.loadData plain va n = trapS k va := by
  rw [State.loadData, h]
  simp [bind, Except.bind, hd, s.fetchData_marked va pa n k hm hb hk, trapS]

theorem loadOp_error (i : Instr) (plain : Bool) (d a : NameF) (f : BitVec 3) (imm : BitVec 9) (s : State) (e : Stop)
    (hf : f.toNat ≤ 6) (hn : s.ctx.acceptsAll [(clsS, d), (clsS, a)])
    (h : s.loadData (plain && decide (f.toNat = 6)) (s.ctx.read a + BitVec.ofInt 64 (imm.toInt * loadSize f)) (loadSize f) = .error e) :
    loadOp i plain d a f imm s =
      (s.asked (plain && decide (f.toNat = 6)) (s.ctx.read a + BitVec.ofInt 64 (imm.toInt * loadSize f)) .read (loadSize f)).finish
        (.error e) := by
  rw [← offsetAddr_toInt] at h ⊢
  simp [loadOp, require, hf, checkNames_ok _ _ hn, h, bind, Except.bind]


theorem storeOp_error (rel : Bool) (d a : NameF) (f : BitVec 2) (imm : BitVec 9) (s : State) (e : Stop)
    (hn : s.ctx.acceptsAll [(clsS, d), (clsS, a)])
    (h : s.translate (!rel && decide (f.toNat = 3)) (s.ctx.read a + BitVec.ofInt 64 (imm.toInt * storeSize f)) .write (storeSize f) =
      .error e) :
    storeOp rel d a f imm s =
      (s.asked (!rel && decide (f.toNat = 3)) (s.ctx.read a + BitVec.ofInt 64 (imm.toInt * storeSize f)) .write (storeSize f)).finish
        (.error e) := by
  rw [← offsetAddr_toInt] at h ⊢
  simp [storeOp, State.storeData, checkNames_ok _ _ hn, h, bind, Except.bind]

theorem execLdc_error (d a : NameF) (imm : BitVec 10) (s : State) (e : Stop) (hn : s.ctx.acceptsAll [(clsS, d), (clsS, a)])
    (h : s.translate false (offsetAddr (s.ctx.read a) 10 imm.toNat 8) .read 8 = .error e) : execLdc d a imm s = s.finish (.error e) := by
  simp [execLdc, checkNames_ok _ _ hn, h, bind, Except.bind]

theorem execLdc_marked (d a : NameF) (imm : BitVec 10) (s : State) (pa k : Nat) (e : Page) (hn : s.ctx.acceptsAll [(clsS, d), (clsS, a)])
    (h : s.translate false (offsetAddr (s.ctx.read a) 10 imm.toNat 8) .read 8 = .ok (pa, e)) (hc : s.cached pa e = none)
    (hm : s.mayAccessTo cacheDest pa 8 = true) (hb : s.blocked pa 8 = false) (hk : s.markCause (s.locOf pa) 8 = some k) :
    execLdc d a imm s = (s.asks cacheDest pa 8).finish (trapS k (offsetAddr (s.ctx.read a) 10 imm.toNat 8)) := by
  simp [execLdc, checkNames_ok _ _ hn, h, hc, s.fetchFrom_marked _ _ pa 8 k hm hb hk, bind, Except.bind, trapS]

theorem waitwOp_error (d a : NameF) (s : State) (ok : Word → Word → Bool) (e : Stop) (h : waitwRead d a s = .error e) :
    waitwOp d a s ok = (s.asked false (s.ctx.read a) .read 8).finish (.error e) := by
  rw [waitwOp, h]

/-- A load stops where its translation does, and at a marked sector. -/
theorem loadOp_stops (i : Instr) (plain : Bool) (d a : NameF) (f : BitVec 3) (imm : BitVec 9) (s : State)
    (hx : exec i s = loadOp i plain d a f imm s) (hf : f.toNat ≤ 6) (hn : s.ctx.acceptsAll [(clsS, d), (clsS, a)])
    (hgo : ∀ pa e n, s.accessGoes i pa e n → s.mayAccess pa n = true ∧ s.blocked pa n = false) :
    Access.stops ⟨plain && decide (f.toNat = 6), s.ctx.read a + BitVec.ofInt 64 (imm.toInt * loadSize f), .read, loadSize f⟩ i s := by
  refine Access.stops_of_translate (fun e h => ?_) (fun pa e k h hd _ hg hk => ?_) <;>
    refine State.stopsAt_of_asked _ _ _ _ (hx.trans (loadOp_error i _ d a f imm s _ hf hn ?_))
  · exact loadData_error _ _ _ _ e h
  · obtain ⟨hm, hb⟩ := hgo pa e _ hg
    exact loadData_marked _ _ _ _ pa k e h hd hm hb hk

theorem storeOp_stops (i : Instr) (rel : Bool) (d a : NameF) (f : BitVec 2) (imm : BitVec 9) (s : State)
    (hx : exec i s = storeOp rel d a f imm s) (hn : s.ctx.acceptsAll [(clsS, d), (clsS, a)])
    (hi : ¬ ∀ d a f x, i ≠ .st d a f x ∧ i ≠ .stRel d a f x) :
    Access.stops ⟨!rel && decide (f.toNat = 3), s.ctx.read a + BitVec.ofInt 64 (imm.toInt * storeSize f), .write, storeSize f⟩ i s :=
  Access.stops_of_translate (fun e h => State.stopsAt_of_asked _ _ _ _ (hx.trans (storeOp_error rel d a f imm s e hn h)))
    fun _ _ _ _ _ hs => absurd hs hi

theorem execLdc_stops (d a : NameF) (imm : BitVec 10) (s : State) (hn : s.ctx.acceptsAll [(clsS, d), (clsS, a)]) :
    Access.stops ⟨false, s.ctx.read a + BitVec.ofInt 64 (imm.toInt * 8), .read, 8⟩ (.ldc d a imm) s := by
  rw [show s.ctx.read a + BitVec.ofInt 64 (imm.toInt * 8) = offsetAddr (s.ctx.read a) 10 imm.toNat 8 from (offsetAddr_toInt _ imm 8).symm]
  refine Access.stops_of_translate (fun e h => ?_) (fun pa e k h _ _ hg hk => ?_)
  · exact State.stopsAt_of_finish (execLdc_error d a imm s e hn h)
  · obtain ⟨hm, hb, hc⟩ : s.mayAccessTo cacheDest pa 8 = true ∧ s.blocked pa 8 = false ∧ s.cached pa e = none := hg
    exact State.stopsAt_of_asks _ _ _ (execLdc_marked d a imm s pa k e hn h hc hm hb hk)

theorem waitwRead_marked (d a : NameF) (s : State) (pa k : Nat) (e : Page) (hn : s.ctx.acceptsAll [(clsS, d), (clsS1, a)])
    (h : s.translate false (s.ctx.read a) .read 8 = .ok (pa, e)) (hm : s.mayAccess pa 8 = true) (hb : s.blocked pa 8 = false)
    (hk : s.markCause (s.locOf pa) 8 = some k) : waitwRead d a s = trapS k (s.ctx.read a) := by
  simp [waitwRead, checkNames_ok _ _ hn, h, s.fetchData_marked _ pa 8 k hm hb hk, bind, Except.bind, trapS]

theorem waitwOp_stops (i : Instr) (d a : NameF) (s : State) (ok : Word → Word → Bool) (hx : exec i s = waitwOp d a s ok)
    (hn : s.ctx.acceptsAll [(clsS, d), (clsS1, a)])
    (hgo : ∀ pa e n, s.accessGoes i pa e n → s.mayAccess pa n = true ∧ s.blocked pa n = false) :
    Access.stops ⟨false, s.ctx.read a, .read, 8⟩ i s := by
  refine Access.stops_of_translate (fun e h => ?_) (fun pa e k h _ _ hg hk => ?_) <;>
    refine State.stopsAt_of_asked _ _ _ _ (hx.trans (waitwOp_error d a s ok _ ?_))
  · simp [waitwRead, checkNames_ok _ _ hn, h, bind, Except.bind]
  · obtain ⟨hm, hb⟩ := hgo pa e _ hg
    exact waitwRead_marked d a s pa k e hn h hm hb hk

/-- A computation stops with e where its first part does, told by another continuation. -/
theorem bind_error_mono {α β γ : Type} {x : Except Stop α} {f : α → Except Stop β} {g : α → Except Stop γ} {e : Stop}
    (h : x >>= f = .error e) (hfg : ∀ v, f v = .error e → g v = .error e) : x >>= g = .error e := by
  cases x with
  | error e' =>
    obtain rfl : e' = e := by injection h
    rfl
  | ok v => exact hfg v h

/-- The checks of an atomic up to its read of memory, n bytes. -/
def State.atomicRead (s : State) (op : AtomicOp) (o : BitVec 2) (va : Word) (n : Nat) : Except Stop (Nat × State) := do
  let (pa, _) ← s.locate s.ctx.owner s.ctx.sup va .write n
  require (!(isHost pa && !atomicOnHost op)) 0x09 va
  require (s.backed false pa) 0x0C va
  waitUnless (!(ordReleases o && s.postedBy s.ctx.id))
  s.fetchData va pa n

theorem atomicOp_stopsAt (i : Instr) (op : AtomicOp) (names : List (List NameClass × NameF)) (d a : NameF) (w : Bool) (o : BitVec 2)
    (c : BitVec 3) (s : State) (e : Stop) (hx : exec i s = atomicOp i op names d a w o c s) (hc : c.toNat ≤ 5)
    (hn : s.ctx.acceptsAll names) (h : s.atomicRead op o (s.ctx.read a) (if w then 4 else 8) = .error e) : s.stopsAt i e := by
  have hw : (if w then 32 else 64) / 8 = if w then 4 else 8 := by cases w <;> rfl
  have hx' : exec i s = (if ordReleases o && s.postedBy s.ctx.id then s else s.asked false (s.ctx.read a) .write (if w then 4 else 8)).finish
      (.error e) := by
    rw [hx, atomicOp]
    dsimp only
    rw [hw]
    refine congrArg _ ?_
    simp only [require, hc, decide_true, if_true, checkNames_ok _ _ hn]
    refine bind_error_mono (x := s.locate _ _ _ _ _) h fun ⟨pa, pg⟩ h => bind_error_mono h fun _ h => bind_error_mono h fun _ h =>
      bind_error_mono h fun _ h => ?_
    rw [h]
    rfl
  split at hx'
  · exact State.stopsAt_of_finish hx'
  · exact State.stopsAt_of_asked _ _ _ _ hx'

theorem isHost_device {pa : Nat} (h : spaceOf pa = .device) : isHost pa = false := by
  rw [isHost, h]

theorem atomicOp_stops (i : Instr) (op : AtomicOp) (names : List (List NameClass × NameF)) (d a : NameF) (w : Bool) (o : BitVec 2)
    (c : BitVec 3) (s : State) (hx : exec i s = atomicOp i op names d a w o c s) (hc : c.toNat ≤ 5) (hn : s.ctx.acceptsAll names)
    (hgo : ∀ pa e n, s.accessGoes i pa e n →
      s.mayAccess pa n = true ∧ s.blocked pa n = false ∧ (2 ≤ o.toNat → s.postedBy s.ctx.id = false)) :
    Access.stops ⟨false, s.ctx.read a, .write, if w then 4 else 8⟩ i s := by
  refine ⟨fun e h => atomicOp_stopsAt i op names d a w o c s e hx hc hn ?_, fun pa e h hd => ⟨fun hb => ?_, fun k hb _ hg hk => ?_⟩⟩
  · dsimp only at h
    simp [State.atomicRead, h, bind, Except.bind]
  · refine atomicOp_stopsAt i op names d a w o c s _ hx hc hn ?_
    dsimp only at h hb
    simp [State.atomicRead, h, isHost_device hd, hb, require, bind, Except.bind, trapS]
  · refine atomicOp_stopsAt i op names d a w o c s _ hx hc hn ?_
    obtain ⟨hm, hbl, hp⟩ := hgo pa e _ hg
    dsimp only at h hb hm hbl hk
    have hr : (!(ordReleases o && s.postedBy s.ctx.id)) = true := by
      by_cases ho : 2 ≤ o.toNat <;> simp [ordReleases, ho, hp]
    simp [State.atomicRead, h, isHost_device hd, hb, hr, s.fetchData_marked _ pa _ k hm hbl hk, require, waitUnless, bind, Except.bind, trapS]

/-- The checks of CLAIM up to its read of memory. -/
def State.claimRead (s : State) (va : Word) : Except Stop (Nat × State) := do
  let (pa, _) ← s.locate s.ctx.owner s.ctx.sup va .write 16
  require (decide (spaceOf pa = .device ∨ spaceOf pa = .control ∨ spaceOf pa = .none)) 0x09 va
  require (s.backed false pa) 0x0C va
  s.fetchData va pa 16

theorem execClaim_stopsAt (d a b : NameF) (s : State) (e : Stop) (hn : s.ctx.acceptsAll [(clsS, d), (clsS1, a), (clsS1, b)])
    (h : s.claimRead (s.ctx.read a) = .error e) : s.stopsAt (.claim d a b) e := by
  refine State.stopsAt_of_asked false (s.ctx.read a) .write 16 ?_
  change execClaim d a b s = _
  rw [execClaim]
  refine congrArg _ ?_
  simp only [checkNames_ok _ _ hn]
  refine bind_error_mono (x := s.locate _ _ _ _ _) h fun ⟨pa, pg⟩ h => bind_error_mono h fun _ h => bind_error_mono h fun _ h => ?_
  rw [h]
  rfl

theorem execClaim_stops (d a b : NameF) (s : State) (hn : s.ctx.acceptsAll [(clsS, d), (clsS1, a), (clsS1, b)]) :
    Access.stops ⟨false, s.ctx.read a, .write, 16⟩ (.claim d a b) s := by
  refine ⟨fun e h => execClaim_stopsAt d a b s e hn ?_, fun pa e h hd => ⟨fun hb => ?_, fun k hb _ hg hk => ?_⟩⟩
  · dsimp only at h
    simp [State.claimRead, h, bind, Except.bind]
  · refine execClaim_stopsAt d a b s _ hn ?_
    dsimp only at h hb
    simp [State.claimRead, h, hd, hb, require, bind, Except.bind, trapS]
  · refine execClaim_stopsAt d a b s _ hn ?_
    obtain ⟨hm, hbl⟩ : s.mayAccess pa 16 = true ∧ s.blocked pa 16 = false := hg
    dsimp only at h hb hk
    simp [State.claimRead, h, hd, hb, s.fetchData_marked _ pa _ k hm hbl hk, require, bind, Except.bind, trapS]

/-! ## O35 -/

theorem accessOf_stops (i : Instr) (s : State) (q : Access) (hw : i.wf = true) (hn : s.ctx.acceptsAll (scalarNames i))
    (hq : s.ctx.accessOf i = some q) : q.stops i s := by
  cases i <;> simp only [Context.accessOf, reduceCtorEq, Option.some.injEq] at hq <;> subst hq
  case ld d a f imm => exact loadOp_stops _ true d a f imm s rfl (of_decide_eq_true hw) hn fun _ _ _ h => h
  case ldAcq d a f imm => exact loadOp_stops _ false d a f imm s rfl (of_decide_eq_true hw) hn fun _ _ _ h => h
  case st d a f imm => exact storeOp_stops _ false d a f imm s rfl hn fun h => (h d a f imm).1 rfl
  case stRel d a f imm => exact storeOp_stops _ true d a f imm s rfl hn fun h => (h d a f imm).2 rfl
  case ldc d a imm => exact execLdc_stops d a imm s hn
  case claim d a b => exact execClaim_stops d a b s hn
  case waitwEq d a => exact waitwOp_stops _ d a s (fun v w => decide (v = w)) rfl hn fun _ _ _ h => h
  case waitwNe d a => exact waitwOp_stops _ d a s (fun v w => decide (v ≠ w)) rfl hn fun _ _ _ h => h
  case waitwGe d a => exact waitwOp_stops _ d a s (fun v w => decide (w.toNat ≤ v.toNat)) rfl hn fun _ _ _ h => h
  all_goals exact atomicOp_stops _ _ _ _ _ _ _ _ s rfl (of_decide_eq_true hw) hn fun _ _ _ h => h

theorem accessOf_isInvalidation (c : Context) (i : Instr) (q : Access) (h : c.accessOf i = some q) : isInvalidation i = false := by
  unfold isInvalidation
  split
  case h_1 => cases h
  case h_2 => cases h
  case h_3 => cases h
  case h_4 => rfl

theorem State.traps_of_stopsAt (s : State) (i : Instr) (q : Access) (k : Nat) (v : Word) (b : Option Nat) (hq : s.ctx.accessOf i = some q)
    (h : s.stopsAt i (.trap k v b)) : s.traps i k v b := by
  obtain ⟨asking, h⟩ := h
  refine ⟨asking, fun hnone => ?_, ?_⟩
  · rw [hq] at hnone
    cases hnone
  · rw [accessOf_isInvalidation _ i q hq, Bool.or_false]
    exact h

/-- Settles O35: each instruction translates its one access before anything else that can stop it. -/
theorem accessTraps : Obligations.AccessTraps := by
  unfold Obligations.AccessTraps
  intro i s q hw hn hq
  obtain ⟨hstop, hgo⟩ := accessOf_stops i s q hw hn hq
  have htrap : ∀ k v b, s.locate s.ctx.owner s.ctx.sup q.va q.kind q.n = .error (.trap k v b) → s.traps i k v b := fun k v b h =>
    s.traps_of_stopsAt i q k v b hq (hstop _ h)
  refine ⟨fun h => htrap _ _ _ (s.locate_misaligned _ _ _ _ _ h), fun h hr => htrap _ _ _ (s.locate_outside _ _ _ _ _ h hr), fun h hr => ?_⟩
  have hin := s.locate_inside s.ctx.owner q.va s.ctx.sup q.kind q.n h hr
  refine ⟨fun k v b hp => htrap k v b ?_, fun e hp => ⟨fun hperm => htrap _ _ _ ?_, fun hperm => ?_⟩⟩
  · rw [hin, hp]
    rfl
  · rw [hin, hp]
    simp [require, hperm, bind, Except.bind, trapS]
  · intro pa hd
    obtain ⟨hab, hmark⟩ := hgo pa e (by rw [hin, hp]; simp [require, hperm, bind, Except.bind, pure, Except.pure, pa]) hd
    exact ⟨fun hb => s.traps_of_stopsAt i q _ _ _ hq (hab hb), fun k hb hs hg hk => s.traps_of_stopsAt i q _ _ _ hq (hmark k hb hs hg hk)⟩

end Sys2Proof.Machine
end

section
/-! The steps of a stream's engines, of refresh, of the sensors and of the governor (R124, R152 to R158, R165, R346 to R350, R401). -/

namespace Sys2Proof.Machine

/-! ## The tables of cores, tiers and stacks -/

@[simp] theorem State.core_setCore (s : State) (k x : Nat) (r : CoreRec) : (s.setCore k r).core x = if x = k then r else s.core x := by
  unfold State.core State.setCore
  by_cases h : x = k
  · subst h
    simp
  · unfold tabSet
    split <;> simp [h]

@[simp] theorem State.tier_setTier (s : State) (k x : Nat) (r : TierRec) : (s.setTier k r).tier x = if x = k then r else s.tier x := by
  simp [State.tier, State.setTier]

@[simp] theorem State.stack_setStack (s : State) (k x : Nat) (r : StackRec) :
    (s.setStack k r).stack x = if x = k then r else s.stack x := by
  simp [State.stack, State.setStack]

theorem CoreRec.refresh_debt (r : CoreRec) (j i : Nat) :
    tabGet 0 (r.refresh j).debt i = if i = j then tabGet 0 r.debt j - 1 else tabGet 0 r.debt i := by
  simp [CoreRec.refresh]

theorem CoreRec.accrue_debt (r : CoreRec) (j i : Nat) :
    tabGet 0 (r.accrue j).debt i = if i = j then min 8 (tabGet 0 r.debt j + 1) else tabGet 0 r.debt i := by
  simp [CoreRec.accrue]

/-! ## Refresh slots (R155, R156, R158) -/

/-- The debt of a bank once its forced slot has run (R158). -/
def debtForced (d : Nat) : Nat := if d = 8 then 7 else d

theorem State.forceSlot_core (s : State) (k j x : Nat) :
    (s.forceSlot k j).core x = if x = k ∧ tabGet 0 (s.core k).debt j = 8 then (s.core k).refresh j else s.core x := by
  have hupd : ∀ (t : State) (id : Nat) (f : Context → Context), (t.updCtx id f).core x = t.core x := fun _ _ _ => rfl
  unfold State.forceSlot
  split
  · next h =>
    dsimp only
    split <;> simp [hupd, h]
  · next h => rw [if_neg fun e => h e.2]

theorem State.forceSlot_mem (s : State) (k j : Nat) : (s.forceSlot k j).mem = s.mem := by
  unfold State.forceSlot
  split
  · dsimp only
    split <;> rfl
  · rfl

theorem State.forceSlot_tiers (s : State) (k j : Nat) : (s.forceSlot k j).tiers = s.tiers := by
  unfold State.forceSlot
  split
  · dsimp only
    split <;> rfl
  · rfl

theorem State.forceSlot_debt (s : State) (k j i : Nat) : tabGet 0 ((s.forceSlot k j).core k).debt i =
    if i = j then debtForced (tabGet 0 (s.core k).debt j) else tabGet 0 (s.core k).debt i := by
  rw [s.forceSlot_core k j k]
  by_cases h : tabGet 0 (s.core k).debt j = 8
  · rw [if_pos ⟨rfl, h⟩, CoreRec.refresh_debt, h]
    rfl
  · rw [if_neg fun e => h e.2, debtForced, if_neg h]
    split
    · next e => rw [e]
    · rfl

theorem State.forceSlot_refReq (s : State) (k j : Nat) : ((s.forceSlot k j).core k).refReq = (s.core k).refReq := by
  rw [s.forceSlot_core k j k]
  split <;> rfl

theorem CoreRec.startRef_of_none (r : CoreRec) (j : Nat) (h : tabGet [] r.refReq j = []) : r.startRef j = r := by
  rw [CoreRec.startRef, h]

theorem CoreRec.startRef_debt (r : CoreRec) (j : Nat) (e : Nat × Bool) (rest : List (Nat × Bool)) (h : tabGet [] r.refReq j = e :: rest) :
    tabGet 0 (r.startRef j).debt j = tabGet 0 r.debt j - min 1 (min e.1 (tabGet 0 r.debt j)) := by
  rw [CoreRec.startRef, h]
  dsimp only
  split
  · split
    · next hn => simp [hn]
    · next h1 hn =>
      show tabGet 0 (r.refresh j).debt j = _
      rw [r.refresh_debt, if_pos rfl]
      omega
  · next h1 =>
    show tabGet 0 (r.refresh j).debt j = _
    rw [r.refresh_debt, if_pos rfl]
    omega

theorem CoreRec.startRef_refReq (r : CoreRec) (j : Nat) (e : Nat × Bool) (rest : List (Nat × Bool)) (h : tabGet [] r.refReq j = e :: rest) :
    tabGet [] (r.startRef j).refReq j = if min e.1 (tabGet 0 r.debt j) ≤ 1 then rest else (min e.1 (tabGet 0 r.debt j) - 1, true) :: rest := by
  rw [CoreRec.startRef, h]
  dsimp only
  split <;> simp

theorem refreshSlot_asked (s : State) (k j : Nat) (e : Nat × Bool) (rest : List (Nat × Bool))
    (h : tabGet [] (s.core k).refReq j = e :: rest) :
    let w := debtForced (tabGet 0 (s.core k).debt j)
    let n := min e.1 w
    ∃ t, exec (.refreshSlot k j) s = .next t ∧ tabGet 0 (t.core k).debt j = w - min 1 n ∧
      tabGet [] (t.core k).refReq j = (if n ≤ 1 then rest else (n - 1, true) :: rest) ∧ t.mem = s.mem := by
  intro w n
  have hne : tabGet [] (s.core k).refReq j ≠ [] := by rw [h]; exact List.cons_ne_nil _ _
  have hw : tabGet 0 ((s.forceSlot k j).core k).debt j = w := by rw [s.forceSlot_debt, if_pos rfl]
  have hq : tabGet [] ((s.forceSlot k j).core k).refReq j = e :: rest := by rw [s.forceSlot_refReq, h]
  refine ⟨(s.forceSlot k j).setCore k (((s.forceSlot k j).core k).startRef j), ?_, ?_, ?_, s.forceSlot_mem k j⟩
  · change execRefreshSlot k j s = _
    rw [execRefreshSlot, if_neg hne]
  · rw [State.core_setCore, if_pos rfl, CoreRec.startRef_debt _ _ _ _ hq, hw]
  · rw [State.core_setCore, if_pos rfl, CoreRec.startRef_refReq _ _ _ _ hq, hw]

theorem refreshSlot_idle (s : State) (k j : Nat) (h : tabGet [] (s.core k).refReq j = []) :
    ∃ t, exec (.refreshSlot k j) s = .next t ∧ tabGet 0 (t.core k).debt j = tabGet 0 (s.core k).debt j ∧ t.mem = s.mem := by
  refine ⟨s.setCore k ((s.core k).startRef j), ?_, ?_, rfl⟩
  · change execRefreshSlot k j s = _
    rw [execRefreshSlot, if_pos h]
  · rw [State.core_setCore, if_pos rfl, CoreRec.startRef_of_none _ _ h]

theorem forcedRefresh_debt (s : State) (k j : Nat) : ∃ t, exec (.forcedRefresh k j) s = .next t ∧
    tabGet 0 (t.core k).debt j = (if tabGet 0 (s.core k).debt j = 8 then 7 else tabGet 0 (s.core k).debt j) ∧ t.mem = s.mem :=
  ⟨s.forceSlot k j, rfl, (s.forceSlot_debt k j j).trans (if_pos rfl), s.forceSlot_mem k j⟩

theorem selfRefreshSlot_debt (s : State) (k j : Nat) : ∃ t, exec (.selfRefreshSlot k j) s = .next t ∧
    tabGet 0 (t.core k).debt j = (if s.bankOwner k j = none then tabGet 0 (s.core k).debt j - 1 else tabGet 0 (s.core k).debt j) ∧
    t.mem = s.mem := by
  refine ⟨s.selfRefresh k j, rfl, ?_, ?_⟩ <;> unfold State.selfRefresh
  · by_cases ho : s.bankOwner k j = none
    · by_cases hd : tabGet 0 (s.core k).debt j = 0
      · simp [ho, hd]
      · simp [ho, hd, CoreRec.refresh_debt]
    · rw [if_neg fun e => ho (Option.isNone_iff_eq_none.mp e.1), if_neg ho]
  · split <;> rfl

/-! ## The accrual of a tier (R152) -/

/-- t has the cores, the tiers and the memory of s. -/
def State.coresKept (s t : State) : Prop := t.cores = s.cores ∧ t.tiers = s.tiers ∧ t.mem = s.mem

theorem State.coresKept.trans {s t u : State} (h : s.coresKept t) (k : t.coresKept u) : s.coresKept u :=
  ⟨k.1.trans h.1, k.2.1.trans h.2.1, k.2.2.trans h.2.2⟩

theorem State.updCtx_coresKept (s : State) (id : Nat) (f : Context → Context) : s.coresKept (s.updCtx id f) := ⟨rfl, rfl, rfl⟩

theorem State.coresKept.core {s t : State} (h : s.coresKept t) (k : Nat) : t.core k = s.core k := by
  rw [State.core, h.1, ← State.core]

theorem foldl_coresKept {β : Type} (f : State → β → State) (h : ∀ (s : State) x, s.coresKept (f s x)) (xs : List β) (s : State) :
    s.coresKept (xs.foldl f s) := by
  induction xs generalizing s with
  | nil => exact ⟨rfl, rfl, rfl⟩
  | cons x xs ih => exact (h s x).trans (ih _)

theorem State.raiseDeadlines_coresKept (s : State) (k : Nat) : s.coresKept (s.raiseDeadlines k) :=
  foldl_coresKept _ (fun s j => by
    split
    · exact ⟨rfl, rfl, rfl⟩
    · split
      · exact s.updCtx_coresKept _ _
      · exact ⟨rfl, rfl, rfl⟩) _ s

/-- The accrual of one core: the slots that are due, a slot of debt for each bank, the deadlines that this passes. -/
def State.accrueCore (s : State) (k : Nat) : State :=
  let t := s.forceDue k
  (t.setCore k ((List.range 16).foldl CoreRec.accrue (t.core k))).raiseDeadlines k

theorem State.accrueTier_eq (s : State) (x : Nat) :
    s.accrueTier x = if (s.tier x).online ∧ (s.tier x).thermal ≠ 3 then (tierCores x).foldl State.accrueCore s else s := rfl

theorem State.forceSlots_debt (s : State) (k : Nat) (js : List Nat) (hn : js.Nodup) (i : Nat) :
    tabGet 0 ((js.foldl (fun s j => s.forceSlot k j) s).core k).debt i =
      if i ∈ js then debtForced (tabGet 0 (s.core k).debt i) else tabGet 0 (s.core k).debt i := by
  induction js generalizing s with
  | nil => rfl
  | cons j js ih =>
    obtain ⟨hj, hn⟩ := List.nodup_cons.mp hn
    rw [List.foldl_cons, ih _ hn, s.forceSlot_debt]
    by_cases h : i = j
    · subst h
      simp [hj]
    · simp [h]

theorem CoreRec.accrues_debt (r : CoreRec) (js : List Nat) (hn : js.Nodup) (i : Nat) :
    tabGet 0 (js.foldl CoreRec.accrue r).debt i = if i ∈ js then min 8 (tabGet 0 r.debt i + 1) else tabGet 0 r.debt i := by
  induction js generalizing r with
  | nil => rfl
  | cons j js ih =>
    obtain ⟨hj, hn⟩ := List.nodup_cons.mp hn
    rw [List.foldl_cons, ih _ hn, r.accrue_debt]
    by_cases h : i = j
    · subst h
      simp [hj]
    · simp [h]

theorem accrued_debtForced (d : Nat) : min 8 (debtForced d + 1) = min 8 (d + 1) := by
  unfold debtForced
  split <;> omega

theorem State.forceDue_kept (s : State) (k x : Nat) :
    (x ≠ k → (s.forceDue k).core x = s.core x) ∧ (s.forceDue k).tiers = s.tiers ∧ (s.forceDue k).mem = s.mem := by
  unfold State.forceDue
  refine ⟨fun hx => foldl_keeps _ (fun t : State => t.core x) (fun t j => ?_) _ s, foldl_keeps _ State.tiers (fun t j => t.forceSlot_tiers k j) _ s,
    foldl_keeps _ State.mem (fun t j => t.forceSlot_mem k j) _ s⟩
  rw [t.forceSlot_core, if_neg fun e => hx e.1]

theorem State.accrueCore_coresKept (s : State) (k : Nat) :
    ((s.forceDue k).setCore k ((List.range 16).foldl CoreRec.accrue ((s.forceDue k).core k))).coresKept (s.accrueCore k) :=
  State.raiseDeadlines_coresKept _ k

theorem State.accrueCore_core (s : State) (k x : Nat) : (s.accrueCore k).core x =
    if x = k then (List.range 16).foldl CoreRec.accrue ((s.forceDue k).core k) else (s.forceDue k).core x :=
  ((s.accrueCore_coresKept k).core x).trans (State.core_setCore _ _ _ _)

theorem State.forceDue_debt (s : State) (k j : Nat) (hj : j < 16) :
    tabGet 0 ((s.forceDue k).core k).debt j = debtForced (tabGet 0 (s.core k).debt j) :=
  (s.forceSlots_debt k _ List.nodup_range j).trans (if_pos (List.mem_range.mpr hj))

theorem State.accrueCore_debt (s : State) (k j : Nat) (hj : j < 16) :
    tabGet 0 ((s.accrueCore k).core k).debt j = min 8 (tabGet 0 (s.core k).debt j + 1) := by
  rw [s.accrueCore_core, if_pos rfl, CoreRec.accrues_debt _ _ List.nodup_range, if_pos (List.mem_range.mpr hj), s.forceDue_debt k j hj,
    accrued_debtForced]

theorem State.accrueCore_kept (s : State) (k : Nat) :
    (∀ x, x ≠ k → (s.accrueCore k).core x = s.core x) ∧ (s.accrueCore k).tiers = s.tiers ∧ (s.accrueCore k).mem = s.mem := by
  obtain ⟨-, ht, hm⟩ := s.forceDue_kept k k
  obtain ⟨-, ht', hm'⟩ := s.accrueCore_coresKept k
  rw [State.setCore_tiers] at ht'
  rw [State.setCore_mem] at hm'
  refine ⟨fun x hx => ?_, ht'.trans ht, hm'.trans hm⟩
  rw [s.accrueCore_core, if_neg hx, (s.forceDue_kept k x).1 hx]

theorem State.accrueCores_kept (s : State) (ks : List Nat) :
    (∀ x ∉ ks, (ks.foldl State.accrueCore s).core x = s.core x) ∧ (ks.foldl State.accrueCore s).tiers = s.tiers ∧
      (ks.foldl State.accrueCore s).mem = s.mem := by
  induction ks generalizing s with
  | nil => exact ⟨fun _ _ => rfl, rfl, rfl⟩
  | cons k ks ih =>
    obtain ⟨hc, ht, hm⟩ := ih (s.accrueCore k)
    obtain ⟨hc', ht', hm'⟩ := s.accrueCore_kept k
    rw [List.foldl_cons]
    refine ⟨fun x hx => ?_, ht.trans ht', hm.trans hm'⟩
    exact (hc x (List.not_mem_of_not_mem_cons hx)).trans (hc' x (List.ne_of_not_mem_cons hx))

theorem State.accrueCores_debt (s : State) (ks : List Nat) (hn : ks.Nodup) (k j : Nat) (hk : k ∈ ks) (hj : j < 16) :
    tabGet 0 ((ks.foldl State.accrueCore s).core k).debt j = min 8 (tabGet 0 (s.core k).debt j + 1) := by
  induction ks generalizing s with
  | nil => cases hk
  | cons a ks ih =>
    obtain ⟨ha, hn⟩ := List.nodup_cons.mp hn
    rw [List.foldl_cons]
    rcases List.mem_cons.mp hk with rfl | hk
    · rw [((s.accrueCore k).accrueCores_kept ks).1 k ha, s.accrueCore_debt k j hj]
    · rw [ih _ hn hk, (s.accrueCore_kept a).1 k fun e => ha (e ▸ hk)]

theorem mem_tierCores (x k : Nat) : k ∈ tierCores x ↔ k / 8 = x := by
  simp only [tierCores, List.mem_map, List.mem_range]
  refine ⟨fun ⟨i, hi, e⟩ => by omega, fun h => ⟨k % 8, by omega, by omega⟩⟩

theorem tierCores_nodup (x : Nat) : (tierCores x).Nodup :=
  List.nodup_range.map fun _ _ h => by simpa using h

theorem State.accrueTier_kept (s : State) (x : Nat) : (s.accrueTier x).tiers = s.tiers ∧ (s.accrueTier x).mem = s.mem := by
  rw [s.accrueTier_eq]
  split
  · exact (s.accrueCores_kept _).2
  · exact ⟨rfl, rfl⟩

theorem refreshAccrual_debt (s : State) (x : Nat) (ho : (s.tier x).online = true) (ht : (s.tier x).thermal ≠ 3) :
    ∃ t, exec (.refreshAccrual x) s = .next t ∧ (∀ k, k / 8 = x → ∀ j < 16,
      tabGet 0 (t.core k).debt j = min 8 (tabGet 0 (s.core k).debt j + 1)) ∧ (∀ k, k / 8 ≠ x → t.core k = s.core k) ∧ t.mem = s.mem := by
  have he : s.accrueTier x = (tierCores x).foldl State.accrueCore s := by rw [s.accrueTier_eq, if_pos ⟨ho, ht⟩]
  obtain ⟨hc, -, hm⟩ := s.accrueCores_kept (tierCores x)
  exact ⟨_, congrArg Host.Outcome.next he, fun k hk j hj => s.accrueCores_debt _ (tierCores_nodup x) k j ((mem_tierCores x k).mpr hk) hj,
    fun k hk => hc k fun e => hk ((mem_tierCores x k).mp e), hm⟩

theorem refreshAccrual_idle (s : State) (x : Nat) (h : (s.tier x).online = false ∨ (s.tier x).thermal = 3) :
    exec (.refreshAccrual x) s = .next s := by
  refine congrArg Host.Outcome.next (?_ : s.accrueTier x = s)
  rw [s.accrueTier_eq, if_neg]
  rintro ⟨ho, ht⟩
  rcases h with h | h
  · rw [ho] at h; cases h
  · exact ht h

/-! ## The sensors (R153, R154, R346) -/

theorem refreshBandCooling_band (s : State) (x : Nat) : ∃ t, exec (.refreshBandCooling x) s = .next t ∧ (t.tier x).rband =
    (if bandOf (s.tier x).temp < (s.tier x).rband then (s.tier x).rband - 1 else (s.tier x).rband) ∧ t.mem = s.mem := by
  refine ⟨_, rfl, ?_, ?_⟩ <;> split
  · rw [State.tier_setTier, if_pos rfl]
  · rfl
  · rfl
  · rfl

theorem State.skipTier_kept (s : State) (x : Nat) : s.coresKept (s.skipTier x) := by
  unfold State.skipTier
  split <;> exact ⟨rfl, rfl, rfl⟩

theorem State.coresKept.tier {s t : State} (h : s.coresKept t) (k : Nat) : t.tier k = s.tier k := by
  rw [State.tier, h.2.1, ← State.tier]

theorem State.heat_eq (s : State) (x temp : Nat) (h : temp ≤ 105) :
    s.heat x temp =
      let band := max (s.tier x).rband (bandOf temp)
      let s1 := s.setTier x { s.tier x with temp := temp, rband := band }
      let s2 := if (s.tier x).rband < band then s1.accrueTier x else s1
      let s3 := if (s.tier x).thermal < heatOf temp then s2.setTier x { s2.tier x with thermal := heatOf temp } else s2
      if s.clock x < s3.clock x then s3.skipTier x else s3 := by
  have h3 : heatOf temp ≠ 3 := by
    unfold heatOf
    rw [if_neg (by omega)]
    split_ifs <;> decide
  have h110 : ¬ (110 < temp ∧ (s.tier x).thermal ≠ 3) := by omega
  simp only [State.heat, if_neg h3, if_neg h110]

theorem thermalHeating_tier (s : State) (x temp : Nat) (h : temp ≤ 105) (ho : (s.tier x).online = true) :
    ∃ t, exec (.thermalHeating x temp) s = .next t ∧ (t.tier x).temp = temp ∧ (t.tier x).online = true ∧
      (t.tier x).thermal = max (s.tier x).thermal (if 101 ≤ temp then 2 else if 97 ≤ temp then 1 else 0) ∧ t.mem = s.mem := by
  have hx : exec (.thermalHeating x temp) s = .next (s.heat x temp) := by
    change execThermalHeating x temp s = _
    rw [execThermalHeating, if_pos ho, Nat.mod_eq_of_lt (by omega)]
  refine ⟨_, hx, ?_⟩
  rw [s.heat_eq x temp h]
  extract_lets band src s1 s2 src2 s3
  have h1 : s1.tier x = { s.tier x with temp := temp, rband := band } := by rw [State.tier_setTier, if_pos rfl]
  have h2 : s2.tier x = s1.tier x ∧ s2.mem = s.mem := by
    dsimp only [s2]
    split
    · obtain ⟨ht, hm⟩ := s1.accrueTier_kept x
      exact ⟨by rw [State.tier, ht, ← State.tier], hm⟩
    · exact ⟨rfl, rfl⟩
  have h3 : s3.tier x = { s1.tier x with thermal := max (s.tier x).thermal (heatOf temp) } ∧ s3.mem = s.mem := by
    dsimp only [s3]
    split
    · next hl => exact ⟨by rw [State.tier_setTier, if_pos rfl, max_eq_right hl.le, ← h2.1], h2.2⟩
    · next hl => exact ⟨by rw [h2.1, max_eq_left (not_lt.mp hl), h1], h2.2⟩
  have h4 : s3.coresKept (if s.clock x < s3.clock x then s3.skipTier x else s3) := by
    split
    · exact s3.skipTier_kept x
    · exact ⟨rfl, rfl, rfl⟩
  rw [h4.tier, h3.1, h1]
  refine ⟨rfl, ho, ?_, h4.2.2.trans h3.2⟩
  show max _ (heatOf temp) = _
  rw [heatOf, if_neg (by omega)]

theorem State.leaveT3_kept (s : State) (x : Nat) :
    (∀ k, k / 8 = x → ((s.leaveT3 x).core k).debt = []) ∧ (s.leaveT3 x).tiers = s.tiers ∧ (s.leaveT3 x).mem = s.mem := by
  unfold State.leaveT3
  refine ⟨fun k hk => ?_, foldl_keeps _ State.tiers (fun t k => State.setCore_tiers t k _) _ s,
    foldl_keeps _ State.mem (fun t k => State.setCore_mem t k _) _ s⟩
  have hmem := (mem_tierCores x k).mpr hk
  generalize tierCores x = ks at hmem
  clear hk
  suffices h : k ∈ ks ∨ (s.core k).debt = [] → ((ks.foldl (fun s k => s.setCore k { s.core k with debt := [] }) s).core k).debt = [] from
    h (.inl hmem)
  clear hmem
  induction ks generalizing s with
  | nil => exact fun h => h.elim (fun h => nomatch h) id
  | cons a ks ih =>
    intro h
    refine ih _ ?_
    by_cases he : k = a
    · exact .inr (by rw [State.core_setCore, if_pos he])
    · rw [State.core_setCore, if_neg he]
      exact h.imp_left fun h => (List.mem_cons.mp h).resolve_left he

theorem coolerState_eq_three {thermal temp : Nat} (h : thermal = 3) (ht : temp < 95) : coolerState thermal temp ≠ 3 := by
  subst h
  simp only [coolerState]
  split_ifs <;> omega

theorem thermalCooling_tier (s : State) (x temp : Nat) (h : temp < 256) (ho : (s.tier x).online = true) :
    ∃ t, exec (.thermalCooling x temp) s = .next t ∧ (t.tier x).temp = temp ∧ (t.tier x).thermal = coolerState (s.tier x).thermal temp ∧
      ((s.tier x).thermal = 3 → temp < 95 → ∀ k, k / 8 = x → (t.core k).debt = []) ∧ t.mem = s.mem := by
  have hx : exec (.thermalCooling x temp) s = .next (s.cool x temp) := by
    change execThermalCooling x temp s = _
    rw [execThermalCooling, if_pos ho, Nat.mod_eq_of_lt h]
  refine ⟨_, hx, ?_⟩
  unfold State.cool
  extract_lets src hot s1 s2
  have h1 : s1.tier x = { s.tier x with temp := temp, thermal := hot } := by rw [State.tier_setTier, if_pos rfl]
  obtain ⟨hl, hlt, hlm⟩ := s1.leaveT3_kept x
  have h2 : s2.tier x = s1.tier x ∧ s2.mem = s.mem := by
    dsimp only [s2]
    split
    · exact ⟨by rw [State.tier, hlt, ← State.tier], hlm⟩
    · exact ⟨rfl, rfl⟩
  have h4 : s2.coresKept (if s.clock x ≠ s2.clock x then s2.skipTier x else s2) := by
    split
    · exact s2.skipTier_kept x
    · exact ⟨rfl, rfl, rfl⟩
  rw [h4.tier, h2.1, h1]
  refine ⟨rfl, rfl, fun h3 ht k hk => ?_, h4.2.2.trans h2.2⟩
  rw [h4.core]
  have hc : s2 = s1.leaveT3 x := if_pos ⟨h3, coolerState_eq_three h3 ht⟩
  rw [hc, hl k hk]

/-! ## The governor (R348 to R350) -/

/-- What the governor's boundary leaves of a stream: no hold, and the last interval's holds told (R349). -/
def Context.newInterval (c : Context) (now : Nat) : Context := { c.freed now with heldNow := false, heldLast := c.heldNow }

theorem Context.newInterval_holds (c : Context) (now : Nat) : (c.newInterval now).pheld = false ∧ (c.newInterval now).heldLast = c.heldNow := by
  refine ⟨?_, rfl⟩
  show (c.freed now).pheld = false
  unfold Context.freed
  split
  · rfl
  · next h => exact Bool.eq_false_iff.mpr h

theorem foldl_setStack (f : State → Nat → StackRec) (ks : List Nat) (P : Nat → StackRec → Prop) (hf : ∀ s n, P n (f s n)) (s : State) :
    (∀ n ∈ ks, P n ((ks.foldl (fun s n => s.setStack n (f s n)) s).stack n)) ∧
      (ks.foldl (fun s n => s.setStack n (f s n)) s).mem = s.mem ∧ (ks.foldl (fun s n => s.setStack n (f s n)) s).ctx = s.ctx := by
  have hkeep : ∀ n, P n (s.stack n) ∨ n ∈ ks → P n ((ks.foldl (fun s n => s.setStack n (f s n)) s).stack n) := by
    intro n
    induction ks generalizing s with
    | nil => exact fun h => h.elim id fun h => nomatch h
    | cons a ks ih =>
      intro h
      refine ih _ ?_
      rw [State.stack_setStack]
      by_cases e : n = a
      · rw [if_pos e]
        exact .inl (e ▸ hf s a)
      · rw [if_neg e]
        exact h.imp_right fun h => (List.mem_cons.mp h).resolve_left e
  exact ⟨fun n hn => hkeep n (.inr hn), foldl_keeps _ State.mem (fun t k => State.setStack_mem t k _) _ s,
    foldl_keeps _ State.ctx (fun t k => State.setStack_ctx t k _) _ s⟩

theorem foldl_clearPwr (ks : List Nat) (s : State) :
    (∀ x ∈ ks, ((ks.foldl (fun s t => s.setTier t { s.tier t with pwr := false }) s).tier x).pwr = false) ∧
      (ks.foldl (fun s t => s.setTier t { s.tier t with pwr := false }) s).mem = s.mem ∧
      (ks.foldl (fun s t => s.setTier t { s.tier t with pwr := false }) s).stackTab = s.stackTab ∧
      (ks.foldl (fun s t => s.setTier t { s.tier t with pwr := false }) s).ctx = s.ctx := by
  have hkeep : ∀ x, (s.tier x).pwr = false ∨ x ∈ ks →
      ((ks.foldl (fun s t => s.setTier t { s.tier t with pwr := false }) s).tier x).pwr = false := by
    intro x
    induction ks generalizing s with
    | nil => exact fun h => h.elim id fun h => nomatch h
    | cons a ks ih =>
      intro h
      refine ih _ ?_
      rw [State.tier_setTier]
      by_cases e : x = a
      · rw [if_pos e]
        exact .inl rfl
      · rw [if_neg e]
        exact h.imp_right fun h => (List.mem_cons.mp h).resolve_left e
  exact ⟨fun n hn => hkeep n (.inr hn), foldl_keeps _ State.mem (fun t k => State.setTier_mem t k _) _ s,
    foldl_keeps _ State.stackTab (fun t k => State.setTier_stackTab t k _) _ s, foldl_keeps _ State.ctx (fun t k => State.setTier_ctx t k _) _ s⟩

theorem State.governInterval_eq (s : State) (hprev : Nat) (used : List Nat) :
    ∃ u : State, s.governInterval hprev used = u.mapCtxs (Context.newInterval · s.now) ∧ u.ctx = s.ctx ∧ u.mem = s.mem ∧
      (∀ x < Config.nTiers, (u.tier x).pwr = false) ∧ ∀ n < Config.nStacks, (u.stack n).used = used.getD n 0 ∧ (u.stack n).holds = 0 := by
  unfold State.governInterval
  extract_lets budget b8 u ks s8 qual k s1 s2
  obtain ⟨hs, hsm, hsc⟩ := foldl_setStack
    (fun (t : State) i => { t.stack i with allow := allowance t.now i b8 s8 k (qual i), used := u i, holds := 0 }) ks
    (fun n r => r.used = used.getD n 0 ∧ r.holds = 0) (fun _ _ => ⟨rfl, rfl⟩) s
  obtain ⟨ht, htm, hts, htc⟩ := foldl_clearPwr (List.range Config.nTiers) s1
  refine ⟨s2, rfl, htc.trans hsc, htm.trans hsm, fun x hx => ht x (List.mem_range.mpr hx), fun n hn => ?_⟩
  rw [State.stack, hts, ← State.stack]
  exact hs n (List.mem_range.mpr hn)

theorem governorInterval_holds (s : State) (hprev : Nat) (used : List Nat) :
    ∃ t, exec (.governorInterval hprev used) s = .next t ∧ (∀ x, x < 128 → (t.tier x).pwr = false) ∧
      t.ctx.pheld = false ∧ t.ctx.heldLast = s.ctx.heldNow ∧
      (∀ n, n < 8 → (t.stack n).used = used.getD n 0 ∧ (t.stack n).holds = 0) ∧ t.mem = s.mem := by
  obtain ⟨u, hu, hc, hm, ht, hs⟩ := s.governInterval_eq hprev used
  obtain ⟨hp, hh⟩ := s.ctx.newInterval_holds s.now
  rw [← hc] at hp hh
  refine ⟨_, congrArg Host.Outcome.next hu, ht, hp, ?_, hs, hm⟩
  rw [← hc]
  exact hh

theorem governorCheck_idle (s : State) (n proj hot : Nat) (h : proj ≤ (s.stack n).allow ∨ 8 ≤ n) :
    exec (.governorCheck n proj hot) s = .next s := by
  refine congrArg Host.Outcome.next (?_ : (if n < Config.nStacks then s.governCheck n proj hot else s) = s)
  split
  · next hn =>
    unfold State.governCheck
    exact if_pos (h.resolve_right (Nat.not_le.mpr hn))
  · rfl

/-- The streams of a stack that can be held, in the order of holds (R349). -/
def State.holdOrder (s : State) (n : Nat) : List Context := (s.holdable n).foldr (insertBy holdRank) []

/-- The ids of the streams that a check of a stack holds (R349). -/
def State.holdIds (s : State) (n proj : Nat) : List Nat :=
  ((s.holdOrder n).take (((proj - (s.stack n).allow) * (s.holdOrder n).length + proj - 1) / proj)).map Context.id

/-- A stream after a check that holds some ids. -/
def Context.heldIn (ids : List Nat) (c : Context) : Context := if ids.contains c.id then { c with pheld := true, heldNow := true } else c

/-- A check of a stack throttles its hottest open tier (R350). -/
def State.throttles (s : State) (n proj hot : Nat) : Prop :=
  21 * (s.stack n).allow < 20 * proj ∧ hot / 16 = n ∧ (s.tier hot).online = true ∧ (s.tier hot).pwr = false ∧
    ∀ x, x / 16 = n → (s.tier x).online = true → (s.tier x).pwr = false → (s.tier x).temp ≤ (s.tier hot).temp

theorem insertBy_ne_nil {α : Type} (rank : α → Nat) (x : α) (xs : List α) : insertBy rank x xs ≠ [] := by
  cases xs with
  | nil => exact List.cons_ne_nil _ _
  | cons y t =>
    rw [insertBy]
    split <;> exact List.cons_ne_nil _ _

theorem State.holdOrder_length (s : State) (n : Nat) : (s.holdOrder n).length = 0 ↔ s.holdable n = [] := by
  rw [List.length_eq_zero_iff, State.holdOrder]
  cases s.holdable n with
  | nil => exact ⟨fun _ => rfl, fun _ => rfl⟩
  | cons c cs => exact ⟨fun h => absurd h (insertBy_ne_nil _ _ _), fun h => nomatch h⟩

/-- The tiers of a stack that are online and not throttled. -/
def State.openTiers (s : State) (n : Nat) : List Nat :=
  ((List.range 16).map fun i => 16 * n + i).filter fun t => (s.tier t).online && !(s.tier t).pwr

theorem State.mem_openTiers (s : State) (n x : Nat) :
    x ∈ s.openTiers n ↔ x / 16 = n ∧ (s.tier x).online = true ∧ (s.tier x).pwr = false := by
  have hx : (∃ i < 16, 16 * n + i = x) ↔ x / 16 = n := ⟨fun ⟨i, hi, e⟩ => by omega, fun h => ⟨x % 16, by omega, by omega⟩⟩
  simp [State.openTiers, hx]

theorem State.throttles_iff (s : State) (n proj hot : Nat) : s.throttles n proj hot ↔
    21 * (s.stack n).allow < 20 * proj ∧ (s.openTiers n).contains hot ∧
      (s.openTiers n).all fun t => decide ((s.tier t).temp ≤ (s.tier hot).temp) := by
  simp only [State.throttles, List.contains_iff_mem, List.all_eq_true, s.mem_openTiers, decide_eq_true_eq, and_assoc, and_imp]

theorem State.governCheck_over (s : State) (n proj hot : Nat) (h : (s.stack n).allow < proj) : s.governCheck n proj hot =
    if (s.holdOrder n).length = 0 then
      if 21 * (s.stack n).allow < 20 * proj ∧ (s.openTiers n).contains hot ∧
          (s.openTiers n).all fun t => decide ((s.tier t).temp ≤ (s.tier hot).temp) then
        (s.setTier hot { s.tier hot with pwr := true }).skipTier hot
      else s
    else
      (s.setStack n { s.stack n with holds := (s.stack n).holds + (s.holdIds n proj).length }).mapCtxs (Context.heldIn (s.holdIds n proj)) := by
  unfold State.governCheck
  exact if_neg (Nat.not_le.mpr h)

theorem governorCheck_runs (s : State) (n proj hot : Nat) (hn : n < 8) :
    exec (.governorCheck n proj hot) s = .next (s.governCheck n proj hot) :=
  congrArg Host.Outcome.next (if_pos hn)

theorem governorCheck_holds (s : State) (n proj hot : Nat) (hn : n < 8) (h : (s.stack n).allow < proj) (ho : s.holdable n ≠ []) :
    ∃ t, exec (.governorCheck n proj hot) s = .next t ∧ (t.stack n).holds = (s.stack n).holds + (s.holdIds n proj).length ∧
      t = { s with stackTab := t.stackTab, ctx := s.ctx.heldIn (s.holdIds n proj),
                   others := s.others.map fun e => (e.1, e.2.heldIn (s.holdIds n proj)) } := by
  refine ⟨_, governorCheck_runs s n proj hot hn, ?_⟩
  rw [s.governCheck_over n proj hot h, if_neg fun e => ho ((s.holdOrder_length n).mp e)]
  refine ⟨?_, rfl⟩
  show ((s.setStack n _).stack n).holds = _
  rw [State.stack_setStack, if_pos rfl]

theorem governorCheck_throttles (s : State) (n proj hot : Nat) (hn : n < 8) (h : (s.stack n).allow < proj) (ho : s.holdable n = [])
    (ht : s.throttles n proj hot) : ∃ t, exec (.governorCheck n proj hot) s = .next t ∧
      t.tier hot = { s.tier hot with pwr := true } ∧ (∀ x, x ≠ hot → t.tier x = s.tier x) ∧ t.mem = s.mem := by
  refine ⟨_, governorCheck_runs s n proj hot hn, ?_⟩
  rw [s.governCheck_over n proj hot h, if_pos ((s.holdOrder_length n).mpr ho), if_pos ((s.throttles_iff n proj hot).mp ht)]
  have hk := (s.setTier hot { s.tier hot with pwr := true }).skipTier_kept hot
  refine ⟨?_, fun x hx => ?_, hk.2.2⟩
  · rw [hk.tier, State.tier_setTier, if_pos rfl]
  · rw [hk.tier, State.tier_setTier, if_neg hx]

theorem governorCheck_spent (s : State) (n proj hot : Nat) (hn : n < 8) (h : (s.stack n).allow < proj) (ho : s.holdable n = [])
    (ht : ¬ s.throttles n proj hot) : exec (.governorCheck n proj hot) s = .next s := by
  rw [governorCheck_runs s n proj hot hn, s.governCheck_over n proj hot h, if_pos ((s.holdOrder_length n).mpr ho),
    if_neg fun e => ht ((s.throttles_iff n proj hot).mpr e)]

/-! ## YIELD's end and the end of every context (R124, R401) -/

theorem yieldExpiry_unyields (s : State) (h : s.ctx.yielding = true) :
    ∃ t, exec (.yieldExpiry s.ctx.id) s = .next t ∧ t.ctx.yielding = false ∧ t.ctx.since = s.now ∧
      (∀ b, t.ctx.sib = some b → b.since = s.now) ∧ t.mem = s.mem ∧ t.ctx.scalars = s.ctx.scalars := by
  have hc : (s.updCtx s.ctx.id fun c => c.unyield s.now).ctx =
      { s.ctx with yielding := false, since := s.now, sib := s.ctx.sib.map fun b => { b with since := s.now } } := by
    show (if s.ctx.id = s.ctx.id then s.ctx.unyield s.now else s.ctx) = _
    rw [if_pos rfl, Context.unyield, if_pos h]
  refine ⟨_, rfl, ?_⟩
  rw [hc]
  refine ⟨rfl, rfl, fun b hb => ?_, rfl, rfl⟩
  obtain ⟨b', -, rfl⟩ := Option.map_eq_some_iff.mp hb
  rfl

theorem State.freeSlots_ctx (s : State) (core id : Nat) : (s.freeSlots core id).ctx = s.ctx ∧ (s.freeSlots core id).mem = s.mem := by
  have hq : ∀ (t : State) gone, (t.leaveQueues gone).ctx = t.ctx ∧ (t.leaveQueues gone).mem = t.mem := fun t gone =>
    ⟨foldl_keeps _ State.ctx (fun u k => State.setStack_ctx u _ _) _ t, foldl_keeps _ State.mem (fun u k => State.setStack_mem u _ _) _ t⟩
  have hd : ∀ t : State, t.dropMurk.ctx = t.ctx ∧ t.dropMurk.mem = t.mem := fun t => by
    unfold State.dropMurk
    split <;> exact ⟨rfl, rfl⟩
  unfold State.freeSlots
  extract_lets r gone s1
  obtain ⟨hd1, hd2⟩ := hd (s1.leaveQueues fun e => gone.contains e)
  obtain ⟨hq1, hq2⟩ := hq s1 fun e => gone.contains e
  exact ⟨hd1.trans hq1, hd2.trans hq2⟩

theorem State.reportDone_mem (s : State) (seq : Nat) (lost : Bool) : (s.reportDone seq lost).mem = s.mem := by
  unfold State.reportDone
  split <;> rfl

theorem State.endContext_ctx (s : State) (id : Nat) (lost : Bool) : (s.endContext id lost).mem = s.mem ∧
    (s.endContext id lost).ctx = if s.ctx.id = id then { Context.reset with id := s.ctx.id, place := .ended } else s.ctx := by
  unfold State.endContext
  split
  · next hnone =>
    refine ⟨rfl, (if_neg fun e => ?_).symm⟩
    rw [State.findCtx, if_pos e] at hnone
    cases hnone
  · next c _ =>
    extract_lets s0 s1 blank s2
    have hr := s2.reportDone_ctx c.seq lost
    have hrm := s2.reportDone_mem c.seq lost
    obtain ⟨hf, hfm⟩ := s.freeSlots_ctx c.core id
    refine ⟨hrm.trans hfm, hr.trans ?_⟩
    rw [← hf]
    rfl

theorem State.endContexts_ctx (s : State) (ids : List Nat) :
    (ids.foldl (fun s id => s.endContext id true) s).mem = s.mem ∧ (ids.foldl (fun s id => s.endContext id true) s).ctx.id = s.ctx.id ∧
      (s.ctx.place = .ended ∨ s.ctx.id ∈ ids → (ids.foldl (fun s id => s.endContext id true) s).ctx.place = .ended) := by
  induction ids generalizing s with
  | nil => exact ⟨rfl, rfl, fun h => h.elim id fun h => nomatch h⟩
  | cons a ids ih =>
    obtain ⟨hm, hi, hp⟩ := ih (s.endContext a true)
    obtain ⟨hm', hc⟩ := s.endContext_ctx a true
    rw [List.foldl_cons]
    have hid : (s.endContext a true).ctx.id = s.ctx.id := by rw [hc]; split <;> rfl
    refine ⟨hm.trans hm', hi.trans hid, fun h => hp ?_⟩
    rw [hid, hc]
    by_cases e : s.ctx.id = a
    · rw [if_pos e]
      exact .inl rfl
    · rw [if_neg e]
      exact h.imp_right fun h => (List.mem_cons.mp h).resolve_left e

theorem haspOverheat_ends (s : State) : ∃ t, exec .haspOverheat s = .next t ∧ t.held = true ∧ t.report = true ∧ t.mem = s.mem ∧
    (s.ctx.place = .resident → t.ctx.place = .ended) := by
  obtain ⟨hm, -, hp⟩ := s.endContexts_ctx ((s.allCtxs.filter fun c => c.resident || c.saved).map Context.id)
  refine ⟨_, rfl, rfl, rfl, hm, fun h => hp (.inr (List.mem_map.mpr ⟨s.ctx, List.mem_filter.mpr ⟨List.mem_cons_self, ?_⟩, rfl⟩))⟩
  rw [Context.resident, h]
  rfl

/-! ## A group of lanes (R32, R165) -/

theorem elementGroup_held (s : State) (j : Nat)
    (h : s.ctx.slipBound j = true ∨ tabGet 0 (s.core s.ctx.core).debt j = 8 ∨ s.lanesHeld j = true) :
    exec (.elementGroup j) s = .next s := by
  have hstop : (s.ctx.slipBound j || s.lanesHeld j) = true := by
    rcases h with h | h | h
    · rw [h, Bool.true_or]
    · have hl : s.lanesHeld j = true := by simp [State.lanesHeld, Context.lockstep, h]
      rw [hl, Bool.or_true]
    · rw [h, Bool.or_true]
  exact congrArg Host.Outcome.next (if_pos hstop)

theorem foldl_max_le (f : Nat → Nat) (b : Nat) (xs : List Nat) (h : ∀ x ∈ xs, f x ≤ b) (a : Nat) (ha : a ≤ b) :
    xs.foldl (fun m x => max m (f x)) a ≤ b := by
  induction xs generalizing a with
  | nil => exact ha
  | cons x xs ih =>
    exact ih (fun y hy => h y (List.mem_cons_of_mem _ hy)) _ (max_le ha (h x List.mem_cons_self))

theorem Context.slipBound_of_most (c : Context) (j : Nat) (h : ∀ i ∈ bankList (c.gangOf j), (c.bank i).work ≤ (c.bank j).work) :
    c.slipBound j = false := by
  have hmost := foldl_max_le (fun i => (c.bank i).work) _ _ h 0 (Nat.zero_le _)
  exact decide_eq_false fun hlt => by omega

/-- No instruction in flight in some banks works across banks. -/
def Context.laneWork (c : Context) (js : List Nat) : Prop :=
  ∀ i ∈ js, ∀ q ∈ (c.bank i).slots, (slotForm q.instr).all (fun f => !f.cross) = true

theorem Context.worksIn.laneWork {js ks : List Nat} {c d : Context} (h : Context.worksIn ks c d) (hl : c.laneWork js) : d.laneWork js := by
  intro i hi q hq
  obtain ⟨p, hp, he⟩ := h.slots i q hq
  have hinstr : p.instr = q.instr := congrArg (fun e => e.2.1) he
  rw [← hinstr]
  exact hl i hi p hp

theorem Context.laneStep_worksIn {js : List Nat} {c : Context} (hl : c.laneWork js) (now j : Nat) (hj : j ∈ js) :
    Context.worksIn js c (c.laneStep now j) := by
  unfold Context.laneStep
  split
  · exact .refl js c
  · next k q _ =>
    generalize (match slotForm q.instr with | some f => f.unit q | none => 1) = step
    unfold Context.goOn
    extract_lets b
    split
    · exact .refl js c
    · next p hp =>
      split
      · exact c.setBank_worksIn js j { b with slots := b.slots.eraseIdx k } hj fun y hy => ⟨y, List.mem_of_mem_eraseIdx hy, rfl⟩
      · next f hf =>
        have hcross : f.cross = false := by simpa [hf] using hl j hj p (List.mem_of_getElem? hp)
        split
        · exact .refl js c
        · rw [if_neg (by rw [hcross]; exact Bool.false_ne_true)]
          exact f.advanceIn_worksIn js c c _ j _ _ hj

theorem Context.laneSteps_worksIn {js : List Nat} {c : Context} (hl : c.laneWork js) (now : Nat) (xs : List Nat) (hx : ∀ x ∈ xs, x ∈ js) :
    Context.worksIn js c (xs.foldl (fun c i => c.laneStep now i) c) := by
  induction xs generalizing c with
  | nil => exact .refl js c
  | cons x xs ih =>
    have h := c.laneStep_worksIn hl now x (hx x List.mem_cons_self)
    exact h.trans (ih (h.laneWork hl) fun y hy => hx y (List.mem_cons_of_mem _ hy))

theorem elementGroup_goesOn (s : State) (j : Nat) (hb : s.ctx.slipBound j = false) (hh : s.lanesHeld j = false) :
    let c := (s.ctx.lockstep j).foldl (fun c i => c.laneStep s.now i) s.ctx
    exec (.elementGroup j) s = .next (s.withCtx c) ∧ c.scalars = s.ctx.scalars ∧ (s.ctx.slip ≠ 0 → s.ctx.lockstep j = [j]) ∧
      (s.ctx.laneWork (s.ctx.lockstep j) → ∀ m, m ∉ s.ctx.lockstep j → c.bank m = s.ctx.bank m) := by
  intro c
  have hlanes : s.ctx.lanesOnly c := foldl_lanesOnly _ (fun c i => c.laneStep_lanesOnly s.now i) _ s.ctx
  obtain ⟨⟨bs, fl, hc⟩, -⟩ := hlanes
  refine ⟨congrArg Host.Outcome.next (if_neg ?_), by rw [hc], fun hs => ?_, fun hl m hm => ?_⟩
  · rw [hb, hh]
    exact Bool.false_ne_true
  · rw [Context.lockstep, if_neg hs]
  · exact (Context.laneSteps_worksIn hl s.now _ fun _ h => h).others m hm

/-! ## O55 -/

/-- Settles O55, a lemma for each event. -/
theorem engineEvents : Obligations.EngineEvents := by
  unfold Obligations.EngineEvents
  intro s
  refine ⟨fun w => ⟨fun hw => ?_, fun hw => ?_⟩, fun k v b h => ?_, fun _ _ => rfl, yieldExpiry_unyields s, elementGroup_held s,
    elementGroup_goesOn s, s.ctx.slipBound_of_most, refreshSlot_asked s, refreshSlot_idle s, refreshAccrual_debt s, refreshAccrual_idle s,
    forcedRefresh_debt s, selfRefreshSlot_debt s, refreshBandCooling_band s, thermalHeating_tier s, thermalCooling_tier s,
    governorInterval_holds s, governorCheck_idle s, fun n proj hot hn h => ⟨governorCheck_holds s n proj hot hn h,
      governorCheck_throttles s n proj hot hn h, governorCheck_spent s n proj hot hn h⟩, fun _ => rfl, haspOverheat_ends s⟩
  · change execIllegalInstruction w s = _
    rw [execIllegalInstruction, if_neg (by rw [hw]; exact Bool.false_ne_true)]
    exact s.finish_trap _ _ _
  · change execIllegalInstruction w s = _
    rw [execIllegalInstruction, if_pos hw]
    rfl
  · change execInstructionFetchFault s = _
    rw [execInstructionFetchFault, h]
    exact s.finish_trap _ _ _

end Sys2Proof.Machine
end

section
/-! Rounding to FP32 and FP64 (R48, R59): the rounded quotient, the order of magnitudes, the code of a rounded value. -/

namespace Sys2Proof.Machine

/-! ## The rounded quotient (R59) -/

/-- x / y rounds away from zero to the next integer. -/
def roundsUp (mode : RMode) (g : Bool) (x y : Nat) : Bool :=
  match mode with
  | .rne => decide (y < 2 * (x % y) ∨ (2 * (x % y) = y ∧ x / y % 2 = 1))
  | .rtz => false
  | .rup => !g && decide (x % y ≠ 0)
  | .rdn => g && decide (x % y ≠ 0)

/-- x / y rounded to an integer in a mode for a sign. -/
def roundQuot (mode : RMode) (g : Bool) (x y : Nat) : Nat := x / y + (if roundsUp mode g x y then 1 else 0)

theorem roundsUp_scale (mode : RMode) (g : Bool) (x y c : Nat) (hc : 0 < c) : roundsUp mode g (x * c) (y * c) = roundsUp mode g x y := by
  have hd : x * c / (y * c) = x / y := Nat.mul_div_mul_right x y hc
  have hm : x * c % (y * c) = x % y * c := Nat.mul_mod_mul_right c x y
  cases mode with
  | rtz => rfl
  | rne =>
    refine decide_eq_decide.mpr ?_
    rw [hd, hm, ← Nat.mul_assoc, Nat.mul_lt_mul_right hc, Nat.mul_left_inj hc.ne']
  | rup => simp [roundsUp, hm, hc.ne']
  | rdn => simp [roundsUp, hm, hc.ne']

theorem roundQuot_scale (mode : RMode) (g : Bool) (x y c : Nat) (hc : 0 < c) : roundQuot mode g (x * c) (y * c) = roundQuot mode g x y := by
  rw [roundQuot, roundQuot, roundsUp_scale mode g x y c hc, Nat.mul_div_mul_right x y hc]

theorem roundQuot_of_dvd (mode : RMode) (g : Bool) (x y : Nat) (hy : 0 < y) (h : x % y = 0) : roundQuot mode g x y = x / y := by
  have hup : roundsUp mode g x y = false := by
    cases mode <;> simp [roundsUp, h, hy.ne]
  simp [roundQuot, hup]

theorem roundMag_shift (mode : RMode) (g : Bool) (m k : Nat) : roundMag mode g m (-(k : Int)) = (m * 2 ^ k, true) := by
  rw [roundMag, if_pos (by omega), neg_neg, Int.toNat_natCast, Nat.shiftLeft_eq]

/-- Below a quarter of the unit every number rounds alike, so that only 2 bits under its highest one count. -/
theorem roundMag_far (mode : RMode) (g : Bool) (m j k : Nat) (hj : 2 * m < 2 ^ j) (hk : j ≤ k) :
    roundsUp mode g m (2 ^ k) = roundsUp mode g m (2 ^ j) := by
  have hle : 2 ^ j ≤ 2 ^ k := Nat.pow_le_pow_right (by omega) hk
  have h1 : m % 2 ^ k = m := Nat.mod_eq_of_lt (by omega)
  have h2 : m % 2 ^ j = m := Nat.mod_eq_of_lt (by omega)
  cases mode with
  | rtz => rfl
  | rne =>
    refine decide_eq_decide.mpr ?_
    rw [h1, h2]
    omega
  | rup => simp [roundsUp, h1, h2]
  | rdn => simp [roundsUp, h1, h2]

theorem roundMag_pos (mode : RMode) (g : Bool) (m k : Nat) (hk : 0 < k) :
    roundMag mode g m k = (roundQuot mode g m (2 ^ k), decide (m % 2 ^ k = 0)) := by
  have hlog : m < 2 ^ (log2 m + 1) := Nat.lt_log2_self
  have hstep : ∀ j, 0 < j → (let i := m >>> j
      let r := m % 2 ^ j
      let up :=
        match mode with
        | .rne => decide (2 ^ (j - 1) < r) || (decide (r = 2 ^ (j - 1)) && i % 2 == 1)
        | .rtz => false
        | .rup => !g && r != 0
        | .rdn => g && r != 0
      (if up then i + 1 else i, r == 0)) = (roundQuot mode g m (2 ^ j), decide (m % 2 ^ j = 0)) := by
    intro j hj
    obtain ⟨j, rfl⟩ : ∃ i, j = i + 1 := ⟨j - 1, by omega⟩
    have h2 : 2 ^ (j + 1) = 2 * 2 ^ j := by rw [Nat.pow_succ, Nat.mul_comm]
    have hr : (m % 2 ^ (j + 1) == 0) = decide (m % 2 ^ (j + 1) = 0) := rfl
    cases mode with
    | rne =>
      have hup : (decide (2 ^ j < m % 2 ^ (j + 1)) || (decide (m % 2 ^ (j + 1) = 2 ^ j) && m / 2 ^ (j + 1) % 2 == 1)) =
          roundsUp .rne g m (2 ^ (j + 1)) := by
        rw [roundsUp, Bool.eq_iff_iff]
        simp only [Bool.or_eq_true, Bool.and_eq_true, decide_eq_true_eq, beq_iff_eq]
        omega
      dsimp only
      rw [Nat.shiftRight_eq_div_pow, Nat.add_sub_cancel, hup, hr, roundQuot]
      split <;> rfl
    | rtz => simp [roundQuot, roundsUp, Nat.shiftRight_eq_div_pow]; rfl
    | rup => cases g <;> by_cases h : m % 2 ^ (j + 1) = 0 <;> simp [roundQuot, roundsUp, Nat.shiftRight_eq_div_pow, h]
    | rdn => cases g <;> by_cases h : m % 2 ^ (j + 1) = 0 <;> simp [roundQuot, roundsUp, Nat.shiftRight_eq_div_pow, h]
  unfold roundMag
  rw [if_neg (by omega)]
  by_cases hfar : log2 m + 2 < k
  · have hd : decide ((log2 m : Int) + 2 < (k : Int)) = true := decide_eq_true (by omega)
    rw [hd]
    refine (hstep (log2 m + 2) (by omega)).trans ?_
    have h2 : 2 * m < 2 ^ (log2 m + 2) := by rw [show log2 m + 2 = log2 m + 1 + 1 from rfl, Nat.pow_succ]; omega
    have hle : 2 ^ (log2 m + 2) ≤ 2 ^ k := Nat.pow_le_pow_right (by omega) hfar.le
    rw [roundQuot, roundQuot, roundMag_far mode g m _ k h2 hfar.le, Nat.div_eq_of_lt (by omega), Nat.div_eq_of_lt (by omega),
      Nat.mod_eq_of_lt (by omega), Nat.mod_eq_of_lt (by omega)]
  · have hd : decide ((log2 m : Int) + 2 < (k : Int)) = false := decide_eq_false (by omega)
    rw [hd]
    exact hstep k hk

/-! ## The order of magnitudes -/

/-- Magnitudes compare as whole numbers of a unit that both are multiples of. -/
theorem magLt_eq (m m' : Nat) (e e' lo : Int) (he : lo ≤ e) (he' : lo ≤ e') :
    magLt m e m' e' = decide (m * 2 ^ (e - lo).toNat < m' * 2 ^ (e' - lo).toNat) := by
  obtain ⟨a, rfl⟩ : ∃ a : Nat, e = lo + a := ⟨(e - lo).toNat, by omega⟩
  obtain ⟨b, rfl⟩ : ∃ b : Nat, e' = lo + b := ⟨(e' - lo).toNat, by omega⟩
  rw [show (lo + a - lo).toNat = a by omega, show (lo + b - lo).toNat = b by omega]
  unfold magLt
  by_cases hm : m = 0
  · subst hm
    by_cases hm' : m' = 0 <;> simp [hm', Nat.pos_iff_ne_zero]
  · by_cases hm' : m' = 0
    · simp [hm, hm']
    · rw [if_neg hm, if_neg hm']
      have hl : 2 ^ log2 m ≤ m := Nat.log2_self_le hm
      have hu : m < 2 ^ (log2 m + 1) := Nat.lt_log2_self
      have hl' : 2 ^ log2 m' ≤ m' := Nat.log2_self_le hm'
      have hu' : m' < 2 ^ (log2 m' + 1) := Nat.lt_log2_self
      have hlt : ∀ {x y i j : Nat}, x < 2 ^ (log2 x + 1) → 2 ^ log2 y ≤ y → log2 x + i < log2 y + j → x * 2 ^ i < y * 2 ^ j := by
        intro x y i j hx hy h
        calc x * 2 ^ i < 2 ^ (log2 x + 1) * 2 ^ i := Nat.mul_lt_mul_of_pos_right hx (Nat.two_pow_pos i)
          _ = 2 ^ (log2 x + 1 + i) := (Nat.pow_add 2 _ _).symm
          _ ≤ 2 ^ (log2 y + j) := Nat.pow_le_pow_right (by omega) (by omega)
          _ = 2 ^ log2 y * 2 ^ j := Nat.pow_add 2 _ _
          _ ≤ y * 2 ^ j := Nat.mul_le_mul_right _ hy
      dsimp only
      split
      · next hne =>
        refine decide_eq_decide.mpr ⟨fun h => hlt hu hl' (by omega), fun h => ?_⟩
        by_contra hge
        exact absurd (hlt hu' hl (show log2 m' + b < log2 m + a by omega)) (Nat.lt_asymm h)
      · refine decide_eq_decide.mpr ?_
        obtain ⟨c, hc⟩ : ∃ c : Nat, min (lo + a) (lo + b) = lo + c := ⟨min a b, by omega⟩
        rw [hc, Nat.shiftLeft_eq, Nat.shiftLeft_eq, ← Nat.mul_lt_mul_right (Nat.two_pow_pos c), Nat.mul_assoc, Nat.mul_assoc,
          ← Nat.pow_add, ← Nat.pow_add, show (lo + (a : Int) - (lo + c)).toNat + c = a by omega,
          show (lo + (b : Int) - (lo + c)).toNat + c = b by omega]

/-! ## FP32 and FP64 (R48) -/

/-- The two formats of the scalar codes. -/
def Fmt.wide (f : Fmt) : Prop := f = .f32 ∨ f = .f64

/-- The magnitude of an infinity. -/
abbrev Fmt.infinity (f : Fmt) : Nat := (2 ^ f.ebits - 1) * 2 ^ f.frac

/-- The code of a sign and a magnitude. -/
abbrev Fmt.signedCode (f : Fmt) (g : Bool) (m : Nat) : Nat := (if g then 2 ^ (f.ebits + f.frac) else 0) + m

theorem fmtOf_wide (dbl : Bool) : (fmtOf dbl).wide := by
  cases dbl
  · exact .inl rfl
  · exact .inr rfl

/-- What FP32 and FP64 share. -/
structure Fmt.Binary (f : Fmt) : Prop where
  frac_pos : 1 ≤ f.frac
  ebits_two : 2 ≤ f.ebits
  bias : f.bias = ((2 ^ (f.ebits - 1) - 1 : Nat) : Int)
  ebits_pow : 2 ^ f.ebits = 2 * 2 ^ (f.ebits - 1)
  frac_pow : 2 ^ f.frac = 2 * 2 ^ (f.frac - 1)
  max : f.max = (2 ^ (f.frac + 1) - 1, f.bias - f.frac)
  fz : f.fz = true
  sat : f.sat = false
  hasInf : f.hasInf = true
  qnan : f.qnan = f.infinity + 2 ^ f.frac / 2

theorem Fmt.wide.binary {f : Fmt} (h : f.wide) : f.Binary := by
  rcases h with rfl | rfl <;> constructor <;> decide

theorem Fmt.infinity_add_unit (f : Fmt) : f.infinity + 2 ^ f.frac = 2 ^ (f.ebits + f.frac) := by
  have hp : 0 < 2 ^ f.ebits := Nat.two_pow_pos _
  rw [Fmt.infinity, Nat.pow_add, Nat.sub_mul, Nat.one_mul, Nat.sub_add_cancel (Nat.le_mul_of_pos_left _ hp)]

theorem Fmt.sign_eq (f : Fmt) (g : Bool) (m : Nat) : g.toNat * 2 ^ (f.ebits + f.frac) + m = f.signedCode g m := by
  cases g <;> simp [Fmt.signedCode]

/-! ## The code of a value -/

theorem log2_of_unit {y n : Nat} (h : 2 ^ n ≤ y) (h' : y < 2 ^ (n + 1)) : log2 y = n := by
  have hy : y ≠ 0 := fun e => by rw [e] at h; exact absurd h (Nat.not_le.mpr (Nat.two_pow_pos n))
  have h1 : n ≤ log2 y := (Nat.le_log2 hy).mpr h
  have h2 : log2 y < n + 1 := (Nat.log2_lt hy).mpr h'
  omega

theorem Fmt.code_zero (f : Fmt) (g : Bool) (e : Int) : f.code (.fin g 0 e) = f.signedCode g 0 := by
  rw [← f.sign_eq]
  rfl

/-- The code of a significand of F + 1 bits, or of the next power of two. -/
theorem Fmt.code_normal (f : Fmt) (g : Bool) (y : Nat) (q : Int) (hlo : 2 ^ f.frac ≤ y) (hhi : y ≤ 2 * 2 ^ f.frac)
    (hq : f.emin ≤ q + f.frac) : f.code (.fin g y q) = f.signedCode g ((q + f.frac + f.bias - 1).toNat * 2 ^ f.frac + y) := by
  have hu : 0 < 2 ^ f.frac := Nat.two_pow_pos _
  have hem : f.emin = 1 - f.bias := rfl
  have hy : y ≠ 0 := by omega
  rw [← f.sign_eq, Fmt.code, if_neg hy]
  dsimp only
  rcases Nat.lt_or_ge y (2 * 2 ^ f.frac) with h | h
  · have hl : log2 y = f.frac := log2_of_unit hlo (by rw [Nat.pow_succ]; omega)
    have hmod : y % 2 ^ f.frac = y - 2 ^ f.frac := by
      rw [Nat.mod_eq_sub_mod hlo, Nat.mod_eq_of_lt (by omega)]
    have hk : ((f.frac : Int) + q + f.bias).toNat = (q + f.frac + f.bias - 1).toNat + 1 := by omega
    rw [hl, if_neg (by omega), if_pos (le_refl _), Nat.sub_self, Nat.shiftLeft_zero, hmod, hk, Nat.add_mul]
    omega
  · have hy2 : y = 2 * 2 ^ f.frac := Nat.le_antisymm hhi h
    have hl : log2 y = f.frac + 1 := log2_of_unit (by rw [Nat.pow_succ]; omega) (by rw [Nat.pow_succ, Nat.pow_succ]; omega)
    have hmod : y >>> 1 % 2 ^ f.frac = 0 := by
      rw [Nat.shiftRight_eq_div_pow, hy2, Nat.pow_one, Nat.mul_div_cancel_left _ (by omega), Nat.mod_self]
    have hk : (((f.frac + 1 : Nat) : Int) + q + f.bias).toNat = (q + f.frac + f.bias - 1).toNat + 2 := by omega
    rw [hl, if_neg (by omega), if_neg (by omega), Nat.add_sub_cancel_left, hmod, hk, Nat.add_mul]
    omega

theorem Fmt.code_subnormal (f : Fmt) (g : Bool) (y : Nat) (hy : y < 2 ^ f.frac) :
    f.code (.fin g y (f.emin - f.frac)) = f.signedCode g y := by
  by_cases h0 : y = 0
  · rw [h0, Fmt.code_zero]
  · have hl : log2 y < f.frac := (Nat.log2_lt h0).mpr hy
    rw [← f.sign_eq, Fmt.code, if_neg h0]
    dsimp only
    rw [if_pos (by omega), if_pos (by omega), Int.sub_self, Int.toNat_zero, Nat.shiftLeft_zero]

/-! ## Rounding without overflow (R59) -/

theorem Fmt.not_overflow {f : Fmt} (hf : f.Binary) (y : Nat) (q : Int)
    (h : (y < 2 * 2 ^ f.frac ∧ q ≤ f.bias - f.frac) ∨ (y ≤ 2 * 2 ^ f.frac ∧ q < f.bias - f.frac)) :
    magLt f.max.1 f.max.2 y q = false := by
  have hu : 0 < 2 ^ f.frac := Nat.two_pow_pos _
  have hq : q ≤ f.bias - f.frac := by omega
  rw [hf.max, magLt_eq _ _ _ _ q hq (le_refl q), Int.sub_self, Int.toNat_zero, Nat.pow_zero, Nat.mul_one]
  refine decide_eq_false (Nat.not_lt.mpr ?_)
  have hs : 2 ^ (f.frac + 1) = 2 * 2 ^ f.frac := by rw [Nat.pow_succ, Nat.mul_comm]
  dsimp only
  rw [hs]
  rcases h with ⟨hy, -⟩ | ⟨hy, hlt⟩
  · exact (Nat.le_sub_one_of_lt hy).trans (Nat.le_mul_of_pos_right _ (Nat.two_pow_pos _))
  · obtain ⟨n, hn⟩ : ∃ n, (f.bias - f.frac - q).toNat = n + 1 := ⟨(f.bias - f.frac - q).toNat - 1, by omega⟩
    have hp : 1 ≤ 2 ^ n := Nat.one_le_two_pow
    calc y ≤ (2 * 2 ^ f.frac - 1) * 2 := by omega
      _ ≤ (2 * 2 ^ f.frac - 1) * 2 ^ (n + 1) := Nat.mul_le_mul_left _ (by rw [Nat.pow_succ]; omega)
      _ = _ := by rw [hn]

/-- A rounded value that neither overflows nor is tiny. -/
theorem Fmt.roundFmt_eq (f : Fmt) (mode : RMode) (fz g : Bool) (m : Nat) (e q : Int) (y : Nat) (exact : Bool) (hm : m ≠ 0)
    (hq : q = (if (log2 m : Int) + e < f.emin then f.emin else (log2 m : Int) + e) - f.frac)
    (hr : roundMag mode g m (q - e) = (y, exact)) (hy : y ≠ 0) (hover : magLt f.max.1 f.max.2 y q = false)
    (hflush : fz = true → f.emin ≤ (log2 y : Int) + q) (hexact : exact = true ∨ f.emin ≤ (log2 m : Int) + e) :
    roundFmt f mode fz (.fin g m e) = (.fin g y q, flagIf (!exact) flagNX) := by
  have htiny : (!exact && decide ((log2 m : Int) + e < f.emin)) = false := by
    rcases hexact with h | h
    · rw [h]; rfl
    · rw [decide_eq_false (not_lt.mpr h), Bool.and_false]
  have hz : (f.fz && fz && (y != 0) && decide ((log2 y : Int) + q < f.emin)) = false := by
    cases fz with
    | false => rw [Bool.and_false, Bool.false_and, Bool.false_and]
    | true => rw [decide_eq_false (not_lt.mpr (hflush rfl)), Bool.and_false]
  unfold roundFmt
  dsimp only
  rw [if_neg hm, ← hq, hr]
  dsimp only
  rw [hover, if_neg Bool.false_ne_true, hz, if_neg Bool.false_ne_true, if_neg hy, htiny]
  simp [flagIf]

end Sys2Proof.Machine
end

section
/-! The operands of the scalar floating-point codes (R48, R60): a sign and a magnitude each. -/

namespace Sys2Proof.Machine

/-! ## The value of a magnitude -/

/-- A magnitude that counts as zero (R60). -/
abbrev Fmt.zeroMag (f : Fmt) (fz : Bool) (m : Nat) : Prop := m = 0 ∨ (fz = true ∧ m < 2 ^ f.frac)

/-- A magnitude with FZ applied (R60). -/
abbrev Fmt.flushed (f : Fmt) (fz : Bool) (m : Nat) : Nat := if f.zeroMag fz m then 0 else m

/-- The significand of a magnitude. -/
def Fmt.sig (f : Fmt) (m : Nat) : Nat := m % 2 ^ f.frac + (if m < 2 ^ f.frac then 0 else 2 ^ f.frac)

/-- The exponent of a magnitude's last bit. -/
def Fmt.exp (f : Fmt) (m : Nat) : Int := ((m / 2 ^ f.frac).max 1 : Nat) - f.bias - f.frac

/-- The value of a sign and a magnitude, FZ applied. -/
def Fmt.number (f : Fmt) (fz g : Bool) (m : Nat) : FVal :=
  if f.infinity < m then .nan (decide (m % 2 ^ f.frac < 2 ^ f.frac / 2))
  else if m = f.infinity then .inf g
  else if f.zeroMag fz m then .fin g 0 (if m = 0 then f.emin - f.frac else 0)
  else .fin g (f.sig m) (f.exp m)

theorem Fmt.value_wide {f : Fmt} (h : f.wide) (code : Nat) : f.value code =
    let s := code / 2 ^ (f.ebits + f.frac) % 2 == 1
    let ex := code / 2 ^ f.frac % 2 ^ f.ebits
    let fr := code % 2 ^ f.frac
    if ex = 0 then .fin s fr (f.emin - f.frac)
    else if ex = 2 ^ f.ebits - 1 then (if fr = 0 then .inf s else .nan (decide (fr < 2 ^ (f.frac - 1))))
    else .fin s (2 ^ f.frac + fr) ((ex : Int) - f.bias - f.frac) := by
  rcases h with rfl | rfl <;> rfl

theorem Fmt.sign_bit (f : Fmt) (v : Word) : (v.toNat % 2 ^ f.width / 2 ^ (f.ebits + f.frac) % 2 == 1) = v.getLsbD (f.ebits + f.frac) := by
  have hw : 2 ^ f.width = 2 ^ (f.ebits + f.frac) * 2 := by rw [Fmt.width, Nat.add_assoc, Nat.add_comm 1, Nat.pow_succ]
  rw [hw, Nat.mod_mul_right_div_self, Nat.mod_mod, BitVec.getLsbD, Nat.testBit_eq_decide_div_mod_eq]
  rfl

theorem Fmt.exponent_bits (f : Fmt) (v : Word) :
    v.toNat % 2 ^ f.width / 2 ^ f.frac % 2 ^ f.ebits = v.toNat % 2 ^ (f.ebits + f.frac) / 2 ^ f.frac := by
  have hdvd : 2 ^ (f.ebits + f.frac) ∣ 2 ^ f.width := Nat.pow_dvd_pow 2 (by rw [Fmt.width]; omega)
  rw [← Nat.mod_mul_right_div_self, ← Nat.pow_add, Nat.add_comm f.frac, Nat.mod_mod_of_dvd _ hdvd]

theorem Fmt.fraction_bits (f : Fmt) (v : Word) : v.toNat % 2 ^ f.width % 2 ^ f.frac = v.toNat % 2 ^ (f.ebits + f.frac) % 2 ^ f.frac := by
  rw [Nat.mod_mod_of_dvd _ (Nat.pow_dvd_pow 2 (by rw [Fmt.width]; omega)), Nat.mod_mod_of_dvd _ (Nat.pow_dvd_pow 2 (by omega))]

/-- An exponent field of all ones: infinity or above. -/
theorem Fmt.exponent_top (f : Fmt) (m : Nat) (h : m / 2 ^ f.frac = 2 ^ f.ebits - 1) : m = f.infinity + m % 2 ^ f.frac := by
  rw [Fmt.infinity, ← h, Nat.mul_comm]
  exact (Nat.div_add_mod m _).symm

theorem Fmt.exponent_below (f : Fmt) (m : Nat) : m / 2 ^ f.frac < 2 ^ f.ebits - 1 ↔ m < f.infinity :=
  Nat.div_lt_iff_lt_mul (Nat.two_pow_pos _)

theorem Fmt.Binary.unit_lt_infinity {f : Fmt} (hf : f.Binary) : 2 ^ f.frac < f.infinity := by
  have he : 2 ^ 2 ≤ 2 ^ f.ebits := Nat.pow_le_pow_right (by omega) hf.ebits_two
  exact (f.exponent_below _).mp (by rw [Nat.div_self (Nat.two_pow_pos _)]; omega)

theorem Fmt.sig_subnormal (f : Fmt) (m : Nat) (h : m < 2 ^ f.frac) : f.sig m = m := by
  rw [Fmt.sig, if_pos h, Nat.mod_eq_of_lt h, Nat.add_zero]

theorem Fmt.sig_normal (f : Fmt) (m : Nat) (h : 2 ^ f.frac ≤ m) : f.sig m = 2 ^ f.frac + m % 2 ^ f.frac := by
  rw [Fmt.sig, if_neg (Nat.not_lt.mpr h), Nat.add_comm]

theorem Fmt.exp_subnormal (f : Fmt) (m : Nat) (h : m < 2 ^ f.frac) : f.exp m = f.emin - f.frac := by
  rw [Fmt.exp, Nat.div_eq_of_lt h, Fmt.emin]
  rfl

theorem Fmt.exp_normal (f : Fmt) (m : Nat) (h : 2 ^ f.frac ≤ m) : f.exp m = ((m / 2 ^ f.frac : Nat) : Int) - f.bias - f.frac := by
  have h1 : 1 ≤ m / 2 ^ f.frac := (Nat.one_le_div_iff (Nat.two_pow_pos _)).mpr h
  rw [Fmt.exp, show (m / 2 ^ f.frac).max 1 = m / 2 ^ f.frac from max_eq_left h1]

theorem Fmt.sig_ne_zero (f : Fmt) {m : Nat} (h : m ≠ 0) : f.sig m ≠ 0 := by
  have hu : 0 < 2 ^ f.frac := Nat.two_pow_pos _
  rcases Nat.lt_or_ge m (2 ^ f.frac) with hm | hm
  · rwa [f.sig_subnormal m hm]
  · rw [f.sig_normal m hm]; omega

theorem Fmt.sig_lt (f : Fmt) (m : Nat) : f.sig m < 2 * 2 ^ f.frac := by
  have hu : m % 2 ^ f.frac < 2 ^ f.frac := Nat.mod_lt _ (Nat.two_pow_pos _)
  rw [Fmt.sig]
  split <;> omega

theorem Fmt.log2_sig (f : Fmt) (m : Nat) (h : 2 ^ f.frac ≤ m) : log2 (f.sig m) = f.frac := by
  have hlt := f.sig_lt m
  rw [f.sig_normal m h] at hlt ⊢
  exact log2_of_unit (by omega) (by rw [Nat.pow_succ]; omega)

/-- The operand of a scalar code is the value of its sign and magnitude. -/
theorem scalarIn_eq {f : Fmt} (h : f.wide) (fz : Bool) (v : Word) :
    scalarIn f fz v = f.number fz (v.getLsbD (f.ebits + f.frac)) (v.toNat % 2 ^ (f.ebits + f.frac)) := by
  have hf := h.binary
  rw [scalarIn, Fmt.value_wide h, f.sign_bit, f.exponent_bits, f.fraction_bits]
  have hm : v.toNat % 2 ^ (f.ebits + f.frac) < f.infinity + 2 ^ f.frac := by
    rw [f.infinity_add_unit]
    exact Nat.mod_lt _ (Nat.two_pow_pos _)
  generalize v.toNat % 2 ^ (f.ebits + f.frac) = m at hm
  generalize v.getLsbD (f.ebits + f.frac) = g
  have hhalf : 2 ^ f.frac / 2 = 2 ^ (f.frac - 1) := by rw [hf.frac_pow, Nat.mul_div_cancel_left _ (by omega)]
  have hu : 0 < 2 ^ f.frac := Nat.two_pow_pos _
  have hunit : 2 ^ f.frac < f.infinity := hf.unit_lt_infinity
  dsimp only
  unfold Fmt.number
  rcases Nat.lt_or_ge m (2 ^ f.frac) with hs | hs
  · rw [if_pos (Nat.div_eq_of_lt hs), if_neg (by omega), if_neg (by omega), Nat.mod_eq_of_lt hs, f.sig_subnormal m hs, f.exp_subnormal m hs]
    by_cases h0 : m = 0
    · subst h0
      simp [flushIn, FVal.isSubnormal]
    · have hl : log2 m < f.frac := (Nat.log2_lt h0).mpr hs
      have hsub : FVal.isSubnormal f (.fin g m (f.emin - f.frac)) = true := by
        simp only [FVal.isSubnormal, Bool.and_eq_true, bne_iff_ne, decide_eq_true_eq]
        exact ⟨h0, by omega⟩
      cases fz with
      | true =>
        rw [flushIn, hf.fz, hsub, if_pos (show (true && true && true) = true from rfl), if_pos (.inr ⟨rfl, hs⟩), if_neg h0]
        rfl
      | false => rw [flushIn, Bool.false_and, Bool.false_and, if_neg Bool.false_ne_true, if_neg (by simp [h0])]
  · have h1 : 1 ≤ m / 2 ^ f.frac := (Nat.one_le_div_iff hu).mpr hs
    rw [if_neg (by omega : m / 2 ^ f.frac ≠ 0)]
    rcases Nat.lt_or_ge m f.infinity with hi | hi
    · have hlt := (f.exponent_below m).mpr hi
      have hz : ¬ f.zeroMag fz m := by omega
      rw [if_neg (by omega), if_neg (by omega), if_neg (by omega), if_neg hz, ← f.sig_normal m hs, ← f.exp_normal m hs]
      have hsub : FVal.isSubnormal f (.fin g (f.sig m) (f.exp m)) = false := by
        have hem : f.emin = 1 - f.bias := rfl
        rw [FVal.isSubnormal, f.log2_sig m hs, f.exp_normal m hs, decide_eq_false (by omega), Bool.and_false]
      rw [flushIn, hsub, Bool.and_false, if_neg Bool.false_ne_true]
    · have htop : m / 2 ^ f.frac = 2 ^ f.ebits - 1 := by
        have h2 : ¬ m / 2 ^ f.frac < 2 ^ f.ebits - 1 := fun h => absurd ((f.exponent_below m).mp h) (Nat.not_lt.mpr hi)
        have h3 : m / 2 ^ f.frac < 2 ^ f.ebits := (Nat.div_lt_iff_lt_mul hu).mpr (by rwa [← Nat.pow_add, ← f.infinity_add_unit])
        omega
      have hmi := f.exponent_top m htop
      have hflush : ∀ x : FVal, x.isSubnormal f = false → flushIn f fz x = x := fun x hx => by
        rw [flushIn, hx, Bool.and_false, if_neg Bool.false_ne_true]
      rw [if_pos htop]
      by_cases hr : m % 2 ^ f.frac = 0
      · rw [if_pos hr, if_neg (by omega), if_pos (by omega)]
        exact hflush _ rfl
      · rw [if_neg hr, if_pos (by omega), hhalf]
        exact hflush _ rfl

/-! ## Which value a magnitude has -/

theorem Fmt.number_nan (f : Fmt) (fz g : Bool) {m : Nat} (h : f.infinity < m) :
    f.number fz g m = .nan (decide (m % 2 ^ f.frac < 2 ^ f.frac / 2)) := if_pos h

theorem Fmt.number_inf (f : Fmt) (fz g : Bool) {m : Nat} (h : m = f.infinity) : f.number fz g m = .inf g := by
  rw [Fmt.number, if_neg (by omega), if_pos h]

theorem Fmt.zeroMag_lt {f : Fmt} {fz : Bool} {m : Nat} (h : f.zeroMag fz m) : m < 2 ^ f.frac :=
  h.elim (fun e => e ▸ Nat.two_pow_pos _) And.right

theorem Fmt.Binary.zeroMag_finite {f : Fmt} (hf : f.Binary) {fz : Bool} {m : Nat} (h : f.zeroMag fz m) : m < f.infinity :=
  (Fmt.zeroMag_lt h).trans hf.unit_lt_infinity

theorem Fmt.Binary.number_zero {f : Fmt} (hf : f.Binary) {fz : Bool} (g : Bool) {m : Nat} (h : f.zeroMag fz m) :
    ∃ e, f.number fz g m = .fin g 0 e := by
  have hlt := hf.zeroMag_finite h
  exact ⟨if m = 0 then f.emin - f.frac else 0, by rw [Fmt.number, if_neg (by omega), if_neg (by omega), if_pos h]⟩

theorem Fmt.number_fin (f : Fmt) {fz : Bool} (g : Bool) {m : Nat} (h : ¬ f.zeroMag fz m) (hlt : m < f.infinity) :
    f.number fz g m = .fin g (f.sig m) (f.exp m) := by
  rw [Fmt.number, if_neg (by omega), if_neg (by omega), if_neg h]

/-- A finite magnitude's value, zero or not. -/
theorem Fmt.Binary.number_finite {f : Fmt} (hf : f.Binary) {fz : Bool} (g : Bool) {m : Nat} (hlt : m < f.infinity) :
    ∃ n e, f.number fz g m = .fin g n e ∧ (n = 0 ↔ f.zeroMag fz m) := by
  by_cases h : f.zeroMag fz m
  · obtain ⟨e, he⟩ := hf.number_zero g h
    exact ⟨0, e, he, iff_of_true rfl h⟩
  · exact ⟨_, _, f.number_fin g h hlt, iff_of_false (f.sig_ne_zero fun e => h (.inl e)) h⟩

theorem Fmt.number_negate (f : Fmt) (fz g : Bool) (m : Nat) : (f.number fz g m).negate = f.number fz (!g) m := by
  unfold Fmt.number
  split
  · rfl
  · split
    · rfl
    · split <;> rfl

theorem Fmt.number_isNan (f : Fmt) (fz g : Bool) (m : Nat) : (f.number fz g m).isNan = decide (f.infinity < m) := by
  unfold Fmt.number
  split
  · next h => exact (decide_eq_true h).symm
  · next h =>
    rw [decide_eq_false h]
    split
    · rfl
    · split <;> rfl

/-- NV where a magnitude is a signalling NaN's (R49). -/
abbrev Fmt.quiet (f : Fmt) (m : Nat) : FpFlags := if f.infinity < m ∧ m % 2 ^ f.frac < 2 ^ f.frac / 2 then flagNV else 0

theorem Fmt.number_quiet (f : Fmt) (fz g : Bool) (m : Nat) : flagIf (f.number fz g m).isSig flagNV = f.quiet m := by
  unfold Fmt.number
  by_cases h : f.infinity < m
  · rw [if_pos h]
    simp [FVal.isSig, flagIf, Fmt.quiet, h]
  · have hq : f.quiet m = 0 := if_neg fun e => h e.1
    rw [if_neg h, hq]
    split
    · rfl
    · split <;> rfl

theorem flagIf_or (p q : Bool) : flagIf (p || q) flagNV = flagIf p flagNV ||| flagIf q flagNV := by
  cases p <;> cases q <;> decide

/-! ## The code of a result (R59) -/

/-- The word of a sign and a magnitude. -/
abbrev Fmt.signed (f : Fmt) (g : Bool) (m : Nat) : Word := BitVec.ofNat 64 (f.signedCode g m)

/-- The canonical NaN (R49). -/
abbrev Fmt.nanWord (f : Fmt) : Word := f.signed false (f.infinity + 2 ^ f.frac / 2)

/-- The word and the flags of a value rounded to a format. -/
def Fmt.out (f : Fmt) (mode : RMode) (fz : Bool) (r : FVal × FpFlags) : Word × FpFlags :=
  (BitVec.ofNat 64 (roundCode f mode fz r.1).1, r.2 ||| (roundCode f mode fz r.1).2)

theorem flags_or_zero (fl : FpFlags) : fl ||| 0 = fl := BitVec.or_zero

theorem Fmt.Binary.code_nan {f : Fmt} (hf : f.Binary) (s : Bool) : f.code (.nan s) = f.signedCode false (f.infinity + 2 ^ f.frac / 2) := by
  rw [Fmt.code, hf.qnan]
  simp [Fmt.signedCode]

theorem Fmt.code_inf (f : Fmt) (g : Bool) : f.code (.inf g) = f.signedCode g f.infinity := f.sign_eq g _

theorem Fmt.Binary.out_nan {f : Fmt} (hf : f.Binary) (mode : RMode) (fz s : Bool) (fl : FpFlags) : f.out mode fz (.nan s, fl) = (f.nanWord, fl) := by
  simp only [Fmt.out, roundCode, roundFmt, hf.code_nan, flags_or_zero]

theorem Fmt.Binary.out_inf {f : Fmt} (hf : f.Binary) (mode : RMode) (fz g : Bool) (fl : FpFlags) :
    f.out mode fz (.inf g, fl) = (f.signed g f.infinity, fl) := by
  simp only [Fmt.out, roundCode, roundFmt, hf.hasInf, if_true, f.code_inf, flags_or_zero]

theorem Fmt.out_zero (f : Fmt) (mode : RMode) (fz g : Bool) (e : Int) (fl : FpFlags) : f.out mode fz (.fin g 0 e, fl) = (f.signed g 0, fl) := by
  simp only [Fmt.out, roundCode, roundFmt, if_true, f.code_zero, flags_or_zero]

theorem Fmt.code_fin (f : Fmt) (g : Bool) {m : Nat} : f.code (.fin g (f.sig m) (f.exp m)) = f.signedCode g m := by
  have hu : 0 < 2 ^ f.frac := Nat.two_pow_pos _
  rcases Nat.lt_or_ge m (2 ^ f.frac) with hm | hm
  · rw [f.sig_subnormal m hm, f.exp_subnormal m hm, f.code_subnormal g m hm]
  · have h1 : 1 ≤ m / 2 ^ f.frac := (Nat.one_le_div_iff hu).mpr hm
    have hem : f.emin = 1 - f.bias := rfl
    have hlt := f.sig_lt m
    rw [f.sig_normal m hm] at hlt ⊢
    rw [f.exp_normal m hm, f.code_normal g _ _ (by omega) (by omega) (by omega)]
    refine congrArg (f.signedCode g) ?_
    obtain ⟨q, hq⟩ : ∃ q, m / 2 ^ f.frac = q + 1 := ⟨m / 2 ^ f.frac - 1, by omega⟩
    have hm2 := Nat.div_add_mod m (2 ^ f.frac)
    rw [hq, show (((q + 1 : Nat) : Int) - f.bias - f.frac + f.frac + f.bias - 1).toNat = q by omega, ← Nat.add_assoc, ← Nat.succ_mul,
      ← hm2, hq, Nat.mul_add_mod, Nat.mod_mod, Nat.mul_comm]

theorem Fmt.Binary.code_number {f : Fmt} (hf : f.Binary) (fz g : Bool) {m : Nat} (h : m ≤ f.infinity) :
    f.code (f.number fz g m) = f.signedCode g (f.flushed fz m) := by
  by_cases hz : f.zeroMag fz m
  · obtain ⟨e, he⟩ := hf.number_zero g hz
    rw [he, f.code_zero, Fmt.flushed, if_pos hz]
  · rw [Fmt.flushed, if_neg hz]
    rcases Nat.lt_or_eq_of_le h with h | h
    · rw [f.number_fin g hz h, f.code_fin]
    · rw [f.number_inf fz g h, f.code_inf, h]

theorem Fmt.Binary.roundFmt_fin {f : Fmt} (hf : f.Binary) (mode : RMode) {fz : Bool} (g : Bool) {m : Nat} (hz : ¬ f.zeroMag fz m)
    (h : m < f.infinity) : roundFmt f mode fz (.fin g (f.sig m) (f.exp m)) = (.fin g (f.sig m) (f.exp m), 0) := by
  have hem : f.emin = 1 - f.bias := rfl
  have h0 : m ≠ 0 := fun e => hz (.inl e)
  have hs := f.sig_ne_zero h0
  have htop := (f.exponent_below m).mpr h
  have hbias := hf.bias
  have hpow := hf.ebits_pow
  have hr : roundMag mode g (f.sig m) (f.exp m - f.exp m) = (f.sig m, true) := by
    rw [Int.sub_self]
    exact (roundMag_shift mode g (f.sig m) 0).trans (by rw [Nat.pow_zero, Nat.mul_one])
  have hover : magLt f.max.1 f.max.2 (f.sig m) (f.exp m) = false := by
    refine f.not_overflow hf _ _ (.inl ⟨f.sig_lt m, ?_⟩)
    rcases Nat.lt_or_ge m (2 ^ f.frac) with hm | hm
    · rw [f.exp_subnormal m hm]
      have he : 2 ^ 1 ≤ 2 ^ (f.ebits - 1) := Nat.pow_le_pow_right (by omega) (by have := hf.ebits_two; omega)
      omega
    · rw [f.exp_normal m hm]
      omega
  refine f.roundFmt_eq mode fz g _ _ (f.exp m) _ true hs ?_ hr hs hover (fun hfz => ?_) (.inl rfl)
  · rcases Nat.lt_or_ge m (2 ^ f.frac) with hm | hm
    · have hl : log2 m < f.frac := (Nat.log2_lt h0).mpr hm
      rw [f.sig_subnormal m hm, f.exp_subnormal m hm, if_pos (by omega)]
    · have h1 : 1 ≤ m / 2 ^ f.frac := (Nat.one_le_div_iff (Nat.two_pow_pos _)).mpr hm
      rw [f.log2_sig m hm, f.exp_normal m hm, if_neg (by omega)]
      omega
  · have hm : 2 ^ f.frac ≤ m := Nat.not_lt.mp fun hlt => hz (.inr ⟨hfz, hlt⟩)
    have h1 : 1 ≤ m / 2 ^ f.frac := (Nat.one_le_div_iff (Nat.two_pow_pos _)).mpr hm
    rw [f.log2_sig m hm, f.exp_normal m hm]
    omega

/-- A number of the format rounds to its own code, exactly. -/
theorem Fmt.Binary.out_number {f : Fmt} (hf : f.Binary) (mode : RMode) (fz g : Bool) {m : Nat} (h : m ≤ f.infinity) (fl : FpFlags) :
    f.out mode fz (f.number fz g m, fl) = (f.signed g (f.flushed fz m), fl) := by
  by_cases hz : f.zeroMag fz m
  · obtain ⟨e, he⟩ := hf.number_zero g hz
    rw [he, f.out_zero, Fmt.flushed, if_pos hz]
  · rw [Fmt.flushed, if_neg hz]
    rcases Nat.lt_or_eq_of_le h with h | h
    · rw [f.number_fin g hz h]
      simp only [Fmt.out, roundCode, hf.roundFmt_fin mode g hz h, f.code_fin, flags_or_zero]
    · rw [f.number_inf fz g h, hf.out_inf, h]

end Sys2Proof.Machine
end

section
/-! The scalar floating-point codes on operands told by sign and magnitude (R59 to R63, R104, R106). -/

namespace Sys2Proof.Machine

/-! ## NaN (R63) -/

theorem FVal.isNan_iff (x : FVal) : x.isNan = true ↔ ∃ s, x = .nan s := by
  cases x <;> simp [FVal.isNan]

theorem addVal_nan (mode : RMode) {x y : FVal} (h : x.isNan = true ∨ y.isNan = true) : addVal mode x y = nanOf [x, y] := by
  rw [FVal.isNan_iff, FVal.isNan_iff] at h
  rcases h with ⟨s, rfl⟩ | ⟨s, rfl⟩
  · rfl
  · cases x <;> rfl

theorem mulVal_nan {x y : FVal} (h : x.isNan = true ∨ y.isNan = true) : mulVal x y = nanOf [x, y] := by
  rw [FVal.isNan_iff, FVal.isNan_iff] at h
  rcases h with ⟨s, rfl⟩ | ⟨s, rfl⟩
  · rfl
  · cases x <;> rfl

theorem divVal_nan {x y : FVal} (h : x.isNan = true ∨ y.isNan = true) : divVal x y = nanOf [x, y] := by
  rw [FVal.isNan_iff, FVal.isNan_iff] at h
  rcases h with ⟨s, rfl⟩ | ⟨s, rfl⟩
  · rfl
  · cases x <;> rfl

theorem fmaVal_nan (mode : RMode) {x y : FVal} (c : FVal) (h : x.isNan = true ∨ y.isNan = true) : fmaVal mode x y c = nanOf [x, y, c] := by
  rw [fmaVal, if_pos (by simpa using h)]

/-- A fused code whose operands are numbers, from its product. -/
theorem fmaVal_eq (mode : RMode) {x y c p : FVal} {fl : FpFlags} (hx : x.isNan = false) (hy : y.isNan = false) (h : mulVal x y = (p, fl)) :
    fmaVal mode x y c = if p.isNan then (p, fl) else if c.isNan then nanOf [c] else addVal mode p c := by
  rw [fmaVal, hx, hy, h]
  rfl

theorem minMaxVal_nans (isMax : Bool) {x y : FVal} (hx : x.isNan = true) (hy : y.isNan = true) :
    minMaxVal isMax x y = (.nan false, flagIf (x.isSig || y.isSig) flagNV) := by
  rw [minMaxVal, if_pos hx, if_pos hy]

theorem minMaxVal_nan_left (isMax : Bool) {x y : FVal} (hx : x.isNan = true) (hy : y.isNan = false) :
    minMaxVal isMax x y = (y, flagIf (x.isSig || y.isSig) flagNV) := by
  rw [minMaxVal, if_pos hx, if_neg (by rw [hy]; exact Bool.false_ne_true)]

theorem minMaxVal_nan_right (isMax : Bool) {x y : FVal} (hx : x.isNan = false) (hy : y.isNan = true) :
    minMaxVal isMax x y = (x, flagIf (x.isSig || y.isSig) flagNV) := by
  rw [minMaxVal, if_neg (by rw [hx]; exact Bool.false_ne_true), if_pos hy]

section numbers
variable {f : Fmt} (hf : f.Binary) (mode : RMode) {fz : Bool}

theorem Fmt.number_isNan_of (f : Fmt) (fz g : Bool) {m : Nat} (h : f.infinity < m) : (f.number fz g m).isNan = true := by
  rw [f.number_isNan, decide_eq_true h]

theorem Fmt.number_not_isNan (f : Fmt) (fz g : Bool) {m : Nat} (h : ¬ f.infinity < m) : (f.number fz g m).isNan = false := by
  rw [f.number_isNan, decide_eq_false h]

include hf

theorem Fmt.Binary.out_nanOf (g h : Bool) (m n : Nat) :
    f.out mode fz (nanOf [f.number fz g m, f.number fz h n]) = (f.nanWord, f.quiet m ||| f.quiet n) := by
  have hs : [f.number fz g m, f.number fz h n].any FVal.isSig = ((f.number fz g m).isSig || (f.number fz h n).isSig) := by simp
  rw [nanOf, hf.out_nan, hs, flagIf_or, f.number_quiet, f.number_quiet]

theorem Fmt.Binary.out_nanOf_three (g h k : Bool) (m n p : Nat) :
    f.out mode fz (nanOf [f.number fz g m, f.number fz h n, f.number fz k p]) = (f.nanWord, f.quiet m ||| f.quiet n ||| f.quiet p) := by
  have hs : [f.number fz g m, f.number fz h n, f.number fz k p].any FVal.isSig =
      ((f.number fz g m).isSig || (f.number fz h n).isSig || (f.number fz k p).isSig) := by simp [Bool.or_assoc]
  rw [nanOf, hf.out_nan, hs, flagIf_or, flagIf_or, f.number_quiet, f.number_quiet, f.number_quiet]

theorem Fmt.Binary.out_nanOf_one (g : Bool) (m : Nat) : f.out mode fz (nanOf [f.number fz g m]) = (f.nanWord, f.quiet m) := by
  have hs : [f.number fz g m].any FVal.isSig = (f.number fz g m).isSig := by simp
  rw [nanOf, hf.out_nan, hs, f.number_quiet]

theorem Fmt.Binary.out_add_nan (g h : Bool) {m n : Nat} (hn : f.infinity < m ∨ f.infinity < n) :
    f.out mode fz (addVal mode (f.number fz g m) (f.number fz h n)) = (f.nanWord, f.quiet m ||| f.quiet n) := by
  rw [addVal_nan mode (hn.imp (f.number_isNan_of fz g) (f.number_isNan_of fz h)), hf.out_nanOf]

theorem Fmt.Binary.out_mul_nan (g h : Bool) {m n : Nat} (hn : f.infinity < m ∨ f.infinity < n) :
    f.out mode fz (mulVal (f.number fz g m) (f.number fz h n)) = (f.nanWord, f.quiet m ||| f.quiet n) := by
  rw [mulVal_nan (hn.imp (f.number_isNan_of fz g) (f.number_isNan_of fz h)), hf.out_nanOf]

theorem Fmt.Binary.out_div_nan (g h : Bool) {m n : Nat} (hn : f.infinity < m ∨ f.infinity < n) :
    f.out mode fz (divVal (f.number fz g m) (f.number fz h n)) = (f.nanWord, f.quiet m ||| f.quiet n) := by
  rw [divVal_nan (hn.imp (f.number_isNan_of fz g) (f.number_isNan_of fz h)), hf.out_nanOf]

/-! ## Sums (R61, R63) -/

theorem Fmt.Binary.out_zero_add_zero (g h : Bool) (e : Int) {n : Nat} (hn : f.zeroMag fz n) :
    f.out mode fz (addVal mode (.fin g 0 e) (f.number fz h n)) = (f.signed (if g != h then decide (mode = .rdn) else g) 0, 0) := by
  obtain ⟨e', he'⟩ := hf.number_zero h hn
  have hadd : addVal mode (.fin g 0 e) (.fin h 0 e') = (.zero (if g = h then g else decide (mode = .rdn)), 0) := rfl
  rw [he', hadd, FVal.zero, f.out_zero]
  cases g <;> cases h <;> rfl

theorem Fmt.Binary.out_zero_add (g h : Bool) (e : Int) {n : Nat} (hz : ¬ f.zeroMag fz n) (hn : ¬ f.infinity < n) :
    f.out mode fz (addVal mode (.fin g 0 e) (f.number fz h n)) = (f.signed h (f.flushed fz n), 0) := by
  have hadd : addVal mode (.fin g 0 e) (f.number fz h n) = (f.number fz h n, 0) := by
    rcases Nat.lt_or_eq_of_le (Nat.not_lt.mp hn) with hlt | heq
    · have h0 := f.sig_ne_zero fun e => hz (.inl e)
      rw [f.number_fin h hz hlt]
      simp [addVal, h0]
    · rw [f.number_inf fz h heq]
      rfl
  rw [hadd, hf.out_number mode fz h (Nat.not_lt.mp hn)]

theorem Fmt.Binary.out_add_zeros (g h : Bool) {m n : Nat} (hm : f.zeroMag fz m) (hn : f.zeroMag fz n) :
    f.out mode fz (addVal mode (f.number fz g m) (f.number fz h n)) = (f.signed (if g != h then decide (mode = .rdn) else g) 0, 0) := by
  obtain ⟨e, he⟩ := hf.number_zero g hm
  rw [he, hf.out_zero_add_zero mode g h e hn]

theorem Fmt.Binary.out_add_zero_left (g h : Bool) {m n : Nat} (hm : f.zeroMag fz m) (hz : ¬ f.zeroMag fz n) (hn : ¬ f.infinity < n) :
    f.out mode fz (addVal mode (f.number fz g m) (f.number fz h n)) = (f.signed h (f.flushed fz n), 0) := by
  obtain ⟨e, he⟩ := hf.number_zero g hm
  rw [he, hf.out_zero_add mode g h e hz hn]

theorem Fmt.Binary.out_add_zero_right (g h : Bool) {m n : Nat} (hn : f.zeroMag fz n) (hz : ¬ f.zeroMag fz m) (hm : ¬ f.infinity < m) :
    f.out mode fz (addVal mode (f.number fz g m) (f.number fz h n)) = (f.signed g (f.flushed fz m), 0) := by
  obtain ⟨e, he⟩ := hf.number_zero h hn
  have hadd : addVal mode (f.number fz g m) (.fin h 0 e) = (f.number fz g m, 0) := by
    rcases Nat.lt_or_eq_of_le (Nat.not_lt.mp hm) with hlt | heq
    · have h0 := f.sig_ne_zero fun e => hz (.inl e)
      rw [f.number_fin g hz hlt]
      simp [addVal, h0]
    · rw [f.number_inf fz g heq]
      rfl
  rw [he, hadd, hf.out_number mode fz g (Nat.not_lt.mp hm)]

omit hf in
theorem Fmt.out_add_opposite {g h : Bool} {m n : Nat} (hgh : (g != h) = true) (hmn : m = n) (hz : ¬ f.zeroMag fz m) (hm : m < f.infinity) :
    f.out mode fz (addVal mode (f.number fz g m) (f.number fz h n)) = (f.signed (decide (mode = .rdn)) 0, 0) := by
  subst hmn
  have h0 := f.sig_ne_zero fun e => hz (.inl e)
  have hadd : addVal mode (.fin g (f.sig m) (f.exp m)) (.fin h (f.sig m) (f.exp m)) = (.zero (decide (mode = .rdn)), 0) := by
    cases g <;> cases h <;> simp [addVal, h0] at hgh ⊢
  rw [f.number_fin g hz hm, f.number_fin h hz hm, hadd, FVal.zero, f.out_zero]

theorem Fmt.Binary.out_add_infs (g h : Bool) {m n : Nat} (hm : m = f.infinity) (hn : n = f.infinity) :
    f.out mode fz (addVal mode (f.number fz g m) (f.number fz h n)) = if g != h then (f.nanWord, flagNV) else (f.signed g f.infinity, 0) := by
  rw [f.number_inf fz g hm, f.number_inf fz h hn]
  cases g <;> cases h
  · exact hf.out_inf mode fz _ 0
  · exact hf.out_nan mode fz _ flagNV
  · exact hf.out_nan mode fz _ flagNV
  · exact hf.out_inf mode fz _ 0

/-- A sum with an infinity on the left. -/
theorem Fmt.Binary.out_inf_add (g h : Bool) {n : Nat} (hn : ¬ f.infinity < n) :
    f.out mode fz (addVal mode (.inf g) (f.number fz h n)) =
      if n = f.infinity ∧ g ≠ h then (f.nanWord, flagNV) else (f.signed g f.infinity, 0) := by
  rcases Nat.lt_or_eq_of_le (Nat.not_lt.mp hn) with hlt | heq
  · obtain ⟨k, e, he, -⟩ := hf.number_finite (fz := fz) h hlt
    rw [he, if_neg fun e => absurd e.1 (Nat.ne_of_lt hlt)]
    exact hf.out_inf mode fz g 0
  · rw [f.number_inf fz h heq]
    by_cases hgh : g = h
    · rw [if_neg fun e => e.2 hgh, ← hf.out_inf mode fz g 0]
      exact congrArg (f.out mode fz) (if_pos hgh)
    · rw [if_pos ⟨heq, hgh⟩, ← hf.out_nan mode fz false flagNV]
      exact congrArg (f.out mode fz) (if_neg hgh)

theorem Fmt.Binary.out_add_inf_left (g h : Bool) {m n : Nat} (hm : m = f.infinity) (hn : n < f.infinity) :
    f.out mode fz (addVal mode (f.number fz g m) (f.number fz h n)) = (f.signed g f.infinity, 0) := by
  obtain ⟨k, e, he, -⟩ := hf.number_finite h hn
  rw [f.number_inf fz g hm, he]
  exact hf.out_inf mode fz g 0

theorem Fmt.Binary.out_add_inf_right (g h : Bool) {m n : Nat} (hm : m < f.infinity) (hn : n = f.infinity) :
    f.out mode fz (addVal mode (f.number fz g m) (f.number fz h n)) = (f.signed h f.infinity, 0) := by
  obtain ⟨k, e, he, -⟩ := hf.number_finite g hm
  rw [f.number_inf fz h hn, he]
  exact hf.out_inf mode fz h 0

theorem Fmt.Binary.flushed_infinity {m : Nat} (hm : m = f.infinity) : f.flushed fz m = f.infinity := by
  rw [Fmt.flushed, if_neg fun h => absurd (hf.zeroMag_finite h) (by omega), hm]

/-! ## Products (R63) -/

theorem Fmt.Binary.mul_zero (g h : Bool) {m n : Nat} (hmn : (f.zeroMag fz m ∧ n < f.infinity) ∨ (m < f.infinity ∧ f.zeroMag fz n)) :
    mulVal (f.number fz g m) (f.number fz h n) = (.fin (g != h) 0 0, 0) := by
  have hm : m < f.infinity := hmn.elim (fun e => hf.zeroMag_finite e.1) And.left
  have hn : n < f.infinity := hmn.elim And.right fun e => hf.zeroMag_finite e.2
  obtain ⟨a, e, he, ha⟩ := hf.number_finite g hm
  obtain ⟨b, e', he', hb⟩ := hf.number_finite h hn
  have hab : a * b = 0 := hmn.elim (fun e => by rw [ha.mpr e.1, Nat.zero_mul]) fun e => by rw [hb.mpr e.2, Nat.mul_zero]
  rw [he, he']
  simp only [mulVal, hab, if_true]

theorem Fmt.Binary.mul_zero_inf (g h : Bool) {m n : Nat} (hmn : (f.zeroMag fz m ∧ n = f.infinity) ∨ (m = f.infinity ∧ f.zeroMag fz n)) :
    mulVal (f.number fz g m) (f.number fz h n) = (.nan false, flagNV) := by
  rcases hmn with ⟨hm, hn⟩ | ⟨hm, hn⟩
  · obtain ⟨e, he⟩ := hf.number_zero g hm
    rw [he, f.number_inf fz h hn]
    rfl
  · obtain ⟨e, he⟩ := hf.number_zero h hn
    rw [he, f.number_inf fz g hm]
    rfl

omit hf in
/-- A product of an infinity and a number other than zero. -/
theorem Fmt.mul_inf (g h : Bool) {m n : Nat} (hmn : (m = f.infinity ∧ ¬ f.infinity < n ∧ ¬ f.zeroMag fz n) ∨
      (n = f.infinity ∧ ¬ f.infinity < m ∧ ¬ f.zeroMag fz m)) :
    mulVal (f.number fz g m) (f.number fz h n) = (.inf (g != h), 0) := by
  rcases hmn with ⟨hm, hn, hz⟩ | ⟨hn, hm, hz⟩
  · rw [f.number_inf fz g hm]
    rcases Nat.lt_or_eq_of_le (Nat.not_lt.mp hn) with hlt | heq
    · rw [f.number_fin h hz hlt]
      exact if_neg (f.sig_ne_zero fun e => hz (.inl e))
    · rw [f.number_inf fz h heq]
      rfl
  · rw [f.number_inf fz h hn]
    rcases Nat.lt_or_eq_of_le (Nat.not_lt.mp hm) with hlt | heq
    · rw [f.number_fin g hz hlt]
      exact if_neg (f.sig_ne_zero fun e => hz (.inl e))
    · rw [f.number_inf fz g heq]
      rfl

theorem Fmt.Binary.mul_finite (g h : Bool) {m n : Nat} (hm : m < f.infinity) (hn : n < f.infinity) :
    ∃ p e, mulVal (f.number fz g m) (f.number fz h n) = (.fin (g != h) p e, 0) := by
  obtain ⟨a, e, he, -⟩ := hf.number_finite g hm
  obtain ⟨b, e', he', -⟩ := hf.number_finite h hn
  rw [he, he']
  exact ⟨_, _, rfl⟩

/-! ## Quotients (R63) -/

theorem Fmt.Binary.div_invalid (g h : Bool) {m n : Nat} (hmn : (f.zeroMag fz m ∧ f.zeroMag fz n) ∨ (m = f.infinity ∧ n = f.infinity)) :
    divVal (f.number fz g m) (f.number fz h n) = (.nan false, flagNV) := by
  rcases hmn with ⟨hm, hn⟩ | ⟨hm, hn⟩
  · obtain ⟨e, he⟩ := hf.number_zero g hm
    obtain ⟨e', he'⟩ := hf.number_zero h hn
    rw [he, he']
    rfl
  · rw [f.number_inf fz g hm, f.number_inf fz h hn]
    rfl

theorem Fmt.Binary.div_by_zero (g h : Bool) {m n : Nat} (hz : ¬ f.zeroMag fz m) (hm : m < f.infinity) (hn : f.zeroMag fz n) :
    divVal (f.number fz g m) (f.number fz h n) = (.inf (g != h), flagDZ) := by
  obtain ⟨e, he⟩ := hf.number_zero h hn
  have h0 := f.sig_ne_zero fun e => hz (.inl e)
  rw [f.number_fin g hz hm, he]
  simp [divVal, h0]

theorem Fmt.Binary.div_inf_left (g h : Bool) {m n : Nat} (hm : m = f.infinity) (hn : n < f.infinity) :
    divVal (f.number fz g m) (f.number fz h n) = (.inf (g != h), 0) := by
  obtain ⟨k, e, he, -⟩ := hf.number_finite h hn
  rw [f.number_inf fz g hm, he]
  rfl

theorem Fmt.Binary.div_to_zero (g h : Bool) {m n : Nat} (hmn : (f.zeroMag fz m ∧ n < f.infinity ∧ ¬ f.zeroMag fz n) ∨
      (m < f.infinity ∧ n = f.infinity)) : divVal (f.number fz g m) (f.number fz h n) = (.zero (g != h), 0) := by
  rcases hmn with ⟨hm, hn, hz⟩ | ⟨hm, hn⟩
  · obtain ⟨e, he⟩ := hf.number_zero g hm
    rw [he, f.number_fin h hz hn]
    exact (if_neg (f.sig_ne_zero fun e => hz (.inl e))).trans (if_pos rfl)
  · obtain ⟨k, e, he, -⟩ := hf.number_finite g hm
    rw [f.number_inf fz h hn, he]
    rfl

/-! ## Fused products (R63) -/

theorem Fmt.Binary.out_fma_nan (g h k : Bool) {m n : Nat} (p : Nat) (hn : f.infinity < m ∨ f.infinity < n) :
    f.out mode fz (fmaVal mode (f.number fz g m) (f.number fz h n) (f.number fz k p)) = (f.nanWord, f.quiet m ||| f.quiet n ||| f.quiet p) := by
  rw [fmaVal_nan mode _ (hn.imp (f.number_isNan_of fz g) (f.number_isNan_of fz h)), hf.out_nanOf_three]

omit hf in
theorem Fmt.fma_of_mul (g h k : Bool) {m n : Nat} (p : Nat) (hm : ¬ f.infinity < m) (hn : ¬ f.infinity < n) {x : FVal} {fl : FpFlags}
    (hx : mulVal (f.number fz g m) (f.number fz h n) = (x, fl)) :
    fmaVal mode (f.number fz g m) (f.number fz h n) (f.number fz k p) =
      if x.isNan then (x, fl) else if (f.number fz k p).isNan then nanOf [f.number fz k p] else addVal mode x (f.number fz k p) :=
  fmaVal_eq mode (f.number_not_isNan fz g hm) (f.number_not_isNan fz h hn) hx

/-- A fused code whose product is a number and whose addend is NaN. -/
theorem Fmt.Binary.out_fma_addend_nan (g h k : Bool) {m n p : Nat} (hm : ¬ f.infinity < m) (hn : ¬ f.infinity < n) {x : FVal} {fl : FpFlags}
    (hx : mulVal (f.number fz g m) (f.number fz h n) = (x, fl)) (hnan : x.isNan = false) (hp : f.infinity < p) :
    f.out mode fz (fmaVal mode (f.number fz g m) (f.number fz h n) (f.number fz k p)) = (f.nanWord, f.quiet p) := by
  rw [f.fma_of_mul mode g h k p hm hn hx, hnan, if_neg Bool.false_ne_true, if_pos (f.number_isNan_of fz k hp), hf.out_nanOf_one]

omit hf in
/-- A fused code whose product and addend are numbers. -/
theorem Fmt.fma_add (g h k : Bool) {m n p : Nat} (hm : ¬ f.infinity < m) (hn : ¬ f.infinity < n) {x : FVal} {fl : FpFlags}
    (hx : mulVal (f.number fz g m) (f.number fz h n) = (x, fl)) (hnan : x.isNan = false) (hp : ¬ f.infinity < p) :
    fmaVal mode (f.number fz g m) (f.number fz h n) (f.number fz k p) = addVal mode x (f.number fz k p) := by
  rw [f.fma_of_mul mode g h k p hm hn hx, hnan, if_neg Bool.false_ne_true, f.number_not_isNan fz k hp, if_neg Bool.false_ne_true]

end numbers

end Sys2Proof.Machine
end

section
/-! The order of numbers, minimum and maximum (R63), roots and seeds (R65, R66), and FCVT (R62, R106). -/

namespace Sys2Proof.Machine

/-! ## The order (R63) -/

/-- A finite magnitude in units of its format's least value. -/
def Fmt.units (f : Fmt) (m : Nat) : Nat := f.sig m * 2 ^ ((m / 2 ^ f.frac).max 1 - 1)

theorem Fmt.units_lt (f : Fmt) {m n : Nat} (h : m < n) : f.units m < f.units n := by
  have hu : 0 < 2 ^ f.frac := Nat.two_pow_pos _
  have hle : m / 2 ^ f.frac ≤ n / 2 ^ f.frac := Nat.div_le_div_right h.le
  unfold Fmt.units
  rcases Nat.lt_or_eq_of_le hle with hlt | heq
  · have hn : 2 ^ f.frac ≤ n := Nat.not_lt.mp fun hn => Nat.not_lt_zero _ (Nat.div_eq_of_lt hn ▸ hlt)
    have hnq : (n / 2 ^ f.frac).max 1 = n / 2 ^ f.frac := max_eq_left (Nat.one_le_of_lt hlt)
    have hsn : 2 ^ f.frac * 2 ^ (n / 2 ^ f.frac - 1) ≤ f.sig n * 2 ^ (n / 2 ^ f.frac - 1) :=
      Nat.mul_le_mul_right _ (by rw [f.sig_normal n hn]; omega)
    rw [hnq]
    refine lt_of_lt_of_le ?_ hsn
    rcases Nat.lt_or_ge m (2 ^ f.frac) with hm | hm
    · have h1 : 1 ≤ 2 ^ (n / 2 ^ f.frac - 1) := Nat.one_le_two_pow
      rw [f.sig_subnormal m hm, Nat.div_eq_of_lt hm, show (0 : Nat).max 1 - 1 = 0 from rfl, Nat.pow_zero, Nat.mul_one]
      exact lt_of_lt_of_le hm (Nat.le_mul_of_pos_right _ h1)
    · have hm1 : 1 ≤ m / 2 ^ f.frac := (Nat.one_le_div_iff hu).mpr hm
      have hmq : (m / 2 ^ f.frac).max 1 = m / 2 ^ f.frac := max_eq_left hm1
      rw [hmq]
      calc f.sig m * 2 ^ (m / 2 ^ f.frac - 1) < 2 * 2 ^ f.frac * 2 ^ (m / 2 ^ f.frac - 1) :=
            Nat.mul_lt_mul_of_pos_right (f.sig_lt m) (Nat.two_pow_pos _)
        _ = 2 ^ f.frac * 2 ^ (m / 2 ^ f.frac - 1 + 1) := by rw [Nat.pow_succ]; ring
        _ ≤ 2 ^ f.frac * 2 ^ (n / 2 ^ f.frac - 1) := Nat.mul_le_mul_left _ (Nat.pow_le_pow_right (by omega) (by omega))
  · rw [heq]
    refine Nat.mul_lt_mul_of_pos_right ?_ (Nat.two_pow_pos _)
    have hm := Nat.div_add_mod m (2 ^ f.frac)
    have hn := Nat.div_add_mod n (2 ^ f.frac)
    rw [heq] at hm
    have hmod : m % 2 ^ f.frac < n % 2 ^ f.frac := by omega
    rcases Nat.lt_or_ge n (2 ^ f.frac) with hlt | hge
    · rwa [f.sig_subnormal n hlt, f.sig_subnormal m (h.trans hlt)]
    · have hmge : 2 ^ f.frac ≤ m := Nat.not_lt.mp fun hlt => by
        rw [Nat.div_eq_of_lt hlt] at heq
        have := (Nat.one_le_div_iff hu).mpr hge
        omega
      rw [f.sig_normal n hge, f.sig_normal m hmge]
      omega

theorem Fmt.magLt_number (f : Fmt) (m n : Nat) : magLt (f.sig m) (f.exp m) (f.sig n) (f.exp n) = decide (m < n) := by
  have hlo : ∀ k, 1 - f.bias - f.frac ≤ f.exp k ∧ (f.exp k - (1 - f.bias - f.frac)).toNat = (k / 2 ^ f.frac).max 1 - 1 := fun k => by
    have h1 : 1 ≤ (k / 2 ^ f.frac).max 1 := le_max_right _ _
    rw [Fmt.exp]
    constructor <;> omega
  rw [magLt_eq _ _ _ _ _ (hlo m).1 (hlo n).1, (hlo m).2, (hlo n).2]
  refine decide_eq_decide.mpr ⟨fun h => ?_, f.units_lt⟩
  by_contra hge
  rcases Nat.lt_or_eq_of_le (Nat.not_lt.mp hge) with hlt | heq
  · exact absurd (f.units_lt hlt) (Nat.lt_asymm h)
  · subst heq
    exact absurd h (Nat.lt_irrefl _)

/-- The place of a sign and a magnitude in the order, −0 below +0. -/
abbrev orderKey (g : Bool) (m : Nat) : Int := if g then -(m : Int) - 1 else (m : Int)

/-- x lies below y, −0 below +0. -/
def FVal.below (x y : FVal) : Bool := ltVal x y || (x.isZero && y.isZero && x.isNeg && !y.isNeg)

theorem FVal.below_fin (g h : Bool) (a b : Nat) (d e : Int) : FVal.below (.fin g a d) (.fin h b e) =
    if a = 0 ∧ b = 0 then g && !h
    else if a = 0 then !h
    else if b = 0 then g
    else if g != h then g
    else if g then magLt b e a d else magLt a d b e := by
  by_cases ha : a = 0 <;> by_cases hb : b = 0 <;> simp [FVal.below, ltVal, FVal.isZero, FVal.isNeg, ha, hb]

theorem FVal.below_infs (g h : Bool) : FVal.below (.inf g) (.inf h) = (g && !h) := by
  cases g <;> cases h <;> rfl

theorem FVal.below_inf_fin (g h : Bool) (b : Nat) (e : Int) : FVal.below (.inf g) (.fin h b e) = g := by
  cases g <;> rfl

theorem FVal.below_fin_inf (g h : Bool) (a : Nat) (d : Int) : FVal.below (.fin g a d) (.inf h) = !h := by
  cases g <;> cases h <;> simp [FVal.below, ltVal, FVal.isZero]

section numbers
variable {f : Fmt} (hf : f.Binary) {fz : Bool}
include hf

theorem Fmt.Binary.below_number (g h : Bool) {m n : Nat} (hm : m ≤ f.infinity) (hn : n ≤ f.infinity) :
    FVal.below (f.number fz g m) (f.number fz h n) = decide (orderKey g (f.flushed fz m) < orderKey h (f.flushed fz n)) := by
  have hpos : ∀ {k}, ¬ f.zeroMag fz k → 0 < k := fun hk => Nat.pos_of_ne_zero fun e => hk (.inl e)
  rcases Nat.lt_or_eq_of_le hm with hm | hm <;> rcases Nat.lt_or_eq_of_le hn with hn | hn
  · by_cases hzm : f.zeroMag fz m <;> by_cases hzn : f.zeroMag fz n
    · obtain ⟨d, hd⟩ := hf.number_zero g hzm
      obtain ⟨e, he⟩ := hf.number_zero h hzn
      rw [hd, he, FVal.below_fin, Fmt.flushed, Fmt.flushed, if_pos hzm, if_pos hzn]
      cases g <;> cases h <;> rfl
    · obtain ⟨d, hd⟩ := hf.number_zero g hzm
      have hp := hpos hzn
      rw [hd, f.number_fin h hzn hn, FVal.below_fin, Fmt.flushed, Fmt.flushed, if_pos hzm, if_neg hzn,
        if_neg fun e => f.sig_ne_zero (by omega) e.2, if_pos rfl]
      cases g <;> cases h <;> simp [orderKey] <;> omega
    · obtain ⟨e, he⟩ := hf.number_zero h hzn
      have hp := hpos hzm
      have hs := f.sig_ne_zero (m := m) (by omega)
      rw [f.number_fin g hzm hm, he, FVal.below_fin, Fmt.flushed, Fmt.flushed, if_neg hzm, if_pos hzn, if_neg fun e => hs e.1, if_neg hs,
        if_pos rfl]
      cases g <;> cases h <;> simp [orderKey] <;> omega
    · have hp := hpos hzm
      have hq := hpos hzn
      have hs := f.sig_ne_zero (m := m) (by omega)
      have ht := f.sig_ne_zero (m := n) (by omega)
      rw [f.number_fin g hzm hm, f.number_fin h hzn hn, FVal.below_fin, Fmt.flushed, Fmt.flushed, if_neg hzm, if_neg hzn,
        if_neg fun e => hs e.1, if_neg hs, if_neg ht, f.magLt_number, f.magLt_number]
      cases g <;> cases h <;> simp [orderKey]
      omega
  · obtain ⟨a, d, hd, -⟩ := hf.number_finite g hm
    have hfl : f.flushed fz m < f.infinity := by unfold Fmt.flushed; split <;> omega
    rw [hd, f.number_inf fz h hn, FVal.below_fin_inf, hf.flushed_infinity hn]
    generalize f.infinity = top, f.flushed fz _ = k at hfl ⊢
    cases g <;> cases h <;> simp [orderKey] <;> omega
  · obtain ⟨b, e, he, -⟩ := hf.number_finite h hn
    have hfl : f.flushed fz n < f.infinity := by unfold Fmt.flushed; split <;> omega
    rw [f.number_inf fz g hm, he, FVal.below_inf_fin, hf.flushed_infinity hm]
    generalize f.infinity = top, f.flushed fz _ = k at hfl ⊢
    cases g <;> cases h <;> simp [orderKey] <;> omega
  · rw [f.number_inf fz g hm, f.number_inf fz h hn, FVal.below_infs, hf.flushed_infinity hm, hf.flushed_infinity hn]
    generalize f.infinity = top
    cases g <;> cases h <;> simp [orderKey]
    omega

/-! ## Minimum and maximum (R63) -/

/-- The word and the flags of a value that the format holds. -/
def Fmt.exactOut (f : Fmt) (r : FVal × FpFlags) : Word × FpFlags := (BitVec.ofNat 64 (f.code r.1), r.2)

omit hf in
theorem minMaxVal_numbers (isMax : Bool) {x y : FVal} (hx : x.isNan = false) (hy : y.isNan = false) :
    minMaxVal isMax x y = (if x.below y then (if isMax then y else x) else if y.below x then (if isMax then x else y) else x, 0) := by
  rw [minMaxVal, if_neg (by rw [hx]; exact Bool.false_ne_true), if_neg (by rw [hy]; exact Bool.false_ne_true), FVal.below, FVal.below,
    Bool.and_comm y.isZero x.isZero]

theorem Fmt.Binary.minMax_nans (isMax : Bool) (g h : Bool) {m n : Nat} (hm : f.infinity < m) (hn : f.infinity < n) :
    f.exactOut (minMaxVal isMax (f.number fz g m) (f.number fz h n)) = (f.nanWord, f.quiet m ||| f.quiet n) := by
  rw [minMaxVal_nans isMax (f.number_isNan_of fz g hm) (f.number_isNan_of fz h hn), flagIf_or, f.number_quiet, f.number_quiet, Fmt.exactOut,
    hf.code_nan]

theorem Fmt.Binary.minMax_nan_left (isMax : Bool) (g h : Bool) {m n : Nat} (hm : f.infinity < m) (hn : ¬ f.infinity < n) :
    f.exactOut (minMaxVal isMax (f.number fz g m) (f.number fz h n)) = (f.signed h (f.flushed fz n), f.quiet m) := by
  have hq : f.quiet n = 0 := if_neg fun e => hn e.1
  rw [minMaxVal_nan_left isMax (f.number_isNan_of fz g hm) (f.number_not_isNan fz h hn), flagIf_or, f.number_quiet, f.number_quiet, hq,
    flags_or_zero, Fmt.exactOut, hf.code_number fz h (Nat.not_lt.mp hn)]

theorem Fmt.Binary.minMax_nan_right (isMax : Bool) (g h : Bool) {m n : Nat} (hm : ¬ f.infinity < m) (hn : f.infinity < n) :
    f.exactOut (minMaxVal isMax (f.number fz g m) (f.number fz h n)) = (f.signed g (f.flushed fz m), f.quiet n) := by
  have hq : f.quiet m = 0 := if_neg fun e => hm e.1
  rw [minMaxVal_nan_right isMax (f.number_not_isNan fz g hm) (f.number_isNan_of fz h hn), flagIf_or, f.number_quiet, f.number_quiet, hq,
    BitVec.or_comm, flags_or_zero, Fmt.exactOut, hf.code_number fz g (Nat.not_lt.mp hm)]

omit hf in
theorem orderKey_inj {g h : Bool} {m n : Nat} (e : orderKey g m = orderKey h n) : g = h ∧ m = n := by
  cases g <;> cases h <;> simp [orderKey] at e ⊢ <;> omega

theorem Fmt.Binary.min_numbers (g h : Bool) {m n : Nat} (hm : ¬ f.infinity < m) (hn : ¬ f.infinity < n) :
    f.exactOut (minMaxVal false (f.number fz g m) (f.number fz h n)) =
      (if orderKey g (f.flushed fz m) ≤ orderKey h (f.flushed fz n) then f.signed g (f.flushed fz m) else f.signed h (f.flushed fz n), 0) := by
  have hm' := Nat.not_lt.mp hm
  have hn' := Nat.not_lt.mp hn
  rw [minMaxVal_numbers false (f.number_not_isNan fz g hm) (f.number_not_isNan fz h hn), hf.below_number g h hm' hn',
    hf.below_number h g hn' hm', Fmt.exactOut]
  refine Prod.ext (congrArg (BitVec.ofNat 64) ?_ |>.trans (apply_ite _ _ _ _)) rfl
  simp only [decide_eq_true_eq, Bool.false_eq_true, if_false]
  rcases lt_trichotomy (orderKey g (f.flushed fz m)) (orderKey h (f.flushed fz n)) with hlt | heq | hgt
  · rw [if_pos hlt, if_pos hlt.le, hf.code_number fz g hm']
  · rw [if_neg (by omega), if_neg (by omega), if_pos heq.le, hf.code_number fz g hm']
  · rw [if_neg (by omega), if_pos hgt, if_neg (by omega), hf.code_number fz h hn']

theorem Fmt.Binary.max_numbers (g h : Bool) {m n : Nat} (hm : ¬ f.infinity < m) (hn : ¬ f.infinity < n) :
    f.exactOut (minMaxVal true (f.number fz g m) (f.number fz h n)) =
      (if orderKey g (f.flushed fz m) ≤ orderKey h (f.flushed fz n) then f.signed h (f.flushed fz n) else f.signed g (f.flushed fz m), 0) := by
  have hm' := Nat.not_lt.mp hm
  have hn' := Nat.not_lt.mp hn
  rw [minMaxVal_numbers true (f.number_not_isNan fz g hm) (f.number_not_isNan fz h hn), hf.below_number g h hm' hn',
    hf.below_number h g hn' hm', Fmt.exactOut]
  refine Prod.ext (congrArg (BitVec.ofNat 64) ?_ |>.trans (apply_ite _ _ _ _)) rfl
  simp only [decide_eq_true_eq, if_true]
  rcases lt_trichotomy (orderKey g (f.flushed fz m)) (orderKey h (f.flushed fz n)) with hlt | heq | hgt
  · rw [if_pos hlt, if_pos hlt.le, hf.code_number fz h hn']
  · obtain ⟨hg, hk⟩ := orderKey_inj heq
    rw [if_neg (by omega), if_neg (by omega), if_pos heq.le, hf.code_number fz g hm', hg, hk]
  · rw [if_neg (by omega), if_pos hgt, if_neg (by omega), hf.code_number fz g hm']

/-! ## Roots and seeds (R63, R65, R66) -/

theorem Fmt.Binary.sqrt_nan (mode : RMode) (g : Bool) {m : Nat} (hm : f.infinity < m) :
    f.out mode fz (sqrtVal (f.number fz g m)) = (f.nanWord, f.quiet m) := by
  rw [← hf.out_nanOf_one mode g m, f.number_nan fz g hm]
  rfl

theorem Fmt.Binary.sqrt_zero (mode : RMode) (g : Bool) {m : Nat} (hm : f.zeroMag fz m) :
    f.out mode fz (sqrtVal (f.number fz g m)) = (f.signed g 0, 0) := by
  obtain ⟨e, he⟩ := hf.number_zero g hm
  rw [he]
  exact f.out_zero mode fz g e 0

theorem Fmt.Binary.sqrt_negative (mode : RMode) {m : Nat} (hz : ¬ f.zeroMag fz m) (hn : ¬ f.infinity < m) :
    f.out mode fz (sqrtVal (f.number fz true m)) = (f.nanWord, flagNV) := by
  have hs : sqrtVal (f.number fz true m) = (.nan false, flagNV) := by
    rcases Nat.lt_or_eq_of_le (Nat.not_lt.mp hn) with hlt | heq
    · rw [f.number_fin true hz hlt]
      exact (if_neg (f.sig_ne_zero fun e => hz (.inl e))).trans (if_pos rfl)
    · rw [f.number_inf fz true heq]
      rfl
  rw [hs, hf.out_nan]

theorem Fmt.Binary.sqrt_inf (mode : RMode) {m : Nat} (hm : m = f.infinity) :
    f.out mode fz (sqrtVal (f.number fz false m)) = (f.signed false f.infinity, 0) := by
  rw [f.number_inf fz false hm]
  exact hf.out_inf mode fz false 0

end numbers

end Sys2Proof.Machine
end

section
/-! Seeds (R65, R66) and FCVT (R62, R106) on an operand told by sign and magnitude. -/

namespace Sys2Proof.Machine

section numbers
variable {f : Fmt} (hf : f.Binary) {fz : Bool}
include hf

/-! ## Seeds -/

theorem Fmt.Binary.rsqe_nan (x : FVal) (g : Bool) {m : Nat} (hx : flushIn f fz x = f.number fz g m) (hm : f.infinity < m) :
    f.exactOut (rsqeVal f fz x) = (f.nanWord, f.quiet m) := by
  have hq := f.number_quiet fz g m
  rw [f.number_nan fz g hm] at hx hq
  rw [rsqeVal, hx, Fmt.exactOut, hf.code_nan, ← hq]
  rfl

theorem Fmt.Binary.rcpe_nan (x : FVal) (g : Bool) {m : Nat} (hx : flushIn f fz x = f.number fz g m) (hm : f.infinity < m) :
    f.exactOut (rcpeVal f fz x) = (f.nanWord, f.quiet m) := by
  have hq := f.number_quiet fz g m
  rw [f.number_nan fz g hm] at hx hq
  rw [rcpeVal, hx, Fmt.exactOut, hf.code_nan, ← hq]
  rfl

theorem Fmt.Binary.rsqe_zero (x : FVal) (g : Bool) {m : Nat} (hx : flushIn f fz x = f.number fz g m) (hm : f.zeroMag fz m) :
    f.exactOut (rsqeVal f fz x) = (f.signed g f.infinity, flagDZ) := by
  obtain ⟨e, he⟩ := hf.number_zero g hm
  have hr : rsqeVal f fz x = (.inf g, flagDZ) := by
    rw [rsqeVal, hx, he]
    exact if_pos rfl
  rw [hr, Fmt.exactOut, f.code_inf]

theorem Fmt.Binary.rcpe_zero (x : FVal) (g : Bool) {m : Nat} (hx : flushIn f fz x = f.number fz g m) (hm : f.zeroMag fz m) :
    f.exactOut (rcpeVal f fz x) = (f.signed g f.infinity, flagDZ) := by
  obtain ⟨e, he⟩ := hf.number_zero g hm
  have hr : rcpeVal f fz x = (.inf g, flagDZ) := by
    rw [rcpeVal, hx, he]
    exact if_pos rfl
  rw [hr, Fmt.exactOut, f.code_inf]

theorem Fmt.Binary.rsqe_negative (x : FVal) {m : Nat} (hx : flushIn f fz x = f.number fz true m) (hz : ¬ f.zeroMag fz m)
    (hn : ¬ f.infinity < m) : f.exactOut (rsqeVal f fz x) = (f.nanWord, flagNV) := by
  have hr : rsqeVal f fz x = (.nan false, flagNV) := by
    rw [rsqeVal, hx]
    rcases Nat.lt_or_eq_of_le (Nat.not_lt.mp hn) with hlt | heq
    · rw [f.number_fin true hz hlt]
      exact (if_neg (f.sig_ne_zero fun e => hz (.inl e))).trans (if_pos rfl)
    · rw [f.number_inf fz true heq]
      rfl
  rw [hr, Fmt.exactOut, hf.code_nan]

omit hf in
theorem Fmt.rsqe_inf (x : FVal) {m : Nat} (hx : flushIn f fz x = f.number fz false m) (hm : m = f.infinity) :
    f.exactOut (rsqeVal f fz x) = (0, 0) := by
  rw [f.number_inf fz false hm] at hx
  have hr : rsqeVal f fz x = (.zero false, 0) := by rw [rsqeVal, hx]; rfl
  rw [hr, Fmt.exactOut, FVal.zero, f.code_zero]
  rfl

omit hf in
theorem Fmt.rcpe_inf (x : FVal) (g : Bool) {m : Nat} (hx : flushIn f fz x = f.number fz g m) (hm : m = f.infinity) :
    f.exactOut (rcpeVal f fz x) = (f.signed g 0, 0) := by
  rw [f.number_inf fz g hm] at hx
  have hr : rcpeVal f fz x = (.zero g, 0) := by rw [rcpeVal, hx]
  rw [hr, Fmt.exactOut, FVal.zero, f.code_zero]

/-! ## FCVT of an integer (R62) -/

omit hf in
theorem Fmt.out_of_roundFmt (f : Fmt) {mode : RMode} {fz : Bool} {x y : FVal} (fl : FpFlags) {fl' : FpFlags}
    (h : roundFmt f mode fz x = (y, fl')) : f.out mode fz (x, fl) = (BitVec.ofNat 64 (f.code y), fl ||| fl') := by
  rw [Fmt.out, roundCode, h]

omit hf in
/-- A nonzero integer as F + 1 bits of significand. -/
theorem Fmt.roundMag_log2 (f : Fmt) (mode : RMode) (g : Bool) (m : Nat) :
    roundMag mode g m ((log2 m : Int) - f.frac - 0) =
      (roundQuot mode g (m * 2 ^ f.frac) (2 ^ log2 m), decide (m * 2 ^ f.frac % 2 ^ log2 m = 0)) := by
  rcases Nat.lt_or_ge f.frac (log2 m) with h | h
  · obtain ⟨k, hk⟩ : ∃ k, log2 m = k + f.frac := ⟨log2 m - f.frac, by omega⟩
    have hu : 0 < 2 ^ f.frac := Nat.two_pow_pos _
    rw [hk, show ((k + f.frac : Nat) : Int) - f.frac - 0 = (k : Int) by omega, roundMag_pos mode g m k (by omega), Nat.pow_add,
      roundQuot_scale mode g m _ _ hu, Nat.mul_mod_mul_right]
    exact congrArg (Prod.mk _) (decide_eq_decide.mpr (by simp))
  · obtain ⟨k, hk⟩ : ∃ k, f.frac = k + log2 m := ⟨f.frac - log2 m, by omega⟩
    have hp : 0 < 2 ^ log2 m := Nat.two_pow_pos _
    have hmod : m * 2 ^ f.frac % 2 ^ log2 m = 0 := by rw [hk, Nat.pow_add, ← Nat.mul_assoc, Nat.mul_mod_left]
    rw [show (log2 m : Int) - f.frac - 0 = -(k : Int) by omega, roundMag_shift, roundQuot_of_dvd mode g _ _ hp hmod, decide_eq_true hmod, hk,
      Nat.pow_add, ← Nat.mul_assoc, Nat.mul_div_cancel _ hp]

omit hf in
theorem Fmt.roundQuot_log2_bounds (f : Fmt) (mode : RMode) (g : Bool) {m : Nat} (hm : m ≠ 0) :
    2 ^ f.frac ≤ roundQuot mode g (m * 2 ^ f.frac) (2 ^ log2 m) ∧ roundQuot mode g (m * 2 ^ f.frac) (2 ^ log2 m) ≤ 2 * 2 ^ f.frac := by
  have hp : 0 < 2 ^ log2 m := Nat.two_pow_pos _
  have hu : 0 < 2 ^ f.frac := Nat.two_pow_pos _
  have hl : 2 ^ log2 m ≤ m := Nat.log2_self_le hm
  have hlt : m < 2 ^ (log2 m + 1) := Nat.lt_log2_self
  have h1 : 2 ^ f.frac ≤ m * 2 ^ f.frac / 2 ^ log2 m := by
    rw [Nat.le_div_iff_mul_le hp, Nat.mul_comm]
    exact Nat.mul_le_mul_right _ hl
  have h2 : m * 2 ^ f.frac / 2 ^ log2 m < 2 * 2 ^ f.frac := by
    rw [Nat.div_lt_iff_lt_mul hp]
    calc m * 2 ^ f.frac < 2 ^ (log2 m + 1) * 2 ^ f.frac := Nat.mul_lt_mul_of_pos_right hlt hu
      _ = 2 * 2 ^ f.frac * 2 ^ log2 m := by rw [Nat.pow_succ]; ring
  rw [roundQuot]
  split <;> omega

theorem Fmt.Binary.out_int (mode : RMode) (v : Int) (hv : log2 v.natAbs < 2 ^ (f.ebits - 1) - 1) :
    f.out mode fz (FVal.ofInt v, 0) =
      (if v = 0 then 0 else f.signed (decide (v < 0)) ((log2 v.natAbs + (2 ^ (f.ebits - 1) - 1) - 1) * 2 ^ f.frac +
          roundQuot mode (decide (v < 0)) (v.natAbs * 2 ^ f.frac) (2 ^ log2 v.natAbs)),
        if v.natAbs * 2 ^ f.frac % 2 ^ log2 v.natAbs = 0 then 0 else flagNX) := by
  by_cases h0 : v = 0
  · subst h0
    refine (f.out_zero mode fz false 0 0).trans (Prod.ext rfl ?_)
    simp
  · have hm : v.natAbs ≠ 0 := Int.natAbs_ne_zero.mpr h0
    have hem : f.emin = 1 - f.bias := rfl
    have hbias := hf.bias
    obtain ⟨hlo, hhi⟩ := f.roundQuot_log2_bounds mode (decide (v < 0)) hm
    have hu : 0 < 2 ^ f.frac := Nat.two_pow_pos _
    have hy : roundQuot mode (decide (v < 0)) (v.natAbs * 2 ^ f.frac) (2 ^ log2 v.natAbs) ≠ 0 := by omega
    have hround := f.roundFmt_eq mode fz (decide (v < 0)) v.natAbs 0 ((log2 v.natAbs : Int) - f.frac) _ _ hm
      (by rw [if_neg (by omega), Int.add_zero]) (f.roundMag_log2 mode (decide (v < 0)) v.natAbs) hy
      (f.not_overflow hf _ _ (.inr ⟨hhi, by omega⟩)) (fun _ => by
        have hlog : f.frac ≤ log2 (roundQuot mode (decide (v < 0)) (v.natAbs * 2 ^ f.frac) (2 ^ log2 v.natAbs)) := (Nat.le_log2 hy).mpr hlo
        omega) (.inr (by omega))
    rw [if_neg h0, FVal.ofInt, f.out_of_roundFmt 0 hround, f.code_normal _ _ _ hlo hhi (by omega)]
    refine Prod.ext (congrArg (fun k => BitVec.ofNat 64 (f.signedCode _ (k * 2 ^ f.frac + _))) (by omega)) ?_
    simp [flagIf]

end numbers

end Sys2Proof.Machine
end

section
/-! FCVT of a float, to an integer and to the other float (R62, R106). -/

namespace Sys2Proof.Machine

/-! ## To an integer -/

/-- The least integer of a signed or unsigned word. -/
def leastInt (un : Bool) : Int := if un then 0 else -2 ^ 63

/-- The greatest integer of a signed or unsigned word. -/
def mostInt (un : Bool) : Int := if un then 2 ^ 64 - 1 else 2 ^ 63 - 1

/-- An integer that a float rounds to, within the word's bounds (R62). -/
def boundInt (un : Bool) (v : Int) (fl : FpFlags) : Int × FpFlags :=
  if v < leastInt un then (leastInt un, flagNV ||| flagSAT)
  else if mostInt un < v then (mostInt un, flagNV ||| flagSAT)
  else (v, fl)

theorem leastInt_mostInt_bounds (un : Bool) : -2 ^ 80 < leastInt un ∧ leastInt un ≤ 0 ∧ 0 ≤ mostInt un ∧ mostInt un < 2 ^ 80 := by
  cases un <;> decide

theorem satInt_eq (un : Bool) (v : Int) :
    (satInt 64 (!un) v).1 = if v < leastInt un then leastInt un else if mostInt un < v then mostInt un else v := by
  simp only [satInt, apply_ite Prod.fst, leastInt, mostInt]
  cases un <;> rfl

theorem toInt_fin (un : Bool) (mode : RMode) (g : Bool) (n : Nat) (e : Int) (y : Nat) (exact : Bool)
    (hr : roundMag mode g n (-e) = (y, exact)) (hbig : 80 < (log2 n : Int) + e → 2 ^ 80 ≤ y) :
    toInt 64 (!un) mode (.fin g n e) = boundInt un (if g then -(y : Int) else (y : Int)) (flagIf (!exact) flagNX) := by
  obtain ⟨hlo, hlo0, hhi0, hhi⟩ := leastInt_mostInt_bounds un
  unfold toInt boundInt
  dsimp only
  by_cases h : 80 < (log2 n : Int) + e
  · have hy : (2 : Int) ^ 80 ≤ (y : Int) := by exact_mod_cast hbig h
    rw [if_pos (decide_eq_true h), satInt_eq]
    generalize leastInt un = lo at hlo hlo0 ⊢
    generalize mostInt un = hi at hhi0 hhi ⊢
    cases g with
    | true => simp only [if_true, if_pos hlo, if_pos (show -(y : Int) < lo by omega)]
    | false =>
      simp only [Bool.false_eq_true, if_false, if_neg (show ¬ (2 : Int) ^ 80 < lo by omega), if_pos hhi, if_neg (show ¬ (y : Int) < lo by omega),
        if_pos (show hi < (y : Int) by omega)]
  · rw [if_neg (by simpa using h), hr]
    dsimp only
    rw [satInt_eq]
    generalize leastInt un = lo at hlo0 ⊢
    generalize mostInt un = hi at hhi0 ⊢
    generalize (if g then -(y : Int) else (y : Int)) = v
    by_cases h1 : v < lo
    · rw [if_pos h1, if_neg (by omega), if_pos h1]
    · by_cases h2 : hi < v
      · rw [if_neg h1, if_pos h2, if_neg (by omega), if_neg h1, if_pos h2]
      · rw [if_neg h1, if_neg h2, if_pos rfl, if_neg h1, if_neg h2]

/-- The numerator of a magnitude over 2^(bias + F). -/
def Fmt.scaled (f : Fmt) (m : Nat) : Nat := f.sig m * 2 ^ (m / 2 ^ f.frac).max 1

/-- The denominator of a magnitude. -/
abbrev Fmt.scale (f : Fmt) : Nat := 2 ^ (2 ^ (f.ebits - 1) - 1 + f.frac)

section numbers
variable {f : Fmt} (hf : f.Binary) {fz : Bool}
include hf

theorem Fmt.Binary.roundMag_exp (mode : RMode) (g : Bool) (m : Nat) : roundMag mode g (f.sig m) (-f.exp m) =
    (roundQuot mode g (f.scaled m) f.scale, decide (f.scaled m % f.scale = 0)) := by
  have hbias := hf.bias
  rw [Fmt.scaled, Fmt.scale, Fmt.exp, hbias]
  generalize (m / 2 ^ f.frac).max 1 = q
  generalize 2 ^ (f.ebits - 1) - 1 = b
  rcases Nat.lt_or_ge q (b + f.frac) with h | h
  · obtain ⟨k, hk⟩ : ∃ k, b + f.frac = k + q := ⟨b + f.frac - q, by omega⟩
    have hp : 0 < 2 ^ q := Nat.two_pow_pos _
    rw [hk, show -((q : Int) - (b : Int) - f.frac) = (k : Int) by omega, roundMag_pos mode g _ k (by omega), Nat.pow_add,
      roundQuot_scale mode g _ _ _ hp, Nat.mul_mod_mul_right]
    exact congrArg (Prod.mk _) (decide_eq_decide.mpr (by simp))
  · obtain ⟨k, rfl⟩ : ∃ k, q = k + (b + f.frac) := ⟨q - (b + f.frac), by omega⟩
    have hp : 0 < 2 ^ (b + f.frac) := Nat.two_pow_pos _
    have hmod : f.sig m * 2 ^ (k + (b + f.frac)) % 2 ^ (b + f.frac) = 0 := by rw [Nat.pow_add, ← Nat.mul_assoc, Nat.mul_mod_left]
    rw [show -(((k + (b + f.frac) : Nat) : Int) - (b : Int) - f.frac) = -(k : Int) by omega, roundMag_shift, roundQuot_of_dvd mode g _ _ hp hmod,
      decide_eq_true hmod, Nat.pow_add 2 k, ← Nat.mul_assoc, Nat.mul_div_cancel _ hp]

theorem Fmt.Binary.scaled_big (mode : RMode) (g : Bool) {m : Nat} (hm : m ≠ 0) (h : 80 < (log2 (f.sig m) : Int) + f.exp m) :
    2 ^ 80 ≤ roundQuot mode g (f.scaled m) f.scale := by
  have hl : 2 ^ log2 (f.sig m) ≤ f.sig m := Nat.log2_self_le (f.sig_ne_zero hm)
  have hbias := hf.bias
  rw [Fmt.exp, hbias] at h
  have hle : 2 ^ 80 ≤ f.scaled m / f.scale := by
    rw [Nat.le_div_iff_mul_le (Nat.two_pow_pos _), Fmt.scaled, ← Nat.pow_add]
    calc 2 ^ (80 + (2 ^ (f.ebits - 1) - 1 + f.frac)) ≤ 2 ^ (log2 (f.sig m) + (m / 2 ^ f.frac).max 1) :=
          Nat.pow_le_pow_right (by omega) (by
            generalize 2 ^ (f.ebits - 1) - 1 = b at h ⊢
            generalize (m / 2 ^ f.frac).max 1 = q at h ⊢
            omega)
      _ = 2 ^ log2 (f.sig m) * 2 ^ (m / 2 ^ f.frac).max 1 := Nat.pow_add _ _ _
      _ ≤ _ := Nat.mul_le_mul_right _ hl
  exact hle.trans (Nat.le_add_right _ _)

theorem Fmt.Binary.number_zero_exp (g : Bool) {m : Nat} (h : f.zeroMag fz m) : ∃ e ≤ (0 : Int), f.number fz g m = .fin g 0 e := by
  have hlt := hf.zeroMag_finite h
  refine ⟨if m = 0 then f.emin - f.frac else 0, ?_, by rw [Fmt.number, if_neg (by omega), if_neg (by omega), if_pos h]⟩
  have hem : f.emin = 1 - f.bias := rfl
  have hbias := hf.bias
  have hfrac := hf.frac_pos
  split <;> omega

theorem Fmt.Binary.toInt_number (un : Bool) (mode : RMode) (g : Bool) {m : Nat} (hm : m < f.infinity) :
    let x := if f.zeroMag fz m then 0 else f.scaled m
    toInt 64 (!un) mode (f.number fz g m) =
      boundInt un (if g then -(roundQuot mode true x f.scale : Int) else (roundQuot mode false x f.scale : Int))
        (if x % f.scale = 0 then 0 else flagNX) := by
  intro x
  have hsign : ∀ k : Nat → Bool → Nat, (if g then -((k x true : Nat) : Int) else (k x false : Nat)) = if g then -((k x g : Nat) : Int) else (k x g : Nat) :=
    fun k => by cases g <;> rfl
  rw [hsign fun x g => roundQuot mode g x f.scale]
  have hflag : (if x % f.scale = 0 then (0 : FpFlags) else flagNX) = flagIf (!decide (x % f.scale = 0)) flagNX := by
    by_cases h : x % f.scale = 0 <;> simp [h, flagIf]
  rw [hflag]
  by_cases hz : f.zeroMag fz m
  · obtain ⟨e, hle, he⟩ := hf.number_zero_exp g hz
    have hx : x = 0 := if_pos hz
    have hk : -e = -((0 : Nat) : Int) ∨ ∃ k : Nat, 0 < k ∧ -e = k := by
      rcases Int.lt_or_eq_of_le hle with h | h
      · exact .inr ⟨(-e).toNat, by omega, by omega⟩
      · exact .inl (by omega)
    have hr : roundMag mode g 0 (-e) = (0, true) := by
      rcases hk with hk | ⟨k, hk0, hk⟩
      · rw [hk, roundMag_shift, Nat.zero_mul]
      · rw [hk, roundMag_pos mode g 0 k hk0, roundQuot_of_dvd mode g 0 _ (Nat.two_pow_pos k) (Nat.zero_mod _), Nat.zero_div, Nat.zero_mod]
        rfl
    rw [he, hx, roundQuot_of_dvd mode g 0 _ (Nat.two_pow_pos _) (Nat.zero_mod _), Nat.zero_div, Nat.zero_mod]
    exact toInt_fin un mode g 0 e 0 true hr fun h => absurd h (by rw [show log2 0 = 0 from Nat.log2_zero]; omega)
  · have hx : x = f.scaled m := if_neg hz
    rw [f.number_fin g hz hm, hx]
    exact toInt_fin un mode g _ _ _ _ (hf.roundMag_exp mode g m) (hf.scaled_big mode g fun e => hz (.inl e))

end numbers

/-! ## FP32 to FP64 -/

/-- A finite nonzero FP32 value becomes FP64 exactly; a subnormal one is normal there. -/
theorem out_widened (mode : RMode) {fz : Bool} (g : Bool) {m : Nat} (fl : FpFlags) (hz : ¬ Fmt.f32.zeroMag fz m) (hm : m < Fmt.f32.infinity) :
    Fmt.f64.out mode fz (Fmt.f32.number fz g m, fl) = (BitVec.ofNat 64 ((if g then 2 ^ 63 else 0) + if 2 ^ 23 ≤ m then m * 2 ^ 29 + 896 * 2 ^ 52
      else (Nat.log2 m + 873) * 2 ^ 52 + m * 2 ^ (52 - Nat.log2 m)), fl) := by
  have hf : Fmt.f64.Binary := Fmt.wide.binary (.inr rfl)
  have h0 : m ≠ 0 := fun e => hz (.inl e)
  have hs := Fmt.f32.sig_ne_zero h0
  have hslt : Fmt.f32.sig m < 2 ^ 24 := Fmt.f32.sig_lt m
  have hl : log2 (Fmt.f32.sig m) < 24 := (Nat.log2_lt hs).mpr hslt
  obtain ⟨k, hk⟩ : ∃ k, 52 = k + log2 (Fmt.f32.sig m) := ⟨52 - log2 (Fmt.f32.sig m), by omega⟩
  have hexp : -149 ≤ Fmt.f32.exp m ∧ Fmt.f32.exp m ≤ 104 := by
    have hq : m / 2 ^ 23 < 255 := (Fmt.f32.exponent_below m).mpr hm
    change -149 ≤ (((m / 2 ^ 23).max 1 : Nat) : Int) - 127 - 23 ∧ (((m / 2 ^ 23).max 1 : Nat) : Int) - 127 - 23 ≤ 104
    have h1 : 1 ≤ (m / 2 ^ 23).max 1 := le_max_right _ _
    have h2 : (m / 2 ^ 23).max 1 ≤ 254 := max_le (by omega) (by omega)
    omega
  have hy1 : 2 ^ 52 ≤ Fmt.f32.sig m * 2 ^ k := by
    rw [hk, Nat.pow_add, Nat.mul_comm]
    exact Nat.mul_le_mul_right _ (Nat.log2_self_le hs)
  have hy2 : Fmt.f32.sig m * 2 ^ k < 2 * 2 ^ 52 := by
    have hlt : Fmt.f32.sig m < 2 ^ (log2 (Fmt.f32.sig m) + 1) := Nat.lt_log2_self
    calc Fmt.f32.sig m * 2 ^ k < 2 ^ (log2 (Fmt.f32.sig m) + 1) * 2 ^ k := Nat.mul_lt_mul_of_pos_right hlt (Nat.two_pow_pos k)
      _ = 2 ^ (log2 (Fmt.f32.sig m) + 1 + k) := (Nat.pow_add _ _ _).symm
      _ = 2 ^ 53 := by rw [show log2 (Fmt.f32.sig m) + 1 + k = 53 by omega]
      _ = 2 * 2 ^ 52 := by rw [Nat.pow_succ, Nat.mul_comm]
  have hemin : Fmt.f64.emin = -1022 := rfl
  have hbias : Fmt.f64.bias = 1023 := rfl
  have hfrac : (Fmt.f64.frac : Int) = 52 := rfl
  have hround := Fmt.f64.roundFmt_eq mode fz g (Fmt.f32.sig m) (Fmt.f32.exp m) ((log2 (Fmt.f32.sig m) : Int) + Fmt.f32.exp m - 52)
    (Fmt.f32.sig m * 2 ^ k) true hs (by rw [if_neg (by omega), hfrac])
    (by rw [show (log2 (Fmt.f32.sig m) : Int) + Fmt.f32.exp m - 52 - Fmt.f32.exp m = -(k : Int) by omega, roundMag_shift])
    (by omega) (Fmt.f64.not_overflow hf _ _ (.inl ⟨hy2, by omega⟩))
    (fun _ => by
      have hlog : 52 ≤ log2 (Fmt.f32.sig m * 2 ^ k) := (Nat.le_log2 (by omega)).mpr hy1
      omega) (.inl rfl)
  rw [Fmt.f32.number_fin g hz hm, Fmt.f64.out_of_roundFmt fl hround, Fmt.f64.code_normal g _ _ hy1 hy2.le (by omega)]
  refine Prod.ext (congrArg (fun n => BitVec.ofNat 64 ((if g then 2 ^ 63 else 0) + n)) ?_) (flags_or_zero fl)
  change ((log2 (Fmt.f32.sig m) : Int) + Fmt.f32.exp m - 52 + 52 + 1023 - 1).toNat * 2 ^ 52 + Fmt.f32.sig m * 2 ^ k = _
  rcases Nat.lt_or_ge m (2 ^ 23) with hlt | hge
  · rw [if_neg (by omega), Fmt.f32.sig_subnormal m hlt, Fmt.f32.exp_subnormal m hlt]
    rw [Fmt.f32.sig_subnormal m hlt] at hk hl
    have he : Fmt.f32.emin - Fmt.f32.frac = -149 := rfl
    rw [he, show ((log2 m : Int) + -149 - 52 + 52 + 1023 - 1).toNat = log2 m + 873 by omega, show k = 52 - log2 m by omega]
    rfl
  · have hl23 : log2 (Fmt.f32.sig m) = 23 := Fmt.f32.log2_sig m hge
    have hexp2 : Fmt.f32.exp m = ((m / 2 ^ 23 : Nat) : Int) - 127 - 23 := Fmt.f32.exp_normal m hge
    have hsig : Fmt.f32.sig m = 2 ^ 23 + m % 2 ^ 23 := Fmt.f32.sig_normal m hge
    have hk29 : k = 29 := by omega
    rw [if_pos hge, hl23, hexp2, hk29, hsig]
    omega

end Sys2Proof.Machine
end

section
/-! The scalar floating-point codes as the machine runs them (R59 to R66, R104, R106): each code's result from its operands' values. -/

namespace Sys2Proof.Machine

/-! ## The codes as the machine runs them -/

theorem floatOp_next (d a : NameF) (s : State) (names : List (List NameClass × NameF)) (reads : List NameF) (r : Context → Word × FpFlags)
    (hn : s.ctx.acceptsAll ((clsS, d) :: (clsS, a) :: names)) (hi : s.ctx.intact reads fpCtl ((((clsS, d) :: (clsS, a) :: names)).map Prod.snd)) :
    floatOp d a s names reads r = .next (s.wroteFp d (r s.ctx)) :=
  scalarOp_next s _ reads fpCtl _ hn hi

/-- A scalar's sound names stay sound where fewer are read and others are written. -/
theorem Context.intact_of {c : Context} {d a b : NameF} (hi : c.intact [d, a, b] [0x00, 0x01]) {reads dst : List NameF}
    (hr : ∀ n ∈ reads, n ∈ [d, a, b]) (hd : ∀ n ∈ dst, n ∈ [d, a, b]) : c.intact reads fpCtl dst := by
  obtain ⟨hnames, hctl, hwin, hloop⟩ := hi
  refine ⟨fun n hn => hnames n (hr n hn), hctl, fun ⟨n, hn, h32⟩ => hwin ⟨n, ?_, h32⟩, hloop⟩
  rw [List.append_nil]
  exact (List.mem_append.mp hn).elim (hr n) (hd n)

section codes
variable {s : State} {d a b : NameF} (hd : isSz d) (ha : isSz a) (hb : isSz b) (hi : s.ctx.intact [d, a, b] [0x00, 0x01])
include hd ha hi

theorem floatOne_next (r : Context → Word × FpFlags) : floatOp d a s [] [a] r = .next (s.wroteFp d (r s.ctx)) := by
  refine floatOp_next d a s [] [a] r ?_ (Context.intact_of hi (by simp) (by simp))
  simp [Context.acceptsAll, accepts_clsS, hd, ha]

include hb

theorem floatBinary_next (op : ScalarFp) (f : Fmt) : floatBinary op f d a b s =
    .next (s.wroteFp d (op.eval f (RMode.ofBits s.ctx.rm.toNat) s.ctx.fz (s.ctx.read a) (s.ctx.read b) (s.ctx.read d))) := by
  refine floatOp_next d a s _ _ _ ?_ (Context.intact_of hi ?_ (by simp))
  · simp [Context.acceptsAll, accepts_clsS, hd, ha, hb]
  · split <;> simp

/-- A two-operand code of either precision. -/
theorem exec_floatBinary (op : ScalarFp) (dbl : Bool) {iD iS : Instr} (hD : exec iD s = floatBinary op .f64 d a b s)
    (hS : exec iS s = floatBinary op .f32 d a b s) : exec (if dbl then iD else iS) s = .next (s.wroteFp d
      (op.eval (fmtOf dbl) (RMode.ofBits s.ctx.rm.toNat) s.ctx.fz (s.ctx.read a) (s.ctx.read b) (s.ctx.read d))) := by
  cases dbl
  · exact hS.trans (floatBinary_next hd ha hb hi op .f32)
  · exact hD.trans (floatBinary_next hd ha hb hi op .f64)

end codes

/-! ## The results, from the operands' signs and magnitudes -/

/-- The value that a scalar holds as an operand. -/
abbrev Fmt.operand (f : Fmt) (fz : Bool) (v : Word) : FVal := f.number fz (v.getLsbD (f.ebits + f.frac)) (v.toNat % 2 ^ (f.ebits + f.frac))

section evals
variable {f : Fmt} (hf : f.wide) (mode : RMode) (fz : Bool) (a b d : Word)
include hf

theorem eval_add : ScalarFp.add.eval f mode fz a b d = f.out mode fz (addVal mode (f.operand fz a) (f.operand fz b)) := by
  rw [ScalarFp.eval, scalarIn_eq hf, scalarIn_eq hf]
  rfl

theorem eval_sub : ScalarFp.sub.eval f mode fz a b d = f.out mode fz (addVal mode (f.operand fz a)
    (f.number fz (!b.getLsbD (f.ebits + f.frac)) (b.toNat % 2 ^ (f.ebits + f.frac)))) := by
  rw [ScalarFp.eval, scalarIn_eq hf, scalarIn_eq hf, ← f.number_negate]
  rfl

theorem eval_mul : ScalarFp.mul.eval f mode fz a b d = f.out mode fz (mulVal (f.operand fz a) (f.operand fz b)) := by
  rw [ScalarFp.eval, scalarIn_eq hf, scalarIn_eq hf]
  rfl

theorem eval_div : ScalarFp.div.eval f mode fz a b d = f.out mode fz (divVal (f.operand fz a) (f.operand fz b)) := by
  rw [ScalarFp.eval, scalarIn_eq hf, scalarIn_eq hf]
  rfl

theorem eval_fma : ScalarFp.fma.eval f mode fz a b d =
    f.out mode fz (fmaVal mode (f.operand fz a) (f.operand fz b) (f.operand fz d)) := by
  rw [ScalarFp.eval, scalarIn_eq hf, scalarIn_eq hf, scalarIn_eq hf]
  rfl

theorem eval_min : ScalarFp.min.eval f mode fz a b d = f.exactOut (minMaxVal false (f.operand fz a) (f.operand fz b)) := by
  rw [ScalarFp.eval, scalarIn_eq hf, scalarIn_eq hf]
  rfl

theorem eval_max : ScalarFp.max.eval f mode fz a b d = f.exactOut (minMaxVal true (f.operand fz a) (f.operand fz b)) := by
  rw [ScalarFp.eval, scalarIn_eq hf, scalarIn_eq hf]
  rfl

theorem sqrtScalar_eq : sqrtScalar f mode fz a = f.out mode fz (sqrtVal (f.operand fz a)) := by
  rw [sqrtScalar, scalarIn_eq hf]
  rfl

end evals

/-! ## Each code, from its operands -/

theorem gives_of_eq {i : Instr} {s : State} {d : NameF} {r : Word × FpFlags} {v : Word} {fl : FpFlags}
    (hx : exec i s = .next (s.wroteFp d r)) (h : r = (v, fl)) : exec i s = .next (s.wroteFp d (v, fl)) := by
  rw [hx, h]

section codes
variable {s : State} {d a b : NameF} (hd : isSz d) (ha : isSz a) (hb : isSz b) (hi : s.ctx.intact [d, a, b] [0x00, 0x01]) (dbl : Bool)
include hd ha hi

theorem exec_fsqrt_out : exec (.fsqrt d a dbl) s = .next (s.wroteFp d ((fmtOf dbl).out (RMode.ofBits s.ctx.rm.toNat) s.ctx.fz
    (sqrtVal ((fmtOf dbl).operand s.ctx.fz (s.ctx.read a))))) := by
  change execFsqrt d a dbl s = _
  rw [execFsqrt, floatOne_next hd ha hi, sqrtScalar_eq (fmtOf_wide dbl)]

theorem exec_frsqe_out : exec (.frsqe d a dbl) s = .next (s.wroteFp d ((fmtOf dbl).exactOut
    (rsqeVal (fmtOf dbl) s.ctx.fz ((fmtOf dbl).value ((s.ctx.read a).toNat % 2 ^ (fmtOf dbl).width))))) := by
  change execFrsqe d a dbl s = _
  rw [execFrsqe, floatOne_next hd ha hi]
  rfl

theorem exec_frcpe_out : exec (.frcpe d a dbl) s = .next (s.wroteFp d ((fmtOf dbl).exactOut
    (rcpeVal (fmtOf dbl) s.ctx.fz ((fmtOf dbl).value ((s.ctx.read a).toNat % 2 ^ (fmtOf dbl).width))))) := by
  change execFrcpe d a dbl s = _
  rw [execFrcpe, floatOne_next hd ha hi]
  rfl

theorem exec_fcvt_scalar (x : BitVec 4) : exec (.fcvt d a x) s =
    .next (s.wroteFp d (convertScalar x.toNat (RMode.ofBits s.ctx.rm.toNat) s.ctx.fz (s.ctx.read a))) := by
  change execFcvt d a x s = _
  rw [execFcvt, floatOne_next hd ha hi]

include hb

theorem exec_fadd_out : exec (if dbl then .faddD d a b else .faddS d a b) s = .next (s.wroteFp d
    ((fmtOf dbl).out (RMode.ofBits s.ctx.rm.toNat) s.ctx.fz (addVal (RMode.ofBits s.ctx.rm.toNat)
      ((fmtOf dbl).operand s.ctx.fz (s.ctx.read a)) ((fmtOf dbl).operand s.ctx.fz (s.ctx.read b))))) :=
  (exec_floatBinary hd ha hb hi .add dbl rfl rfl).trans (by rw [eval_add (fmtOf_wide dbl)])

theorem exec_fsub_out : exec (if dbl then .fsubD d a b else .fsubS d a b) s = .next (s.wroteFp d
    ((fmtOf dbl).out (RMode.ofBits s.ctx.rm.toNat) s.ctx.fz (addVal (RMode.ofBits s.ctx.rm.toNat)
      ((fmtOf dbl).operand s.ctx.fz (s.ctx.read a)) ((fmtOf dbl).number s.ctx.fz (!(s.ctx.read b).getLsbD ((fmtOf dbl).ebits + (fmtOf dbl).frac))
        ((s.ctx.read b).toNat % 2 ^ ((fmtOf dbl).ebits + (fmtOf dbl).frac)))))) :=
  (exec_floatBinary hd ha hb hi .sub dbl rfl rfl).trans (by rw [eval_sub (fmtOf_wide dbl)])

theorem exec_fmul_out : exec (if dbl then .fmulD d a b else .fmulS d a b) s = .next (s.wroteFp d
    ((fmtOf dbl).out (RMode.ofBits s.ctx.rm.toNat) s.ctx.fz
      (mulVal ((fmtOf dbl).operand s.ctx.fz (s.ctx.read a)) ((fmtOf dbl).operand s.ctx.fz (s.ctx.read b))))) :=
  (exec_floatBinary hd ha hb hi .mul dbl rfl rfl).trans (by rw [eval_mul (fmtOf_wide dbl)])

theorem exec_fdiv_out : exec (if dbl then .fdivD d a b else .fdivS d a b) s = .next (s.wroteFp d
    ((fmtOf dbl).out (RMode.ofBits s.ctx.rm.toNat) s.ctx.fz
      (divVal ((fmtOf dbl).operand s.ctx.fz (s.ctx.read a)) ((fmtOf dbl).operand s.ctx.fz (s.ctx.read b))))) :=
  (exec_floatBinary hd ha hb hi .div dbl rfl rfl).trans (by rw [eval_div (fmtOf_wide dbl)])

theorem exec_ffma_out : exec (if dbl then .ffmaD d a b else .ffmaS d a b) s = .next (s.wroteFp d
    ((fmtOf dbl).out (RMode.ofBits s.ctx.rm.toNat) s.ctx.fz (fmaVal (RMode.ofBits s.ctx.rm.toNat)
      ((fmtOf dbl).operand s.ctx.fz (s.ctx.read a)) ((fmtOf dbl).operand s.ctx.fz (s.ctx.read b))
      ((fmtOf dbl).operand s.ctx.fz (s.ctx.read d))))) :=
  (exec_floatBinary hd ha hb hi .fma dbl rfl rfl).trans (by rw [eval_fma (fmtOf_wide dbl)])

theorem exec_fmin_out : exec (if dbl then .fminD d a b else .fminS d a b) s = .next (s.wroteFp d ((fmtOf dbl).exactOut
    (minMaxVal false ((fmtOf dbl).operand s.ctx.fz (s.ctx.read a)) ((fmtOf dbl).operand s.ctx.fz (s.ctx.read b))))) :=
  (exec_floatBinary hd ha hb hi .min dbl rfl rfl).trans (by rw [eval_min (fmtOf_wide dbl)])

theorem exec_fmax_out : exec (if dbl then .fmaxD d a b else .fmaxS d a b) s = .next (s.wroteFp d ((fmtOf dbl).exactOut
    (minMaxVal true ((fmtOf dbl).operand s.ctx.fz (s.ctx.read a)) ((fmtOf dbl).operand s.ctx.fz (s.ctx.read b))))) :=
  (exec_floatBinary hd ha hb hi .max dbl rfl rfl).trans (by rw [eval_max (fmtOf_wide dbl)])

end codes

theorem convert_ofInt (dbl un : Bool) (mode : RMode) (fz : Bool) (a : Word) :
    convertScalar (((if dbl then 4 else 2) + if un then 1 else 0 : BitVec 4)).toNat mode fz a =
      (fmtOf dbl).out mode fz (FVal.ofInt (if un then (a.toNat : Int) else a.toInt), 0) := by
  cases dbl <;> cases un <;> rfl

theorem convert_toInt (dbl un : Bool) (mode : RMode) (fz : Bool) (a : Word) :
    convertScalar (((if dbl then 8 else 6) + if un then 1 else 0 : BitVec 4)).toNat mode fz a =
      (BitVec.ofInt 64 (toInt 64 (!un) mode ((fmtOf dbl).operand fz a)).1, (toInt 64 (!un) mode ((fmtOf dbl).operand fz a)).2) := by
  rw [Fmt.operand, ← scalarIn_eq (fmtOf_wide dbl)]
  cases dbl <;> cases un <;> rfl

theorem convert_float (dbl : Bool) (mode : RMode) (fz : Bool) (a : Word) :
    convertScalar ((if dbl then 0 else 1 : BitVec 4)).toNat mode fz a =
      (fmtOf !dbl).out mode fz ((fmtOf dbl).operand fz a, flagIf ((fmtOf dbl).operand fz a).isSig flagNV) := by
  rw [Fmt.operand, ← scalarIn_eq (fmtOf_wide dbl)]
  cases dbl <;> rfl

end Sys2Proof.Machine
end

section
/-! O22: the scalar floating-point codes' values, read off their operands' codes. -/

namespace Sys2Proof.Machine

/-! ## FPCR.RM (R28) -/

theorem rmode_down (rm : BitVec 2) : decide (RMode.ofBits rm.toNat = .rdn) = decide (rm = 3) := by
  revert rm
  decide

theorem rm_cases (rm : BitVec 2) : rm = 0 ∨ rm = 1 ∨ rm = 2 ∨ rm = 3 := by
  revert rm
  decide

theorem ite_signs {α : Type} (g h : Bool) (x y : α) : (if (g != !h) = true then x else y) = if (g != h) = true then y else x := by
  cases g <;> cases h <;> rfl

theorem ite_beq_bne {α : Type} (g h : Bool) (x y : α) : (if (g != h) = true then x else y) = if g = h then y else x := by
  cases g <;> cases h <;> rfl

/-- An integer of a word has at most 65 bits. -/
theorem log2_ofWord (un : Bool) (a : Word) : log2 (if un then (a.toNat : Int) else a.toInt).natAbs < 65 := by
  have hlt := a.isLt
  have hle : (if un then (a.toNat : Int) else a.toInt).natAbs < 2 ^ 65 := by
    have h1 := BitVec.toInt_lt (x := a)
    have h2 := BitVec.le_toInt (x := a)
    cases un <;> simp only [Bool.false_eq_true, if_true, if_false] <;> omega
  by_cases h0 : (if un then (a.toNat : Int) else a.toInt).natAbs = 0
  · rw [h0]
    decide
  · exact (Nat.log2_lt h0).mpr hle

theorem Fmt.wide.bias_big {f : Fmt} (h : f.wide) : 65 ≤ 2 ^ (f.ebits - 1) - 1 := by
  rcases h with rfl | rfl <;> decide

/-- The canonical NaN of the other format. -/
theorem nanWord_other (dbl : Bool) : (fmtOf !dbl).nanWord = BitVec.ofNat 64 (if dbl then 0x7FC00000 else 0x7FF8000000000000) := by
  cases dbl <;> rfl

/-- An infinity of the other format. -/
theorem infinity_other (dbl g : Bool) : (fmtOf !dbl).signed g (fmtOf !dbl).infinity =
    BitVec.ofNat 64 ((if g then (if dbl then 2 ^ 31 else 2 ^ 63) else 0) + if dbl then 0xFF * 2 ^ 23 else 0x7FF * 2 ^ 52) := by
  cases dbl <;> cases g <;> rfl

/-- A zero of the other format. -/
theorem zero_other (dbl g : Bool) : (fmtOf !dbl).signed g 0 = BitVec.ofNat 64 (if g then (if dbl then 2 ^ 31 else 2 ^ 63) else 0) := by
  cases dbl <;> cases g <;> rfl

/-! ## FCVT as the machine runs it (R106) -/

section codes
variable {s : State} {d a b : NameF} (hd : isSz d) (ha : isSz a) (hi : s.ctx.intact [d, a, b] [0x00, 0x01]) (dbl : Bool)
include hd ha hi

theorem exec_fcvt_ofInt_out (un : Bool) : exec (.fcvt d a ((if dbl then 4 else 2) + if un then 1 else 0)) s = .next (s.wroteFp d
    ((fmtOf dbl).out (RMode.ofBits s.ctx.rm.toNat) s.ctx.fz
      (FVal.ofInt (if un then ((s.ctx.read a).toNat : Int) else (s.ctx.read a).toInt), 0))) := by
  rw [exec_fcvt_scalar hd ha hi, convert_ofInt]

theorem exec_fcvt_toInt_out (un : Bool) {r : Int × FpFlags}
    (h : toInt 64 (!un) (RMode.ofBits s.ctx.rm.toNat) ((fmtOf dbl).operand s.ctx.fz (s.ctx.read a)) = r) :
    exec (.fcvt d a ((if dbl then 8 else 6) + if un then 1 else 0)) s = .next (s.wroteFp d (BitVec.ofInt 64 r.1, r.2)) := by
  rw [exec_fcvt_scalar hd ha hi, convert_toInt, h]

theorem exec_fcvt_float_out : exec (.fcvt d a (if dbl then 0 else 1)) s = .next (s.wroteFp d
    ((fmtOf !dbl).out (RMode.ofBits s.ctx.rm.toNat) s.ctx.fz ((fmtOf dbl).operand s.ctx.fz (s.ctx.read a),
      flagIf ((fmtOf dbl).operand s.ctx.fz (s.ctx.read a)).isSig flagNV))) := by
  rw [exec_fcvt_scalar hd ha hi, convert_float]

end codes

theorem ofInt_zero_word (fl : FpFlags) : (BitVec.ofInt 64 0, fl) = ((0 : Word), fl) := rfl

theorem toInt_nan (f : Fmt) (un : Bool) (mode : RMode) (fz g : Bool) {m : Nat} (h : f.infinity < m) :
    toInt 64 (!un) mode (f.number fz g m) = (0, flagNV) := by
  rw [f.number_nan fz g h]
  rfl

theorem toInt_inf (f : Fmt) (un : Bool) (mode : RMode) (fz g : Bool) {m : Nat} (h : m = f.infinity) :
    toInt 64 (!un) mode (f.number fz g m) = (if g then leastInt un else mostInt un, flagNV ||| flagSAT) := by
  rw [f.number_inf fz g h]
  cases un <;> rfl

theorem boundInt_cases {P : Word → FpFlags → Prop} (un : Bool) (v : Int) (fl : FpFlags)
    (h : P (BitVec.ofInt 64 (boundInt un v fl).1) (boundInt un v fl).2) :
    if v < leastInt un then P (BitVec.ofInt 64 (leastInt un)) (flagNV ||| flagSAT)
    else if mostInt un < v then P (BitVec.ofInt 64 (mostInt un)) (flagNV ||| flagSAT)
    else P (BitVec.ofInt 64 v) fl := by
  unfold boundInt at h
  split
  · next hlt => rwa [if_pos hlt] at h
  · next hlt =>
    rw [if_neg hlt] at h
    split
    · next hgt => rwa [if_pos hgt] at h
    · next hgt => rwa [if_neg hgt] at h

theorem other_nan (dbl : Bool) (mode : RMode) (fz g : Bool) {m : Nat} (h : (fmtOf dbl).infinity < m) :
    (fmtOf !dbl).out mode fz ((fmtOf dbl).number fz g m, flagIf ((fmtOf dbl).number fz g m).isSig flagNV) =
      (BitVec.ofNat 64 (if dbl then 0x7FC00000 else 0x7FF8000000000000), (fmtOf dbl).quiet m) := by
  rw [Fmt.number_quiet, Fmt.number_nan _ fz g h, (fmtOf_wide _).binary.out_nan, nanWord_other]

theorem other_inf (dbl : Bool) (mode : RMode) (fz g : Bool) {m : Nat} (h : m = (fmtOf dbl).infinity) :
    (fmtOf !dbl).out mode fz ((fmtOf dbl).number fz g m, flagIf ((fmtOf dbl).number fz g m).isSig flagNV) =
      (BitVec.ofNat 64 ((if g then (if dbl then 2 ^ 31 else 2 ^ 63) else 0) + if dbl then 0xFF * 2 ^ 23 else 0x7FF * 2 ^ 52), 0) := by
  rw [Fmt.number_inf _ fz g h, (fmtOf_wide _).binary.out_inf, infinity_other]
  rfl

theorem other_zero (dbl : Bool) (mode : RMode) (fz g : Bool) {m : Nat} (h : (fmtOf dbl).zeroMag fz m) :
    (fmtOf !dbl).out mode fz ((fmtOf dbl).number fz g m, flagIf ((fmtOf dbl).number fz g m).isSig flagNV) =
      (BitVec.ofNat 64 (if g then (if dbl then 2 ^ 31 else 2 ^ 63) else 0), 0) := by
  obtain ⟨e, he⟩ := (fmtOf_wide dbl).binary.number_zero g h
  rw [he, Fmt.out_zero, zero_other]
  rfl

theorem other_widened {dbl : Bool} (hs : dbl = false) (mode : RMode) (fz g : Bool) {m : Nat} (hm : m < (fmtOf dbl).infinity)
    (hz : ¬ (fmtOf dbl).zeroMag fz m) :
    (fmtOf !dbl).out mode fz ((fmtOf dbl).number fz g m, flagIf ((fmtOf dbl).number fz g m).isSig flagNV) =
      (BitVec.ofNat 64 ((if g then (if dbl then 2 ^ 31 else 2 ^ 63) else 0) + if 2 ^ (fmtOf dbl).frac ≤ m then m * 2 ^ 29 + 896 * 2 ^ 52
        else (Nat.log2 m + 873) * 2 ^ 52 + m * 2 ^ (52 - Nat.log2 m)), 0) := by
  subst hs
  replace hz : ¬ Fmt.f32.zeroMag fz m := hz
  replace hm : m < Fmt.f32.infinity := hm
  change Fmt.f64.out mode fz (Fmt.f32.number fz g m, flagIf (Fmt.f32.number fz g m).isSig flagNV) = _
  have hq : flagIf (Fmt.f32.number fz g m).isSig flagNV = 0 := by
    rw [Fmt.number_fin _ g hz hm]
    rfl
  rw [hq, out_widened mode g 0 hz hm]
  rfl

/-- Settles O22: each clause is one lemma on the operands' signs and magnitudes. -/
theorem floatValues : Obligations.FloatValues := by
  unfold Obligations.FloatValues
  intro s d a b dbl hd ha hb hi frac ebits bias unit top infinity mag neg zero finite inf nan sig flushed apart down signed qnan quiet gives
    rounded add sub mul div fma min max key code product
  have hw := fmtOf_wide dbl
  have hf := hw.binary
  have hfrac : frac = (fmtOf dbl).frac := by cases dbl <;> rfl
  have hebits : ebits = (fmtOf dbl).ebits := by cases dbl <;> rfl
  have hadd := exec_fadd_out hd ha hb hi dbl
  have hsub := exec_fsub_out hd ha hb hi dbl
  have hmul := exec_fmul_out hd ha hb hi dbl
  have hdiv := exec_fdiv_out hd ha hb hi dbl
  have hfma := exec_ffma_out hd ha hb hi dbl
  have hmin := exec_fmin_out hd ha hb hi dbl
  have hmax := exec_fmax_out hd ha hb hi dbl
  have hsqrt := exec_fsqrt_out hd ha hi dbl
  have hrsqe := exec_frsqe_out hd ha hi dbl
  have hrcpe := exec_frcpe_out hd ha hi dbl
  have hcvt := exec_fcvt_ofInt_out hd ha hi dbl
  have hto := @exec_fcvt_toInt_out s d a b hd ha hi dbl
  have hother := exec_fcvt_float_out hd ha hi dbl
  have hflush := scalarIn_eq hw s.ctx.fz (s.ctx.read a)
  have hdown := rmode_down s.ctx.rm
  clear_value frac ebits
  subst hfrac hebits
  have hrounded : ∀ g x y, rounded g x y = roundQuot (RMode.ofBits s.ctx.rm.toNat) g x y := by
    intro g x y
    dsimp only [rounded]
    rcases rm_cases s.ctx.rm with h | h | h | h <;> rw [h] <;> rfl
  have hfinite : ∀ n, finite n → ¬ nan n := fun n h => Nat.lt_asymm h
  have hinf : ∀ n, inf n → ¬ nan n := fun n h => Nat.not_lt.mpr (Nat.le_of_eq h)
  have hnz : ∀ n, ¬ zero n → flushed n = mag n := fun n h => if_neg h
  have hinfl : ∀ n, inf n → flushed n = infinity := fun n h => hf.flushed_infinity h
  have hprod : product → ¬ nan a ∧ ¬ nan b := fun h => h.elim (fun e => ⟨hinf a e.1, e.2.1⟩) fun e => ⟨e.2.1, hinf b e.1⟩
  have hzf : zero a ∧ finite b ∨ finite a ∧ zero b → ¬ nan a ∧ ¬ nan b := fun h =>
    h.elim (fun e => ⟨hfinite a (hf.zeroMag_finite e.1), hfinite b e.2⟩) fun e => ⟨hfinite a e.1, hfinite b (hf.zeroMag_finite e.2)⟩
  generalize hmode : RMode.ofBits s.ctx.rm.toNat = mode at *
  refine ⟨fun hn op hop => ?_, fun hz hz' => ⟨?_, ?_⟩, fun hz hz' hn => ⟨?_, ?_⟩, fun hz hz' hn => ⟨?_, ?_⟩, fun hz hfi hab => ?_,
    fun h h' => ?_, fun h h' => ⟨?_, ?_⟩, fun h h' => ⟨?_, ?_⟩, fun h => ?_, fun h => ⟨?_, ?_⟩, fun h => ?_, fun h => ?_, fun hz hfi hz' => ?_,
    fun h h' => ?_, fun h => ?_, fun h => ?_, fun h h' => ?_, fun h => ⟨fun hz => ?_, fun hz hn => ?_⟩, fun h h' hk => ?_, fun h hn => ?_,
    fun h h' => ⟨?_, ?_⟩, fun h h' => ⟨?_, ?_⟩, fun h h' => ⟨?_, ?_⟩, fun h h' => ⟨?_, ?_⟩, ⟨fun h => ⟨?_, ?_, ?_⟩, fun h => ⟨?_, ?_, ?_⟩,
    fun hz hn hg => ⟨?_, ?_⟩, fun h => ⟨fun hg => ⟨?_, ?_⟩, ?_⟩⟩, fun un => ?_, fun un => ?_,
    fun h => ?_, fun h => ?_, fun h => ?_, fun hs h hz => ?_⟩
  -- NaN
  · simp only [List.mem_cons, List.not_mem_nil, or_false] at hop
    rcases hop with rfl | rfl | rfl | rfl
    · exact gives_of_eq hadd (hf.out_add_nan mode (neg a) (neg b) hn)
    · exact gives_of_eq hsub (hf.out_add_nan mode (neg a) (!neg b) hn)
    · exact gives_of_eq hmul (hf.out_mul_nan mode (neg a) (neg b) hn)
    · exact gives_of_eq hdiv (hf.out_div_nan mode (neg a) (neg b) hn)
  -- sums of zeros
  · have h := hf.out_add_zeros mode (neg a) (neg b) hz hz'
    rw [hdown] at h
    exact gives_of_eq hadd h
  · have h := hf.out_add_zeros mode (neg a) (!neg b) hz hz'
    rw [hdown, ite_signs] at h
    exact gives_of_eq hsub h
  · exact gives_of_eq hadd (hf.out_add_zero_left mode (neg a) (neg b) hz hz' hn)
  · exact gives_of_eq hsub ((hf.out_add_zero_left mode (neg a) (!neg b) hz hz' hn).trans
      (congrArg (fun m => (signed (!neg b) m, (0 : FpFlags))) (hnz b hz')))
  · exact gives_of_eq hadd (hf.out_add_zero_right mode (neg a) (neg b) hz hz' hn)
  · exact gives_of_eq hsub (hf.out_add_zero_right mode (neg a) (!neg b) hz hz' hn)
  -- sums that cancel
  · by_cases hap : apart = true
    · rw [if_pos hap]
      have h := Fmt.out_add_opposite mode (g := neg a) (h := neg b) hap hab hz hfi
      rw [hdown] at h
      exact gives_of_eq hadd h
    · rw [if_neg hap]
      have h := Fmt.out_add_opposite mode (g := neg a) (h := !neg b) (by simpa [apart] using hap) hab hz hfi
      rw [hdown] at h
      exact gives_of_eq hsub h
  -- sums of infinities
  · have h1 := hf.out_add_infs mode (fz := s.ctx.fz) (neg a) (neg b) h h'
    have h2 := hf.out_add_infs mode (fz := s.ctx.fz) (neg a) (!neg b) h h'
    have hcode : code a = signed (neg a) infinity := congrArg (signed (neg a)) (hinfl a h)
    rw [ite_signs] at h2
    by_cases hap : apart = true
    · rw [if_pos hap] at h1 h2 ⊢
      rw [hcode]
      exact ⟨gives_of_eq hadd h1, gives_of_eq hsub h2⟩
    · rw [if_neg hap] at h1 h2 ⊢
      rw [hcode]
      exact ⟨gives_of_eq hadd h1, gives_of_eq hsub h2⟩
  · rw [show code a = signed (neg a) infinity from congrArg (signed (neg a)) (hinfl a h)]
    exact gives_of_eq hadd (hf.out_add_inf_left mode (neg a) (neg b) h h')
  · rw [show code a = signed (neg a) infinity from congrArg (signed (neg a)) (hinfl a h)]
    exact gives_of_eq hsub (hf.out_add_inf_left mode (neg a) (!neg b) h h')
  · rw [show code b = signed (neg b) infinity from congrArg (signed (neg b)) (hinfl b h')]
    exact gives_of_eq hadd (hf.out_add_inf_right mode (neg a) (neg b) h h')
  · exact gives_of_eq hsub (hf.out_add_inf_right mode (neg a) (!neg b) h h')
  -- products
  · exact gives_of_eq hmul ((congrArg _ (hf.mul_zero (neg a) (neg b) h)).trans (Fmt.out_zero _ _ _ _ _ _))
  · exact gives_of_eq hmul ((congrArg _ (hf.mul_zero_inf (neg a) (neg b) h)).trans (hf.out_nan _ _ _ _))
  · have hab : ¬ nan a ∧ ¬ nan b := h.elim (fun e => ⟨hfinite a (hf.zeroMag_finite e.1), hinf b e.2⟩)
      fun e => ⟨hinf a e.1, hfinite b (hf.zeroMag_finite e.2)⟩
    exact gives_of_eq hfma ((congrArg _ (Fmt.fma_of_mul mode (neg a) (neg b) (neg d) (mag d) hab.1 hab.2
      (hf.mul_zero_inf (neg a) (neg b) h))).trans (hf.out_nan _ _ _ _))
  · exact gives_of_eq hmul ((congrArg _ (Fmt.mul_inf (neg a) (neg b) h)).trans (hf.out_inf _ _ _ _))
  -- quotients
  · exact gives_of_eq hdiv ((congrArg _ (hf.div_invalid (neg a) (neg b) h)).trans (hf.out_nan _ _ _ _))
  · exact gives_of_eq hdiv ((congrArg _ (hf.div_by_zero (neg a) (neg b) hz hfi hz')).trans (hf.out_inf _ _ _ _))
  · exact gives_of_eq hdiv ((congrArg _ (hf.div_inf_left (neg a) (neg b) h h')).trans (hf.out_inf _ _ _ _))
  · exact gives_of_eq hdiv ((congrArg _ (hf.div_to_zero (neg a) (neg b) h)).trans (Fmt.out_zero _ _ _ _ _ _))
  -- fused products
  · exact gives_of_eq hfma (hf.out_fma_nan mode (neg a) (neg b) (neg d) (mag d) h)
  · rcases h with ⟨hfa, hfb⟩ | hp
    · obtain ⟨p, e, he⟩ := hf.mul_finite (fz := s.ctx.fz) (neg a) (neg b) hfa hfb
      exact gives_of_eq hfma (hf.out_fma_addend_nan mode (neg a) (neg b) (neg d) (hfinite a hfa) (hfinite b hfb) he rfl h')
    · obtain ⟨hna, hnb⟩ := hprod hp
      exact gives_of_eq hfma (hf.out_fma_addend_nan mode (neg a) (neg b) (neg d) hna hnb (Fmt.mul_inf (neg a) (neg b) hp) rfl h')
  · obtain ⟨hna, hnb⟩ := hzf h
    have h2 := hf.out_zero_add_zero mode (neg a != neg b) (neg d) 0 hz
    rw [hdown, ite_beq_bne] at h2
    exact gives_of_eq hfma ((congrArg _ (Fmt.fma_add mode (neg a) (neg b) (neg d) hna hnb (hf.mul_zero (neg a) (neg b) h) rfl
      (hfinite d (hf.zeroMag_finite hz)))).trans h2)
  · obtain ⟨hna, hnb⟩ := hzf h
    exact gives_of_eq hfma ((congrArg _ (Fmt.fma_add mode (neg a) (neg b) (neg d) hna hnb (hf.mul_zero (neg a) (neg b) h) rfl hn)).trans
      (hf.out_zero_add mode (neg a != neg b) (neg d) 0 hz hn))
  · obtain ⟨p, e, he⟩ := hf.mul_finite (fz := s.ctx.fz) (neg a) (neg b) h h'
    rw [show code d = signed (neg d) infinity from congrArg (signed (neg d)) (hinfl d hk)]
    refine gives_of_eq hfma ((congrArg _ (Fmt.fma_add mode (neg a) (neg b) (neg d) (hfinite a h) (hfinite b h') he rfl (hinf d hk))).trans ?_)
    rw [Fmt.number_inf _ _ _ hk]
    exact hf.out_inf _ _ _ _
  · obtain ⟨hna, hnb⟩ := hprod h
    have h2 := (congrArg (Fmt.out _ mode s.ctx.fz) (Fmt.fma_add mode (neg a) (neg b) (neg d) hna hnb (Fmt.mul_inf (neg a) (neg b) h) rfl hn)).trans
      (hf.out_inf_add mode (neg a != neg b) (neg d) hn)
    by_cases hc : inf d ∧ apart ≠ neg d
    · rw [if_pos hc] at h2 ⊢
      exact gives_of_eq hfma h2
    · rw [if_neg hc] at h2 ⊢
      exact gives_of_eq hfma h2
  -- minimum and maximum
  · exact gives_of_eq hmin (hf.minMax_nans false (neg a) (neg b) h h')
  · exact gives_of_eq hmax (hf.minMax_nans true (neg a) (neg b) h h')
  · exact gives_of_eq hmin (hf.minMax_nan_left false (neg a) (neg b) h h')
  · exact gives_of_eq hmax (hf.minMax_nan_left true (neg a) (neg b) h h')
  · exact gives_of_eq hmin (hf.minMax_nan_right false (neg a) (neg b) h h')
  · exact gives_of_eq hmax (hf.minMax_nan_right true (neg a) (neg b) h h')
  · exact gives_of_eq hmin (hf.min_numbers (neg a) (neg b) h h')
  · exact gives_of_eq hmax (hf.max_numbers (neg a) (neg b) h h')
  -- roots and seeds
  · exact gives_of_eq hsqrt (hf.sqrt_nan mode (neg a) h)
  · exact gives_of_eq hrsqe (hf.rsqe_nan _ (neg a) hflush h)
  · exact gives_of_eq hrcpe (hf.rcpe_nan _ (neg a) hflush h)
  · exact gives_of_eq hsqrt (hf.sqrt_zero mode (neg a) h)
  · exact gives_of_eq hrsqe (hf.rsqe_zero _ (neg a) hflush h)
  · exact gives_of_eq hrcpe (hf.rcpe_zero _ (neg a) hflush h)
  · have h1 := hf.sqrt_negative (fz := s.ctx.fz) mode hz hn
    rw [← show neg a = true from hg] at h1
    exact gives_of_eq hsqrt h1
  · exact gives_of_eq hrsqe (hf.rsqe_negative _ (hflush.trans (congrArg (fun g => Fmt.number _ s.ctx.fz g (mag a)) hg)) hz hn)
  · have hx : (fmtOf dbl).operand s.ctx.fz (s.ctx.read a) = Fmt.number _ s.ctx.fz false (mag a) :=
      congrArg (fun g => Fmt.number _ s.ctx.fz g (mag a)) hg
    have hcode : code a = (fmtOf dbl).signed false infinity := by
      rw [← hg]
      exact congrArg (signed (neg a)) (hinfl a h)
    rw [hcode]
    exact gives_of_eq hsqrt ((congrArg (fun y => Fmt.out _ mode s.ctx.fz (sqrtVal y)) hx).trans (hf.sqrt_inf mode h))
  · exact gives_of_eq hrsqe (Fmt.rsqe_inf _ (hflush.trans (congrArg (fun g => Fmt.number _ s.ctx.fz g (mag a)) hg)) h)
  · exact gives_of_eq hrcpe (Fmt.rcpe_inf _ (neg a) hflush h)
  -- FCVT of an integer
  · intro o v e g
    have hv : log2 v.natAbs < 2 ^ ((fmtOf dbl).ebits - 1) - 1 := lt_of_lt_of_le (log2_ofWord un (s.ctx.read a)) hw.bias_big
    rw [hrounded]
    exact gives_of_eq (hcvt un) (hf.out_int mode v hv)
  -- FCVT to an integer
  · intro o lo hi' x y v into
    refine ⟨fun h => ?_, fun h => ?_, fun h => ?_⟩
    · exact gives_of_eq (hto un (toInt_nan _ un mode s.ctx.fz (neg a) h)) (ofInt_zero_word _)
    · have h1 := hto un (toInt_inf _ un mode s.ctx.fz (neg a) h)
      exact h1
    · have h1 := hto un (hf.toInt_number un mode (neg a) h)
      have hv : v = if neg a then -(roundQuot mode true x y : Int) else (roundQuot mode false x y : Int) := by
        dsimp only [v]
        rw [hrounded, hrounded]
      refine boundInt_cases (P := into) un v _ ?_
      rw [hv]
      exact h1
  -- FCVT to the other float
  · exact gives_of_eq hother (other_nan dbl mode s.ctx.fz (neg a) h)
  · exact gives_of_eq hother (other_inf dbl mode s.ctx.fz (neg a) h)
  · exact gives_of_eq hother (other_zero dbl mode s.ctx.fz (neg a) h)
  · exact gives_of_eq hother (other_widened hs mode s.ctx.fz (neg a) h hz)

end Sys2Proof.Machine
end

section
/-! The two-operand integer codes (R47, R99): each code's function of its operands, and O18. -/

namespace Sys2Proof.Machine

/-! ## The operations, as functions of words (R47) -/

theorem toInt_eq_zero_iff (y : Word) : y.toInt = 0 ↔ y = 0 := BitVec.toInt_inj (y := 0)

theorem toNat_eq_zero_iff (y : Word) : y.toNat = 0 ↔ y = 0 := BitVec.toNat_inj (y := 0)

theorem ofInt_divSigned (x y : Word) : BitVec.ofInt 64 (divSigned x.toInt y.toInt) =
    if y = 0 then BitVec.allOnes 64 else BitVec.ofInt 64 (Int.tdiv x.toInt y.toInt) := by
  unfold divSigned
  simp only [toInt_eq_zero_iff]
  split <;> rfl

theorem ofNat_divUnsigned (x y : Word) : BitVec.ofNat 64 (divUnsigned 64 x.toNat y.toNat) =
    if y = 0 then BitVec.allOnes 64 else BitVec.ofNat 64 (x.toNat / y.toNat) := by
  unfold divUnsigned
  simp only [toNat_eq_zero_iff]
  split <;> rfl

theorem ofInt_remSigned (x y : Word) : BitVec.ofInt 64 (remSigned x.toInt y.toInt) =
    if y = 0 then x else BitVec.ofInt 64 (Int.tmod x.toInt y.toInt) := by
  unfold remSigned
  simp only [toInt_eq_zero_iff]
  split
  · exact BitVec.ofInt_toInt
  · rfl

theorem ofNat_remUnsigned (x y : Word) : BitVec.ofNat 64 (remUnsigned x.toNat y.toNat) =
    if y = 0 then x else BitVec.ofNat 64 (x.toNat % y.toNat) := by
  unfold remUnsigned
  simp only [toNat_eq_zero_iff]
  split
  · rw [BitVec.ofNat_toNat, BitVec.setWidth_eq]
  · rfl

theorem ite_toInt_le_eq_min (x y : Word) : (if x.toInt ≤ y.toInt then x else y) = BitVec.ofInt 64 (min x.toInt y.toInt) := by
  rw [min_def, apply_ite (BitVec.ofInt 64), BitVec.ofInt_toInt, BitVec.ofInt_toInt]

theorem ite_toInt_le_eq_max (x y : Word) : (if x.toInt ≤ y.toInt then y else x) = BitVec.ofInt 64 (max x.toInt y.toInt) := by
  rw [max_def, apply_ite (BitVec.ofInt 64), BitVec.ofInt_toInt, BitVec.ofInt_toInt]

theorem ite_toNat_le_eq_min (x y : Word) : (if x.toNat ≤ y.toNat then x else y) = BitVec.ofNat 64 (min x.toNat y.toNat) := by
  simp only [min_def, apply_ite (BitVec.ofNat 64), BitVec.ofNat_toNat, BitVec.setWidth_eq]

theorem ite_toNat_le_eq_max (x y : Word) : (if x.toNat ≤ y.toNat then y else x) = BitVec.ofNat 64 (max x.toNat y.toNat) := by
  simp only [max_def, apply_ite (BitVec.ofNat 64), BitVec.ofNat_toNat, BitVec.setWidth_eq]

theorem mul_eq_ofNat (x y : Word) : x * y = BitVec.ofNat 64 (x.toNat * y.toNat) := by
  rw [BitVec.ofNat_mul, BitVec.ofNat_toNat, BitVec.ofNat_toNat, BitVec.setWidth_eq, BitVec.setWidth_eq]

/-- BFX's field, its position and width read off B's bits (R100). -/
theorem extractField_eq (x y : Word) : extractField x y = BitVec.ofNat 64
    (x.toNat / 2 ^ (y.toNat % 64) % 2 ^ (min (min (y.toNat / 2 ^ 8 % 2 ^ 7) 64) (64 - y.toNat % 64))) := by
  simp only [extractField, fieldPos, fieldLen, bitsOf, Nat.shiftRight_eq_div_pow]

/-! ## The codes (R99) -/

/-- Settles O18: each code is binaryOp of its operation; what is left is the operation's value on two words. -/
theorem integerResults : Obligations.IntegerResults := by
  unfold Obligations.IntegerResults
  intro s d a b hd ha hb hi x y
  have gives : ∀ {f : Word → Word → Word} {v : Word}, f x y = v → binaryOp d a b s f = .next (s.wrote d v) := fun {f _} h =>
    h ▸ binaryOp_next d a b s f hd ha hb hi
  exact ⟨(exec_add ..).trans (gives rfl), (exec_sub ..).trans (gives rfl), (exec_and ..).trans (gives rfl),
    (exec_or ..).trans (gives rfl), (exec_xor ..).trans (gives rfl), (exec_andn ..).trans (gives rfl),
    (exec_shl ..).trans (gives rfl), (exec_shr ..).trans (gives rfl), (exec_sar ..).trans (gives rfl),
    (exec_rol ..).trans (gives rfl), (exec_mul ..).trans (gives (mul_eq_ofNat x y)), (exec_mulhs ..).trans (gives rfl),
    (exec_mulhn ..).trans (gives rfl), (exec_divs ..).trans (gives (ofInt_divSigned x y)),
    (exec_divn ..).trans (gives (ofNat_divUnsigned x y)), (exec_rems ..).trans (gives (ofInt_remSigned x y)),
    (exec_remn ..).trans (gives (ofNat_remUnsigned x y)), (exec_mins ..).trans (gives (ite_toInt_le_eq_min x y)),
    (exec_maxs ..).trans (gives (ite_toInt_le_eq_max x y)), (exec_minn ..).trans (gives (ite_toNat_le_eq_min x y)),
    (exec_maxn ..).trans (gives (ite_toNat_le_eq_max x y)), (exec_seq ..).trans (gives rfl), (exec_sne ..).trans (gives rfl),
    (exec_slts ..).trans (gives rfl), (exec_sltn ..).trans (gives rfl), (exec_sles ..).trans (gives rfl),
    (exec_slen ..).trans (gives rfl), (exec_bfx ..).trans (gives (extractField_eq x y))⟩

end Sys2Proof.Machine
end

section
/-! O21: the scalar floating-point codes complete with their result and their flags (R103, R104, R106). -/

namespace Sys2Proof.Machine

/-- An instruction that uses no control register needs none of them sound. -/
theorem Context.intact_no_ctl {c : Context} {names : List NameF} {ctl : List Nat} {dst : List NameF} (h : c.intact names ctl dst) :
    c.intact names [] dst := by
  obtain ⟨hnames, -, hwin, hloop⟩ := h
  exact ⟨hnames, fun i hi => absurd hi List.not_mem_nil, hwin, hloop⟩

/-- Settles O21: a two-operand code is floatBinary of its operation and format, a one-operand code floatOp of its result; FCLASS, which
sets no flag, is a unary integer code. -/
theorem floatResults : Obligations.FloatResults := by
  unfold Obligations.FloatResults
  intro s d a b hd ha hb hi result
  have two := floatBinary_next hd ha hb hi
  have one := floatOne_next hd ha hi
  have hclass : s.ctx.intact [a] [] [d] := Context.intact_no_ctl (Context.intact_of hi (by simp) (by simp))
  exact ⟨(exec_faddS ..).trans (two .add .f32), (exec_fsubS ..).trans (two .sub .f32), (exec_fmulS ..).trans (two .mul .f32),
    (exec_fdivS ..).trans (two .div .f32), (exec_fminS ..).trans (two .min .f32), (exec_fmaxS ..).trans (two .max .f32),
    (exec_fcmpS ..).trans (two .cmp .f32), (exec_ffmaS ..).trans (two .fma .f32), (exec_faddD ..).trans (two .add .f64),
    (exec_fsubD ..).trans (two .sub .f64), (exec_fmulD ..).trans (two .mul .f64), (exec_fdivD ..).trans (two .div .f64),
    (exec_fminD ..).trans (two .min .f64), (exec_fmaxD ..).trans (two .max .f64), (exec_fcmpD ..).trans (two .cmp .f64),
    (exec_ffmaD ..).trans (two .fma .f64),
    fun dbl x => ⟨(exec_fsqrt ..).trans (one _), (exec_frsqe ..).trans (one _), (exec_frcpe ..).trans (one _),
      (exec_fclass ..).trans (unaryOp_next d a s _ hd ha hclass), exec_fcvt_scalar hd ha hi x⟩⟩

end Sys2Proof.Machine
end

section
/-! O44, the checks of an elementwise instruction of three row registers (R58, R132, R160, R163, R172). -/

namespace Sys2Proof.Machine

/-! ## One row register's names (R160) -/

theorem tagPerSeg_pos (t : TagBits) : 0 < tagPerSeg t := by
  unfold tagPerSeg
  split <;> decide

theorem Context.segs_pos (c : Context) : 0 < c.segs := Nat.two_pow_pos _

theorem Context.lt_eight_of_isVName {c : Context} {n : NameF} (h : c.isVName n) : n.toNat < 8 :=
  lt_of_lt_of_le h (Nat.div_le_self 8 c.segs)

theorem isReg_of_isVName {c : Context} {n : NameF} (h : c.isVName n) : isReg n = true :=
  decide_eq_true (by have := Context.lt_eight_of_isVName h; omega)

theorem Context.capacity_row (c : Context) {n : Nat} (hn : n < 8) (t : TagBits) : c.capacity n t = tagPerSeg t * c.segs := by
  rw [Context.capacity, if_pos hn]

theorem Context.capacity_pos (c : Context) (n : Nat) (t : TagBits) : 0 < c.capacity n t :=
  Nat.mul_pos (tagPerSeg_pos t) (by split <;> [exact c.segs_pos; exact Nat.one_pos])

theorem Context.groupSize_pos (c : Context) (n : Nat) (t : TagBits) {count : Nat} (h : 0 < count) : 0 < c.groupSize n t count :=
  Nat.div_pos (by omega) (c.capacity_pos n t)

theorem Bank.tagOf_row (b : Bank) (now : Nat) {n : Nat} (hn : n < 8) : b.tagOf now n = (b.row n).tag := if_pos hn

/-! ## The first failure of a list -/

theorem failIf_false (k : Nat) (v : Word) : failIf false k v = [] := rfl

theorem flatMap_range_none_or_one {α : Type} (p : Prop) [Decidable p] (f : Nat → List α) :
    (List.range (if p then 0 else 1)).flatMap f = if p then [] else f 0 := by
  split
  · rfl
  · exact List.flatMap_singleton f 0

theorem head?_flatMap_range {α : Type} {m : Nat} (h : 0 < m) {f : Nat → List α} {x : α} (hx : (f 0).head? = some x) :
    ((List.range m).flatMap f).head? = some x := by
  obtain ⟨k, rfl⟩ := Nat.exists_eq_add_one.mpr h
  rw [List.range_succ_eq_map, List.flatMap_cons, List.head?_append, hx]
  rfl

/-! ## A row register that the elements fit (R132) -/

/-- What stops the use of a row register for some elements: that it is not open. -/
def Bank.useFails (b : Bank) (count n : Nat) : List (Nat × Word) := if count = 0 then [] else b.rowState n

theorem Bank.useFails_open {b : Bank} {n : Nat} (h : (b.row n).st = .opened) (count : Nat) : b.useFails count n = [] := by
  unfold Bank.useFails Bank.rowState
  rw [h, ite_self]

theorem Bank.rowState_closed {b : Bank} {n : Nat} (h : (b.row n).st = .closed) : b.rowState n = [(0x02, nameWord n)] := by
  rw [Bank.rowState, h]

theorem Bank.useFails_closed {b : Bank} {n count : Nat} (h : (b.row n).st = .closed) (hc : 0 < count) :
    b.useFails count n = [(0x02, nameWord n)] := by
  rw [Bank.useFails, if_neg hc.ne', Bank.rowState_closed h]

/-- Only keep names are read as a destination's bound names are (R19). -/
theorem Context.keepReads_row {c : Context} {n : NameF} (hn : c.isVName n) (b : Bank) (t : TagBits) (count : Nat) :
    c.keepReads b n.toNat t count = [] := by
  have h8 := Context.lt_eight_of_isVName hn
  exact if_neg (by omega)

section oneRow
variable {c : Context} {n : NameF} (hn : c.isVName n) {t : TagBits} {count : Nat} (hcount : count ≤ tagPerSeg t * c.segs) (b : Bank)
include hn hcount

/-- Elements that fit one name take one, and no elements none. -/
theorem Context.groupSize_row : c.groupSize n.toNat t count = if count = 0 then 0 else 1 := by
  have hcap := c.capacity_pos n.toNat t
  have hfit : count ≤ c.capacity n.toNat t := by rwa [c.capacity_row (Context.lt_eight_of_isVName hn)]
  unfold Context.groupSize
  split
  · exact Nat.div_eq_of_lt (by omega)
  · exact Nat.div_eq_of_lt_le (by omega) (by omega)

theorem Context.overrun_row : c.overrun n.toNat t count = [] := by
  have h8 := Context.lt_eight_of_isVName hn
  have hfits : c.groupFits n.toNat t count = true := by
    rw [Context.groupFits, Context.groupSize_row hn hcount, if_pos h8]
    exact decide_eq_true (by split <;> omega)
  rw [Context.overrun, hfits]
  rfl

theorem Context.sourceFails_row : c.sourceFails b n.toNat t count = b.useFails count n.toNat := by
  rw [Context.sourceFails, Context.overrun_row hn hcount, Context.groupSize_row hn hcount, flatMap_range_none_or_one]
  simp only [Nat.add_zero, if_pos (Context.lt_eight_of_isVName hn), if_pos (show n.toNat < c.nNames from hn)]
  rfl

theorem Context.destFails_row : c.destFails b n.toNat t count = b.useFails count n.toNat := by
  rw [← Context.sourceFails_row hn hcount, Context.destFails, Context.sourceFails, failIf_false, List.append_nil,
    Context.groupSize_row hn hcount, flatMap_range_none_or_one, flatMap_range_none_or_one]
  simp only [Nat.add_zero, if_pos (Context.lt_eight_of_isVName hn)]

theorem Context.groupAccept_row (now : Nat) (ok : TagBits → Bool) :
    c.groupAccept b now n.toNat t count ok = failIf (!ok t) 0x03 (nameWord n.toNat) := by
  have h1 : max 1 (c.groupSize n.toNat t count) = 1 := by
    rw [Context.groupSize_row hn hcount]
    split <;> rfl
  rw [Context.groupAccept, h1]
  exact List.flatMap_singleton _ 0

theorem Context.groupTags_row (now : Nat) (ht : (b.row n.toNat).tag = t) : c.groupTags b now n.toNat t count = [] := by
  have h0 : b.tagOf now (n.toNat + 0) = t := (b.tagOf_row now (Context.lt_eight_of_isVName hn)).trans ht
  rw [Context.groupTags, Context.groupSize_row hn hcount, flatMap_range_none_or_one, h0]
  simp [failIf_false]

/-- Two names that one row register each stands for overlap only as the same one, which R163 allows. -/
theorem Context.badOverlap_row {m : NameF} (hm : c.isVName m) : c.badOverlap n.toNat t count m.toNat t count = false := by
  have h8 := Context.lt_eight_of_isVName hn
  have hm8 := Context.lt_eight_of_isVName hm
  have hown : ∀ k : Nat, ownClass k (if count = 0 then 0 else 1) ≤ 1 := fun k => by
    unfold ownClass
    split <;> split <;> omega
  have h1 := hown n.toNat
  have h2 := hown m.toNat
  rw [Context.badOverlap, Context.groupSize_row hn hcount, Context.groupSize_row hm hcount]
  by_cases h : n.toNat = m.toNat
  · simp [h]
  · rw [groupsMeet, decide_eq_false (by omega), Bool.false_and]

end oneRow

/-! ## Three row registers (R58, R172) -/

/-- An operation on A's elements whose result has A's tag: no template code (R186), product of its own width (R178) or conversion. -/
structure LaneOp.Plain (op : LaneOp) : Prop where
  reads : op.template = false
  notWide : ∀ k, op ≠ .mulw k
  notConvert : ∀ k r t, op ≠ .cvt k r t

theorem LaneOp.Plain.acceptsB {op : LaneOp} (h : op.Plain) : op.acceptsB = op.accepts := by
  funext t
  unfold LaneOp.acceptsB
  split
  · exact absurd rfl (h.notWide _)
  · exact absurd rfl (h.notWide _)
  · rfl

theorem LaneForm.width_of_plain {f : LaneForm} (h : f.op.Plain) (t : LaneTags) : f.width t = t.r := by
  unfold LaneForm.width
  split
  · next e => exact absurd e (h.notWide _)
  · next e => exact absurd e (h.notWide _)
  · rfl

section threeRows
variable {f : LaneForm} {n : NameF} {c : Context} (hb : f.b = some n) (hd : c.isVName f.d) (ha : c.isVName f.a) (hn : c.isVName n)
  {k : Bank} {tag : TagBits}
include hb hd ha hn

theorem LaneForm.tags_of_plain (hop : f.op.Plain) (hta : (k.row f.a.toNat).tag = tag) (htn : (k.row n.toNat).tag = tag)
    (htd : (k.row f.d.toNat).tag = tag) (now : Nat) : f.tags k now = ⟨tag, some tag, tag, some tag⟩ := by
  have hd8 := Context.lt_eight_of_isVName hd
  have hA : k.tagOf now f.a.toNat = tag := (k.tagOf_row now (Context.lt_eight_of_isVName ha)).trans hta
  have hB : k.tagOf now n.toNat = tag := (k.tagOf_row now (Context.lt_eight_of_isVName hn)).trans htn
  have hD : k.tagOf now f.d.toNat = tag := (k.tagOf_row now hd8).trans htd
  have hdest : k.destTag now f.d = tag := by simp [Bank.destTag, isReg_of_isVName hd, hd8, hD]
  unfold LaneForm.tags
  simp only [hb, isReg_of_isVName ha, isReg_of_isVName hn, hA, hB, hD, hdest, ite_self, if_true]
  split
  · next e => exact absurd e (hop.notWide _)
  · next e => exact absurd e (hop.notConvert _ _ _)
  · rfl

/-- The failures of three row registers of one tag, which one name each holds: those that are not open, then the tag, of each
register that is read (R132, R58). -/
theorem LaneForm.fails_of_plain (hop : f.op.Plain) (hbk : tagBk tag = false) (hvl : c.vl ≤ tagPerSeg tag * c.segs) (now : Nat)
    (hta : (k.row f.a.toNat).tag = tag) (htn : (k.row n.toNat).tag = tag) (htd : (k.row f.d.toNat).tag = tag) :
    f.fails c now k = k.useFails c.vl f.d.toNat ++ k.useFails c.vl f.a.toNat ++ k.useFails c.vl n.toNat ++
      (if f.op.readsD then failIf (!f.op.accepts tag) 0x03 (nameWord f.d.toNat) else []) ++
      failIf (!f.op.accepts tag) 0x03 (nameWord f.a.toNat) ++ failIf (!f.op.accepts tag) 0x03 (nameWord n.toNat) := by
  have hcount : LaneForm.count ⟨tag, some tag, tag, some tag⟩ c.vl = c.vl := by simp [LaneForm.count, hbk]
  unfold LaneForm.fails
  simp only [LaneForm.tags_of_plain hb hd ha hn hop hta htn htd now, hcount, LaneForm.width_of_plain hop, hop.reads, hop.acceptsB, hb,
    isReg_of_isVName ha, isReg_of_isVName hn, isReg_of_isVName hd, Option.getD_some, Option.isSome_some, if_true, Bool.false_eq_true,
    if_false, Bool.or_self, Bool.and_false, Context.badOverlap_row hd hvl ha, Context.badOverlap_row hd hvl hn,
    Context.destFails_row hd hvl, Context.sourceFails_row ha hvl, Context.sourceFails_row hn hvl, Context.keepReads_row hd,
    Context.groupAccept_row hd hvl, Context.groupAccept_row ha hvl, Context.groupAccept_row hn hvl,
    Context.groupTags_row hd hvl k now htd, Context.groupTags_row ha hvl k now hta, Context.groupTags_row hn hvl k now htn]
  simp [failIf_false, hop.notWide]

end threeRows

/-! ## A destination that is not open (R132) -/

/-- A closed row register fails a destination group first: an overrun and an overlap name the same register. -/
theorem Context.destFails_closed {c : Context} {n : NameF} (hn : c.isVName n) {b : Bank} (h : (b.row n.toNat).st = .closed) (t : TagBits)
    {count : Nat} (hc : 0 < count) (overlap : Bool) : ∃ fs, c.destFails b n.toNat t count overlap = (0x02, nameWord n.toNat) :: fs := by
  rw [← List.head?_eq_some_iff, Context.destFails, Context.overrun]
  cases !c.groupFits n.toNat t count
  case true => rfl
  cases overlap
  case true => rfl
  refine head?_flatMap_range (c.groupSize_pos _ t hc) ?_
  simp only [Nat.add_zero, if_pos (Context.lt_eight_of_isVName hn), if_pos (show n.toNat < c.nNames from hn), Bank.rowState_closed h]
  rfl

theorem LaneForm.count_pos (t : LaneTags) {vl : Nat} (h : 0 < vl) : 0 < LaneForm.count t vl := by
  unfold LaneForm.count roundBlocks
  split <;> omega

theorem LaneForm.fails_closed_dest {f : LaneForm} {c : Context} {k : Bank} (hd : c.isVName f.d) (h : (k.row f.d.toNat).st = .closed)
    (hvl : 0 < c.vl) (now : Nat) : ∃ fs, f.fails c now k = (0x02, nameWord f.d.toNat) :: fs := by
  unfold LaneForm.fails
  extract_lets t n d a bn na tb sized tr regB regD dest
  have hcount : 0 < if sized then n else 1 := by
    split
    · exact LaneForm.count_pos t hvl
    · exact Nat.one_pos
  have hdest : ∃ fs, dest = (0x02, nameWord f.d.toNat) :: fs := by
    obtain ⟨fs, hfs⟩ := Context.destFails_closed hd h tr hcount _
    exact ⟨_, (if_pos (isReg_of_isVName hd)).trans (congrArg (· ++ _) hfs)⟩
  obtain ⟨fs, hfs⟩ := hdest
  rw [hfs]
  exact ⟨_, rfl⟩

end Sys2Proof.Machine
end

section
/-! O44: the lowest failing bank of an instruction that takes a slot traps (R408), and the checks of three row registers. -/

namespace Sys2Proof.Machine

theorem bankList_sorted (g : BitVec 16) : (bankList g).Pairwise (· < ·) := List.Pairwise.filter _ List.pairwise_lt_range

/-- Of rising banks, the one that fails below which none does traps. -/
theorem checkBanks_lowest (check : Nat → List (Nat × Word)) {js : List Nat} (hs : js.Pairwise (· < ·)) {j k : Nat} {v : Word}
    (hj : j ∈ js) (hbelow : ∀ m ∈ js, m < j → check m = []) (h : worstFailure (check j) = some (k, v)) :
    checkBanks check js = .error (.trap k v (some j)) := by
  obtain ⟨pre, post, rfl⟩ := List.append_of_mem hj
  refine checkBanks_trap check pre post j k v (fun i hi => hbelow i (by simp [hi]) ?_) h
  exact (List.pairwise_append.mp hs).2.2 i hi j List.mem_cons_self

/-- An instruction that takes a slot, one of whose banks fails a check, traps in the lowest (R408). -/
theorem slotOp_trap {i : Instr} {f : SlotForm} {names : List (List NameClass × NameF)} {reads : List NameF}
    {check : State → Nat → List (Nat × Word)} {s : State} (hf : slotForm i = some f) (hn : s.ctx.acceptsAll names) (hm : s.mayIssue)
    (hi : s.ctx.intact reads vecCtl (names.map Prod.snd)) {j k : Nat} {v : Word} (hj : j ∈ bankList s.ctx.gmBanks)
    (hbelow : ∀ m ∈ bankList s.ctx.gmBanks, m < j → check (f.primed s) m = [])
    (h : worstFailure (check (f.primed s) j) = some (k, v)) : slotOp i names reads check s = .next (s.takeTrap k v (some j)) := by
  have hp := f.primed_primes s
  have hsound := soundFails_nil _ _ _ _ (sound_ok _ _ _ _ (hp.ctx.intact hi))
  have hcheck : checkBanks (fun j => check (f.primed s) j ++ (f.primed s).ctx.soundFails reads vecCtl (names.map Prod.snd))
      (bankList (f.primed s).ctx.gmBanks) = .error (.trap k v (some j)) := by
    simp only [hsound, List.append_nil, hp.gang]
    exact checkBanks_lowest _ (bankList_sorted _) hj hbelow h
  simp only [slotOp, hf, checkNames_ok _ _ hn, onset_ok f s hm, hcheck, except_ok_bind, except_error_bind, State.finish_trap]

/-- Settles O44: the checks of three row registers of one tag, told by which of them are open and by the tag; then R408. -/
theorem laneChecks : Obligations.LaneChecks := by
  unfold Obligations.LaneChecks
  refine ⟨fun f n c now k tag hb hd ha hn hop hbk hvl => ?_, ?_⟩
  · have hplain : f.op.Plain := by
      refine ⟨?_, fun k e => ?_, fun k r t e => ?_⟩
      · unfold LaneOp.template
        split
        case h_4 => rfl
        all_goals next e => simp only [e] at hop
      · simp only [e] at hop
      · simp only [e] at hop
    have hfails := LaneForm.fails_of_plain (k := k) hb hd ha hn hplain hbk hvl now
    refine ⟨fun ⟨hdo, htd⟩ ⟨hao, hta⟩ ⟨hno, htn⟩ hacc => ?_, fun hclosed hpos => LaneForm.fails_closed_dest hd hclosed hpos now,
      fun ⟨hdo, htd⟩ hac hta ⟨_, htn⟩ hpos => ?_, fun ⟨hdo, htd⟩ ⟨hao, hta⟩ hnc htn hpos => ?_,
      fun ⟨hdo, htd⟩ ⟨hao, hta⟩ ⟨hno, htn⟩ hacc => ?_⟩
    · rw [hfails hta htn htd, Bank.useFails_open hdo, Bank.useFails_open hao, Bank.useFails_open hno, hacc]
      cases f.op.readsD <;> rfl
    · rw [hfails hta htn htd, Bank.useFails_open hdo, Bank.useFails_closed hac hpos]
      exact ⟨_, rfl⟩
    · rw [hfails hta htn htd, Bank.useFails_open hdo, Bank.useFails_open hao, Bank.useFails_closed hnc hpos]
      exact ⟨_, rfl⟩
    · rw [hfails hta htn htd, Bank.useFails_open hdo, Bank.useFails_open hao, Bank.useFails_open hno, hacc]
      cases f.op.readsD <;> exact ⟨_, rfl⟩
  · intro i f s j k v hf hw hn hm hi u hj hbelow h
    rw [exec_slotForm i f s hf hw]
    exact slotOp_trap hf hn hm hi hj hbelow h

end Sys2Proof.Machine
end

section
/-! The fields of a word (R69), and the two sides of the encoding: a row's number has the fields that the decoder tells the row by, and a
word the decoder accepts is the number of the row it names. An equation `c + … = n` between a word and its fields is read from the lowest
field up: `n / p = c / p` is what is left of it above the fields below p. -/

namespace Sys2Proof.Encoding

/-! ## One field at a time -/

theorem eq_iff_mod_div (a b g : Nat) : a = b ↔ a % g = b % g ∧ a / g = b / g :=
  ⟨fun h => h ▸ ⟨rfl, rfl⟩, fun ⟨hm, hd⟩ => by rw [← Nat.div_add_mod a g, hm, hd, Nat.div_add_mod]⟩

theorem eq_iff_div_one {c n : Nat} : c = n ↔ n / 1 = c / 1 := by rw [Nat.div_one, Nat.div_one, eq_comm]

theorem nameAt_eq_fieldAt (n p : Nat) : nameAt n p = fieldAt n 7 p := rfl

/-- A bit is a field of one bit. -/
theorem bitAt_eq_iff {n p : Nat} {x : Bool} : bitAt n p = x ↔ fieldAt n 1 p = BitVec.ofBool x := by
  rw [fieldAt, ← BitVec.toNat_inj, bitAt]
  rcases Nat.mod_two_eq_zero_or_one (n / p) with h | h <;> cases x <;> simp [h]

/-- A term whose lowest bit lies above the bits read does not change them. -/
theorem div_add_mul_mod {c q p g x : Nat} (hq : q % (p * g) = 0) : (c + x * q) / p % g = c / p % g := by
  obtain ⟨j, rfl⟩ := Nat.dvd_of_mod_eq_zero hq
  rcases Nat.eq_zero_or_pos p with rfl | hp
  · simp
  · rw [show c + x * (p * g * j) = c + p * (x * j * g) by ring, Nat.add_mul_div_left _ _ hp, Nat.add_mul_mod_self_right]

/-- The field at p is the lowest that is left. -/
theorem div_eq_add_field {n c p k : Nat} {x : BitVec k} (hp : 0 < p) (hc : c / p % 2 ^ k = 0) :
    n / p = (c + x.toNat * p) / p ↔ fieldAt n k p = x ∧ n / (p * 2 ^ k) = c / (p * 2 ^ k) := by
  obtain ⟨j, hj⟩ := Nat.dvd_of_mod_eq_zero hc
  have hk : 0 < 2 ^ k := Nat.two_pow_pos k
  rw [eq_iff_mod_div _ _ (2 ^ k), fieldAt, ← BitVec.toNat_inj, BitVec.toNat_ofNat, Nat.add_mul_div_right _ _ hp, ← Nat.div_div_eq_div_mul,
    ← Nat.div_div_eq_div_mul, hj, Nat.mul_div_cancel_left _ hk, Nat.mul_add_mod, Nat.mul_add_div hk, Nat.mod_eq_of_lt x.isLt,
    Nat.div_eq_of_lt x.isLt, Nat.add_zero]

theorem div_eq_add_bit {n c p : Nat} {x : Bool} (hp : 0 < p) (hc : c / p % 2 = 0) :
    n / p = (c + x.toNat * p) / p ↔ bitAt n p = x ∧ n / (p * 2) = c / (p * 2) := by
  have h := div_eq_add_field (n := n) (x := BitVec.ofBool x) hp hc
  rwa [BitVec.toNat_ofBool, ← bitAt_eq_iff] at h

theorem div_one_eq_add_field {n c k : Nat} {x : BitVec k} (hc : c / 1 % 2 ^ k = 0) :
    n / 1 = (c + x.toNat) / 1 ↔ fieldAt n k 1 = x ∧ n / 2 ^ k = c / 2 ^ k := by
  simpa using div_eq_add_field (n := n) (x := x) Nat.one_pos hc

theorem div_one_eq_add_bit {n c : Nat} {x : Bool} (hc : c / 1 % 2 = 0) :
    n / 1 = (c + x.toNat) / 1 ↔ bitAt n 1 = x ∧ n / 2 = c / 2 := by
  simpa using div_eq_add_bit (n := n) (x := x) Nat.one_pos hc

/-- No field lies between p and q: the bits there are those of c. -/
theorem div_eq_add_above {n c p q x : Nat} (_ : p < q) (hq : q % p = 0) :
    n / p = (c + x * q) / p ↔ bitsAt n p (q / p) = c / p % (q / p) ∧ n / q = (c + x * q) / q := by
  have h : p * (q / p) = q := Nat.mul_div_cancel' (Nat.dvd_of_mod_eq_zero hq)
  rw [eq_iff_mod_div _ _ (q / p), bitsAt, Nat.div_div_eq_div_mul, Nat.div_div_eq_div_mul, h, div_add_mul_mod (by rw [h, Nat.mod_self])]

/-- No field is left above p: what is left is the selecting bits and, above them, the major. -/
theorem div_eq_literal {n p K : Nat} (_ : p < 67108864) (hq : 67108864 % p = 0) :
    n / p = no_index (OfNat.ofNat K) ↔
      bitsAt n p (67108864 / p) = OfNat.ofNat K % (67108864 / p) ∧ n / 67108864 = OfNat.ofNat K / (67108864 / p) := by
  have h : p * (67108864 / p) = 67108864 := Nat.mul_div_cancel' (Nat.dvd_of_mod_eq_zero hq)
  rw [eq_iff_mod_div _ _ (67108864 / p), Nat.div_div_eq_div_mul, h, bitsAt]

/-! ## Selecting bits that run over several fields, cut at the fields' ends -/

theorem bitsAt_mul_eq_iff (n p m m' k : Nat) : bitsAt n p (m * m') = k ↔ bitsAt n p m = k % m ∧ bitsAt n (p * m) m' = k / m := by
  rw [eq_iff_mod_div _ _ m, bitsAt, bitsAt, bitsAt, Nat.mod_mul_right_mod, Nat.mod_mul_right_div_self, Nat.div_div_eq_div_mul]

/-- Format T: fn and the last-use bits. -/
theorem bitsAt_fn_last (n k : Nat) : bitsAt n 2097152 32 = k ↔ bitsAt n 2097152 4 = k % 4 ∧ bitsAt n 8388608 8 = k / 4 :=
  bitsAt_mul_eq_iff n 2097152 4 8 k

/-- Format T: all from D up. -/
theorem bitsAt_from_d (n k : Nat) : bitsAt n 16384 4096 = k ↔ bitsAt n 16384 128 = k % 128 ∧ bitsAt n 2097152 32 = k / 128 :=
  bitsAt_mul_eq_iff n 16384 128 32 k

/-- Format T: all from A up. -/
theorem bitsAt_from_a (n k : Nat) : bitsAt n 128 524288 = k ↔ bitsAt n 128 128 = k % 128 ∧ bitsAt n 16384 4096 = k / 128 :=
  bitsAt_mul_eq_iff n 128 128 4096 k

/-- Format T: all from B up. -/
theorem bitsAt_from_b (n k : Nat) : bitsAt n 1 67108864 = k ↔ bitsAt n 1 128 = k % 128 ∧ bitsAt n 128 524288 = k / 128 :=
  bitsAt_mul_eq_iff n 1 128 524288 k

/-- Format T: all from a scope of three bits up (FENCE). -/
theorem bitsAt_from_scope (n k : Nat) : bitsAt n 8 8388608 = k ↔ bitsAt n 8 16 = k % 16 ∧ bitsAt n 128 524288 = k / 16 :=
  bitsAt_mul_eq_iff n 8 16 524288 k

/-- Format B: cond and A. -/
theorem bitsAt_cond_a (n k : Nat) : bitsAt n 65536 1024 = k ↔ bitsAt n 65536 128 = k % 128 ∧ bitsAt n 8388608 8 = k / 128 :=
  bitsAt_mul_eq_iff n 65536 128 8 k

/-- Major 0x35: all from SWIN's step up. -/
theorem bitsAt_from_step (n k : Nat) : bitsAt n 32 2097152 = k ↔ bitsAt n 32 8 = k % 8 ∧ bitsAt n 256 262144 = k / 8 :=
  bitsAt_mul_eq_iff n 32 8 262144 k

/-- Major 0x35: all from VCFG's code up. -/
theorem bitsAt_from_code (n k : Nat) : bitsAt n 4 16777216 = k ↔ bitsAt n 4 8 = k % 8 ∧ bitsAt n 32 2097152 = k / 8 :=
  bitsAt_mul_eq_iff n 4 8 2097152 k

/-- Major 0x36: all from REF's count up. -/
theorem bitsAt_from_count (n k : Nat) : bitsAt n 16 4194304 = k ↔ bitsAt n 16 256 = k % 256 ∧ bitsAt n 4096 16384 = k / 256 :=
  bitsAt_mul_eq_iff n 16 256 16384 k

end Sys2Proof.Encoding
end

section
/-! The decoder's rows against the encoder's numbers (R69 to R81): O1 and O2. -/

namespace Sys2Proof.Encoding

/-! ## From a number to its row -/

/-- The major picks the table (R76). -/
theorem decodeRow_of_major (n : Nat) :
    (n / 67108864 = 0x01 → decodeRow n = decodeMajor01 n) ∧ (n / 67108864 = 0x02 → decodeRow n = decodeMajor02 n) ∧
    (n / 67108864 = 0x03 → decodeRow n = decodeMajor03 n) ∧ (n / 67108864 = 0x04 → decodeRow n = decodeMajor04 n) ∧
    (n / 67108864 = 0x05 → decodeRow n = decodeMajor05 n) ∧ (n / 67108864 = 0x06 → decodeRow n = decodeMajor06 n) ∧
    (n / 67108864 = 0x07 → decodeRow n = decodeMajor07 n) ∧ (n / 67108864 = 0x08 → decodeRow n = decodeMajor08 n) ∧
    (n / 67108864 = 0x09 → decodeRow n = decodeMajor09 n) ∧ (n / 67108864 = 0x0A → decodeRow n = decodeMajor0A n) ∧
    (n / 67108864 = 0x0B → decodeRow n = decodeMajor0B n) ∧ (n / 67108864 = 0x0C → decodeRow n = decodeMajor0C n) ∧
    (n / 67108864 = 0x0D → decodeRow n = decodeMajor0D n) ∧ (n / 67108864 = 0x0E → decodeRow n = decodeMajor0E n) ∧
    (n / 67108864 = 0x0F → decodeRow n = decodeMajor0F n) ∧ (n / 67108864 = 0x12 → decodeRow n = decodeMajor12 n) ∧
    (n / 67108864 = 0x13 → decodeRow n = decodeMajor13 n) ∧ (n / 67108864 = 0x14 → decodeRow n = decodeMajor14 n) ∧
    (n / 67108864 = 0x15 → decodeRow n = decodeMajor15 n) ∧ (n / 67108864 = 0x16 → decodeRow n = decodeMajor16 n) ∧
    (n / 67108864 = 0x17 → decodeRow n = decodeMajor17 n) ∧ (n / 67108864 = 0x19 → decodeRow n = decodeMajor19 n) ∧
    (n / 67108864 = 0x1A → decodeRow n = decodeMajor1A n) ∧ (n / 67108864 = 0x1C → decodeRow n = decodeMajor1C n) ∧
    (n / 67108864 = 0x1D → decodeRow n = decodeMajor1D n) ∧ (n / 67108864 = 0x1E → decodeRow n = decodeMajor1E n) ∧
    (n / 67108864 = 0x20 → decodeRow n = decodeMajor20 n) ∧ (n / 67108864 = 0x21 → decodeRow n = decodeMajor21 n) ∧
    (n / 67108864 = 0x22 → decodeRow n = decodeMajor22 n) ∧ (n / 67108864 = 0x23 → decodeRow n = decodeMajor23 n) ∧
    (n / 67108864 = 0x24 → decodeRow n = decodeMajor24 n) ∧ (n / 67108864 = 0x25 → decodeRow n = decodeMajor25 n) ∧
    (n / 67108864 = 0x26 → decodeRow n = decodeMajor26 n) ∧ (n / 67108864 = 0x27 → decodeRow n = decodeMajor27 n) ∧
    (n / 67108864 = 0x28 → decodeRow n = decodeMajor28 n) ∧ (n / 67108864 = 0x2C → decodeRow n = decodeMajor2C n) ∧
    (n / 67108864 = 0x2D → decodeRow n = decodeMajor2D n) ∧ (n / 67108864 = 0x2E → decodeRow n = decodeMajor2E n) ∧
    (n / 67108864 = 0x2F → decodeRow n = decodeMajor2F n) ∧ (n / 67108864 = 0x30 → decodeRow n = decodeMajor30 n) ∧
    (n / 67108864 = 0x31 → decodeRow n = decodeMajor31 n) ∧ (n / 67108864 = 0x32 → decodeRow n = decodeMajor32 n) ∧
    (n / 67108864 = 0x33 → decodeRow n = decodeMajor33 n) ∧ (n / 67108864 = 0x34 → decodeRow n = decodeMajor34 n) ∧
    (n / 67108864 = 0x35 → decodeRow n = decodeMajor35 n) ∧ (n / 67108864 = 0x36 → decodeRow n = decodeMajor36 n) := by
  refine ⟨?_, ?_, ?_, ?_, ?_, ?_, ?_, ?_, ?_, ?_, ?_, ?_, ?_, ?_, ?_, ?_, ?_, ?_, ?_, ?_, ?_, ?_, ?_, ?_, ?_, ?_, ?_, ?_, ?_, ?_, ?_, ?_, ?_,
    ?_, ?_, ?_, ?_, ?_, ?_, ?_, ?_, ?_, ?_, ?_, ?_, ?_⟩
  all_goals intro h; rw [decodeRow, h]; rfl

/-- An instruction's number has the bits of its own row and of no row before it. -/
theorem decodeRow_encodeNat (i : Instr) (n : Nat) (h : encodeNat i = some n) : decodeRow n = some i := by
  cases i
  all_goals simp only [encodeNat, Option.some.injEq, reduceCtorEq] at h
  all_goals rw [eq_iff_div_one] at h
  all_goals simp only [div_one_eq_add_field, div_one_eq_add_bit, div_eq_add_field, div_eq_add_bit, div_eq_add_above, div_eq_literal,
    div_add_mul_mod, bitsAt_fn_last, bitsAt_from_d, bitsAt_from_a, bitsAt_from_b, bitsAt_from_scope, bitsAt_cond_a, bitsAt_from_step,
    bitsAt_from_code, bitsAt_from_count, Nat.reduceMul, Nat.reducePow, Nat.reduceMod, Nat.reduceDiv, Nat.zero_lt_succ, Nat.reduceLT] at h
  all_goals simp only [decodeRow_of_major n, h,
    decodeMajor01, decodeMajor02, decodeMajor03, decodeMajor04, decodeMajor05, decodeMajor06, decodeMajor07, decodeMajor08,
    decodeMajor09, decodeMajor0A, decodeMajor0B, decodeMajor0C, decodeMajor0D, decodeMajor0E, decodeMajor0F, decodeMajor12,
    decodeMajor13, decodeMajor14, decodeMajor15, decodeMajor16, decodeMajor17, decodeMajor19, decodeMajor1A, decodeMajor1C,
    decodeMajor1D, decodeMajor1E, decodeMajor20, decodeMajor21, decodeMajor22, decodeMajor23, decodeMajor24, decodeMajor25,
    decodeMajor26, decodeMajor27, decodeMajor28, decodeMajor2C, decodeMajor2D, decodeMajor2E, decodeMajor2F, decodeMajor30,
    decodeMajor31, decodeMajor32, decodeMajor33, decodeMajor34, decodeMajor35, decodeMajor36,
    bitsAt_fn_last, bitsAt_from_d, bitsAt_from_a, bitsAt_from_b, bitsAt_from_scope, bitsAt_cond_a, bitsAt_from_step, bitsAt_from_code,
    bitsAt_from_count, nameAt_eq_fieldAt, Nat.reduceMod, Nat.reduceDiv, Nat.reduceEqDiff, OfNat.ofNat_ne_zero, OfNat.zero_ne_ofNat,
    OfNat.ofNat_ne_one, OfNat.one_ne_ofNat, one_ne_zero, zero_ne_one, and_self, and_true, false_and, and_false, if_true, if_false]

/-- Settles O1: the number of an instruction is a word, and the word's row is the instruction. -/
theorem decodeOfEncode : Obligations.DecodeOfEncode := by
  unfold Obligations.DecodeOfEncode
  intro i w hwf hw
  obtain ⟨n, hn, rfl⟩ := Option.map_eq_some_iff.mp hw
  have hlt : n < 2 ^ 32 := Laws.Shape.every i n hn
  rw [decode, BitVec.toNat_ofNat, Nat.mod_eq_of_lt hlt, decodeRow_encodeNat i n hn]
  exact if_pos hwf

/-! ## From a row to its number -/

/-- Every instruction that o holds has the number n. -/
def Encodes (n : Nat) (o : Option Instr) : Prop := ∀ i, o = some i → encodeNat i = some n

theorem encodes_none (n : Nat) : Encodes n none := fun _ h => nomatch h

theorem encodes_some {n : Nat} {i : Instr} (hi : encodeNat i = some n) : Encodes n (some i) := by
  rintro _ ⟨⟩; exact hi

theorem encodes_ite {n : Nat} {c : Prop} [Decidable c] {i : Instr} {rest : Option Instr} (hi : c → encodeNat i = some n)
    (hrest : Encodes n rest) : Encodes n (if c then some i else rest) := by
  split
  · next hc => exact encodes_some (hi hc)
  · exact hrest

/-- The bits that tell a row, its fields and its major are the whole word. -/
theorem encodes_decodeRow (n : Nat) : Encodes n (decodeRow n) := by
  unfold decodeRow
  split
  case h_47 => exact encodes_none n
  all_goals rename_i hmajor
  all_goals simp only [
    decodeMajor01, decodeMajor02, decodeMajor03, decodeMajor04, decodeMajor05, decodeMajor06, decodeMajor07, decodeMajor08,
    decodeMajor09, decodeMajor0A, decodeMajor0B, decodeMajor0C, decodeMajor0D, decodeMajor0E, decodeMajor0F, decodeMajor12,
    decodeMajor13, decodeMajor14, decodeMajor15, decodeMajor16, decodeMajor17, decodeMajor19, decodeMajor1A, decodeMajor1C,
    decodeMajor1D, decodeMajor1E, decodeMajor20, decodeMajor21, decodeMajor22, decodeMajor23, decodeMajor24, decodeMajor25,
    decodeMajor26, decodeMajor27, decodeMajor28, decodeMajor2C, decodeMajor2D, decodeMajor2E, decodeMajor2F, decodeMajor30,
    decodeMajor31, decodeMajor32, decodeMajor33, decodeMajor34, decodeMajor35, decodeMajor36]
  all_goals repeat' first | exact encodes_none n | refine encodes_some ?_ | refine encodes_ite (fun hrow => ?_) ?_
  all_goals simp only [encodeNat, Option.some.injEq]
  all_goals rw [eq_iff_div_one]
  all_goals simp only [div_one_eq_add_field, div_one_eq_add_bit, div_eq_add_field, div_eq_add_bit, div_eq_add_above, div_eq_literal,
    div_add_mul_mod, nameAt_eq_fieldAt, Nat.reduceMul, Nat.reducePow, Nat.reduceMod, Nat.reduceDiv, Nat.zero_lt_succ, Nat.reduceLT, true_and,
    *]

/-- Settles O2. -/
theorem encodeOfDecode : Obligations.EncodeOfDecode := by
  unfold Obligations.EncodeOfDecode
  intro w i h
  unfold decode at h
  split at h
  · next j hj =>
    obtain ⟨hwf, rfl⟩ : j.wf = true ∧ j = i := by simpa using h
    refine ⟨hwf, ?_⟩
    rw [encode, encodes_decodeRow _ _ hj, Option.map_some, BitVec.ofNat_toNat, BitVec.setWidth_eq]
  · exact nomatch h

/-- Settles O3: fixed words, decoded. -/
theorem specWordsDecode : Obligations.SpecWordsDecode := by
  unfold Obligations.SpecWordsDecode
  decide +kernel

end Sys2Proof.Encoding
end

section
/-! What the running stream does with the word at its pc: a word of an unassigned major traps (R74), another runs (R68, R75). -/

namespace Sys2Proof.Machine

/-! ## Unassigned majors (R74) -/

theorem decodeRow_unassigned {n : Nat} (h : n / 67108864 = 0 ∨ n / 67108864 = 0x3F) : decodeRow n = none := by
  unfold decodeRow
  rcases h with h | h <;> rw [h] <;> rfl

theorem decode_unassigned {w : Word32} (h : w.toNat / 2 ^ 26 = 0 ∨ w.toNat / 2 ^ 26 = 0x3F) : decode w = none := by
  rw [decode, decodeRow_unassigned h]

/-- BRK's major is 0x1E. -/
theorem isBreakWord_unassigned {w : Word32} (h : w.toNat / 2 ^ 26 = 0 ∨ w.toNat / 2 ^ 26 = 0x3F) : isBreakWord w = false := by
  simp only [isBreakWord, decide_eq_false_iff_not, not_and]
  omega

/-- Settles O4: the word has no row and is no BRK. -/
theorem unassignedMajorsTrap : Obligations.UnassignedMajorsTrap := by
  unfold Obligations.UnassignedMajorsTrap
  intro w h
  refine ⟨decode_unassigned h, fun s hheld hin hissue hentry hfetch => ?_⟩
  have hw : BitVec.ofNat 32 w.toNat = w := by rw [BitVec.ofNat_toNat, BitVec.setWidth_eq]
  have hnext := State.nextInstr_undefined hissue hentry hfetch (by rw [hw]; exact decode_unassigned h)
  rw [step_nextInstr hheld hin hnext, hw, exec_illegalInstruction_trap w s (isBreakWord_unassigned h)]

/-! ## A fetch that meets nothing on its way (R75) -/

theorem State.choose_nil {α : Type} [DecidableEq α] (s : State) (kind pos : Nat) (x : α) : s.choose kind pos x [] = x := rfl

theorem State.readLoc_word {s : State} (h : s.anyAhead = false) (loc : Nat) : s.readLoc loc 4 = memRead s.mem loc 4 := by
  simp [State.readLoc, h, memGet]

/-- The four bytes at a location, the lowest address first, are its word. -/
theorem memRead_word (m : Tab Byte) (a : Nat) :
    BitVec.ofNat 32 (memRead m a 4) = wordOfBytes (memByte m a) (memByte m (a + 1)) (memByte m (a + 2)) (memByte m (a + 3)) := by
  rw [wordOfBytes, memRead_succ, memRead_succ, memRead_succ, memRead_succ]
  congr 1
  simp only [memRead, List.range_zero, List.foldr_nil, Nat.add_zero]
  omega

/-- The fetch of an aligned word that is not blocked, marked, overwritten or in flight. -/
theorem State.fetchWord_clear {s : State} {va : Word} {pa : Nat} {e : Page} (ha : va.toNat % 4 = 0)
    (ht : s.translate false va .exec 4 = .ok (pa, e)) (hb : s.blocked pa 4 = false) (hm : s.markCause (s.locOf pa) 4 = none)
    (hw : s.writes = []) (hn : s.anyAhead = false) : s.fetchWord va = .ok (memRead s.mem (s.locOf pa) 4) := by
  unfold State.fetchWord
  simp only [ha, ht, hb, hm, hw, decide_true, require_true, Bool.not_false, waitUnless_true, except_ok_bind, pastValues, s.readLoc_word hn,
    State.choose_nil]
  rfl

theorem State.nextInstr_decoded {s : State} {w : Nat} {i : Instr} (hi : s.canIssue = true) (he : s.entryDue = false)
    (hw : s.fetchWord s.ctx.pc = .ok w) (hd : decode (BitVec.ofNat 32 w) = some i) : s.nextInstr = some i := by
  simp [State.nextInstr, hi, he, hw, hd]

/-- Settles O5. -/
theorem stepRunsDecoded : Obligations.StepRunsDecoded := by
  unfold Obligations.StepRunsDecoded
  intro s i pa e rest hheld hin hissue hentry hal htr hbl hmark hwr hahead hdec
  have hd : decode (BitVec.ofNat 32 (memRead s.mem (s.locOf pa) 4)) = some i := by
    rw [memRead_word]
    obtain ⟨j, hj, h⟩ := Option.map_eq_some_iff.mp hdec
    rw [hj, (Prod.mk.inj h).1]
  exact step_nextInstr hheld hin (State.nextInstr_decoded hissue hentry (State.fetchWord_clear hal htr hbl hmark hwr hahead) hd)

end Sys2Proof.Machine
end

section
/-! Where transfers trap (R68, R114, R207, R208), and FENCE (R75, R222). -/

namespace Sys2Proof.Machine

/-- The first check of an instruction fails: it traps. -/
theorem State.finish_require (s : State) {b : Bool} (h : b = false) (k : Nat) (v : Word) (f : Unit → Except Stop State) :
    s.finish (require b k v >>= f) = .next (s.takeTrap k v none) := by
  rw [h, require_false, except_error_bind, State.finish_trap]

theorem State.finish_require_pass (s : State) {b : Bool} (h : b = true) (k : Nat) (v : Word) (f : Unit → Except Stop State) :
    s.finish (require b k v >>= f) = s.finish (f ()) := by
  rw [h, require_true, except_ok_bind]

/-! ## Transfers -/

/-- The transfers that may not stand at the end word of an active loop (R114). -/
def isTransfer (i : Instr) : Prop :=
  (∃ a o, i = .bEqz a o ∨ i = .bNez a o ∨ i = .bLtz a o ∨ i = .bGez a o ∨ i = .bGtz a o ∨ i = .bLez a o ∨ i = .bAny a o ∨
    i = .bAll a o ∨ i = .br o) ∨ (∃ d l, i = .call d l) ∨ (∃ a, i = .jr a) ∨ (∃ a l, i = .loop a l) ∨ (∃ d a l, i = .sloop d a l)

/-- Their place is the first thing they check. -/
theorem exec_transfer_at_loopEnd {s : State} (h : s.ctx.atLoopEnd = true) {i : Instr} (hi : isTransfer i) :
    exec i s = .next (s.takeTrap 0x01 (wordOf i) none) := by
  rcases hi with ⟨a, o, rfl | rfl | rfl | rfl | rfl | rfl | rfl | rfl | rfl⟩ | ⟨d, l, rfl⟩ | ⟨a, rfl⟩ | ⟨a, l, rfl⟩ | ⟨d, a, l, rfl⟩
  all_goals
    simp only [exec_bEqz, execBEqz, exec_bNez, execBNez, exec_bLtz, execBLtz, exec_bGez, execBGez, exec_bGtz, execBGtz, exec_bLez, execBLez,
      condBranch, exec_bAny, execBAny, exec_bAll, execBAll, predBranch, exec_br, execBr, exec_call, execCall, exec_jr, execJr,
      exec_loop, execLoop, exec_sloop, execSloop]
    exact s.finish_require (by simp [h]) _ _ _

theorem bodiesClash_of_not_clear {a b x y : Nat} (h : ¬bodiesClear a b x y) : bodiesClash a b x y = true := by
  simp only [bodiesClear, not_or, not_and_or] at h
  simp only [bodiesClash, Bool.and_eq_true, Bool.not_eq_true', decide_eq_true_eq, decide_eq_false_iff_not]
  omega

theorem exec_loop_trap {s : State} {a : NameF} {l : BitVec 11} (h : s.ctx.counting = true ∨ s.ctx.gmSub = true ∨
    (s.ctx.stripping = true ∧
      ¬bodiesClear (s.ctx.pc.toNat + 4) (s.ctx.pc.toNat + 4 * l.toNat) (s.ctx.sbeg.toNat + 4) s.ctx.send.toNat)) :
    exec (.loop a l) s = .next (s.takeTrap 0x01 (wordOf (.loop a l)) none) := by
  rw [exec_loop, execLoop]
  refine s.finish_require ?_ _ _ _
  rcases h with h | h | ⟨h, hc⟩
  · simp [h]
  · simp [h]
  · simp [h, bodiesClash_of_not_clear hc]

theorem exec_sloop_trap {s : State} {d a : NameF} {l : BitVec 11} (h : s.ctx.stripping = true ∨ s.ctx.gmSub = true ∨
    (s.ctx.counting = true ∧
      ¬bodiesClear (s.ctx.pc.toNat + 4) (s.ctx.pc.toNat + 4 * l.toNat) s.ctx.lbeg.toNat s.ctx.lend.toNat)) :
    exec (.sloop d a l) s = .next (s.takeTrap 0x01 (wordOf (.sloop d a l)) none) := by
  rw [exec_sloop, execSloop]
  refine s.finish_require ?_ _ _ _
  rcases h with h | h | ⟨h, hc⟩
  · simp [h]
  · simp [h]
  · simp [h, bodiesClash_of_not_clear hc]

theorem exec_jr_misaligned {s : State} {a : NameF} (hp : s.ctx.atLoopEnd = false) (ha : isSz a) (hal : (s.ctx.read a).toNat % 4 ≠ 0) :
    exec (.jr a) s = .next (s.takeTrap 0x0F (s.ctx.read a) none) := by
  rw [exec_jr, execJr, s.finish_require_pass (by simp [hp]), checkNames_ok _ _ (by simp [Context.acceptsAll, accepts_clsS, ha]),
    except_ok_bind]
  exact s.finish_require (by simp [hal]) _ _ _

theorem exec_gsplit_placed {s : State} {a b : NameF} (h : s.ctx.gmSub = true ∨ s.ctx.counting = true ∨ s.ctx.stripping = true) :
    exec (.gsplit a b) s = .next (s.takeTrap 0x01 (wordOf (.gsplit a b)) none) := by
  rw [exec_gsplit, execGsplit]
  refine s.finish_require ?_ _ _ _
  rcases h with h | h | h <;> simp [h]

theorem exec_gsplit_misaligned {s : State} {a b : NameF} (hg : s.ctx.gmSub = false) (hc : s.ctx.counting = false)
    (hs : s.ctx.stripping = false) (ha : isPName a) (hb : isSName b) (hal : (s.ctx.read b).toNat % 4 ≠ 0) :
    exec (.gsplit a b) s = .next (s.takeTrap 0x0F (s.ctx.read b) none) := by
  rw [exec_gsplit, execGsplit, s.finish_require_pass (by simp [hg, hc, hs]),
    checkNames_ok _ _ (by simp [Context.acceptsAll, accepts_clsP _ _ ha, accepts_clsS1 _ _ hb]), except_ok_bind]
  exact s.finish_require (by simp [hal]) _ _ _

/-- Settles O28. -/
theorem branchTraps : Obligations.BranchTraps := by
  unfold Obligations.BranchTraps
  exact fun s => ⟨fun h i hi => exec_transfer_at_loopEnd h hi, fun a l h => exec_loop_trap h, fun d a l h => exec_sloop_trap h,
    fun a hp ha hal => exec_jr_misaligned hp ha hal,
    fun a b => ⟨exec_gsplit_placed, fun hg hc hs ha hb hal => exec_gsplit_misaligned hg hc hs ha hb hal⟩⟩

/-! ## FENCE -/

/-- The context after a FENCE that goes on. -/
def Context.fenced (x : Context) (now : Nat) (constants : Bool) (c : BitVec 3) : Context :=
  { x with
    fencedAt := if c.toNat = 0 then x.fencedAt else now
    constAt := if constants then now else x.constAt }

theorem fenceOp_trap {s : State} {i : Instr} {k : Bool} {c : BitVec 3} (hc : 5 < c.toNat) :
    fenceOp i k c s = .next (s.takeTrap 0x01 (wordOf i) none) :=
  s.finish_require (by simp [hc]) _ _ _

theorem fenceOp_wait {s : State} {i : Instr} {k : Bool} {c : BitVec 3} (hc : c.toNat ≤ 5) (hp : s.postedBy s.ctx.id = true) :
    fenceOp i k c s = .next s.hold := by
  rw [fenceOp, s.finish_require_pass (by simp [hc]), hp, Bool.not_true, waitUnless_false, except_error_bind, State.finish_wait]

theorem fenceOp_next {s : State} {i : Instr} {k : Bool} {c : BitVec 3} (hc : c.toNat ≤ 5) (hp : s.postedBy s.ctx.id = false)
    (he : s.ctx.loopError = none) : fenceOp i k c s = .next (s.withCtx (s.ctx.fenced s.now k c)).advance := by
  rw [fenceOp, s.finish_require_pass (by simp [hc]), hp, Bool.not_false, waitUnless_true, except_ok_bind, except_pure,
    State.finish_ok _ _ he]
  by_cases h0 : c.toNat = 0
  · cases k <;> simp [Context.fenced, h0]
  · have h1 : 1 ≤ c.toNat := Nat.one_le_iff_ne_zero.mpr h0
    cases k <;> simp [Context.fenced, h0, h1]

/-- Settles O39. -/
theorem fenceResults : Obligations.FenceResults := by
  unfold Obligations.FenceResults
  intro s c
  simp only [exec_fence, execFence, exec_fenceC, execFenceC]
  exact ⟨fun hc hp ⟨_, _, _, he⟩ => ⟨fenceOp_next hc hp he, fenceOp_next hc hp he⟩,
    fun hc hp => ⟨fenceOp_wait hc hp, fenceOp_wait hc hp⟩, fun hc => ⟨fenceOp_trap hc, fenceOp_trap hc⟩⟩

end Sys2Proof.Machine
end

section
/-! LD, LD.acq, ST and ST.rel where nothing stops them (R80, R213 to R216, R246, R281). -/

namespace Sys2Proof.Machine

/-! ## What every access of the scalar class passes -/

theorem acceptsAll_da {c : Context} {d a : NameF} (hd : isSz d) (ha : isSz a) : c.acceptsAll [(clsS, d), (clsS, a)] := by
  simp [Context.acceptsAll, accepts_clsS, hd, ha]

theorem State.asked_ctx_loopError (s : State) (plain : Bool) (va : Word) (kind : AccessKind) (n : Nat) :
    (s.asked plain va kind n).ctx.loopError = s.ctx.loopError := by
  unfold State.asked
  split <;> rfl

/-- The request of an access is no part of what it leads to. -/
theorem State.asked_finish_ok {s : State} (he : s.ctx.loopError = none) (plain : Bool) (va : Word) (kind : AccessKind) (n : Nat) (t : State) :
    (s.asked plain va kind n).finish (.ok t) = .next t :=
  State.finish_ok _ _ ((s.asked_ctx_loopError plain va kind n).trans he)

theorem State.translate_backs {s : State} {plain : Bool} {va : Word} {kind : AccessKind} {n pa : Nat} {e : Page}
    (h : s.translate plain va kind n = .ok (pa, e)) : s.backed plain pa = true := by
  unfold State.translate State.translateAs at h
  cases hl : s.locate s.ctx.owner s.ctx.sup va kind n with
  | error x =>
    rw [hl] at h
    exact nomatch h
  | ok r =>
    obtain ⟨qa, q⟩ := r
    rw [hl, except_ok_bind] at h
    dsimp only at h
    cases hb : s.backed plain qa with
    | false =>
      rw [hb] at h
      exact nomatch h
    | true =>
      rw [hb] at h
      obtain ⟨rfl, -⟩ : qa = pa ∧ q = e := Prod.mk.inj (Except.ok.inj h)
      exact hb

/-- Only LD.x64 and ST.n64 reach the control space (R281). -/
theorem State.translate_not_control {s : State} {va : Word} {kind : AccessKind} {n pa : Nat} {e : Page}
    (h : s.translate false va kind n = .ok (pa, e)) : spaceOf pa ≠ .control := by
  intro hc
  have hb := State.translate_backs h
  simp [State.backed, hc] at hb

/-! ## Loads -/

/-- The bytes of a load, from its fn (R80). -/
theorem loadSize_eq (f : BitVec 3) (h : f.toNat ≤ 6) : loadSize f = if f.toNat = 6 then 8 else 2 ^ (f.toNat % 3) := by
  revert f
  decide

theorem sext64_eq_signExtend (w v : Nat) : sext64 w v = (BitVec.ofNat w v).signExtend 64 := by
  rw [sext64, BitVec.signExtend, ← toSigned_toNat, BitVec.toNat_ofNat, toSigned, toSigned, Nat.mod_mod]

theorem State.fetchData_loadable {s : State} {pa n : Nat} (h : s.loadable pa n) (va : Word) :
    s.fetchData va pa n = .ok (s.readCells pa n, s.hasRead pa n) := by
  obtain ⟨hm, hb, hk⟩ := h
  rw [State.mayAccess] at hm
  simp only [State.fetchData, State.fetchFrom, hm, hb, hk, Bool.not_false, waitUnless_true, except_ok_bind, except_pure]
  rfl

theorem State.loadData_memory {s : State} {plain : Bool} {va : Word} {n pa : Nat} {e : Page} (ht : s.translate plain va .read n = .ok (pa, e))
    (hc : spaceOf pa ≠ .control) (h : s.loadable pa n) : s.loadData plain va n = .ok (s.readCells pa n, s.hasRead pa n) := by
  rw [State.loadData, ht, except_ok_bind]
  exact (if_neg hc).trans (State.fetchData_loadable h va)

theorem State.loadData_control {s : State} {plain : Bool} {va : Word} {n pa : Nat} {e : Page} (ht : s.translate plain va .read n = .ok (pa, e))
    (hc : spaceOf pa = .control) (h : s.mayAccess pa n = true) : s.loadData plain va n = .ok (s.readControl (pa % 2 ^ 48), s) := by
  rw [State.loadData, ht, except_ok_bind]
  refine (if_pos hc).trans ?_
  rw [h]
  rfl

/-- A load whose access yields a number writes it, extended, to D. -/
theorem loadOp_next {i : Instr} {plain : Bool} {d a : NameF} {f : BitVec 3} {imm : BitVec 9} {s t : State} {v : Nat} (hd : isSz d)
    (ha : isSz a) (hi : s.ctx.intact [a] [] [d]) (hf : f.toNat ≤ 6)
    (h : s.loadData (plain && decide (f.toNat = 6)) (s.ctx.read a + BitVec.ofInt 64 (imm.toInt * loadSize f)) (loadSize f) = .ok (v, t)) :
    loadOp i plain d a f imm s = .next (t.wrote d (loadExt f v)) := by
  rw [← offsetAddr_toInt] at h
  simp only [loadOp, hf, decide_true, require_true, checkNames_ok _ _ (acceptsAll_da hd ha), sound_ok _ _ _ _ hi, h, except_ok_bind, except_pure]
  exact State.asked_finish_ok hi.2.2.2 _ _ _ _ _

theorem State.hasRead_mem (s : State) (pa n : Nat) : (s.hasRead pa n).mem = s.mem := by
  rw [State.hasRead, State.corrected_mem, State.serve_mem]

/-- Settles O33. -/
theorem loadResults : Obligations.LoadResults := by
  unfold Obligations.LoadResults
  intro s d a f i pa e hd ha hi hf
  dsimp only
  rw [← loadSize_eq f hf]
  have hext : ∀ v, (if f.toNat < 3 then BitVec.ofNat 64 v else (BitVec.ofNat (8 * loadSize f) v).signExtend 64) = loadExt f v := fun v => by
    rw [loadExt, sext64_eq_signExtend]
  simp only [hext, exec_ld, execLd, exec_ldAcq, execLdAcq]
  refine ⟨fun ht => ⟨fun hc hl => ⟨?_, s.hasRead_mem pa _⟩, fun hc hm => ?_⟩, fun ht hl => ?_⟩
  · exact loadOp_next hd ha hi hf (State.loadData_memory ht hc hl)
  · exact loadOp_next hd ha hi hf (State.loadData_control ht hc hm)
  · exact loadOp_next hd ha hi hf (State.loadData_memory ht (State.translate_not_control ht) hl)

/-! ## Stores -/

theorem State.sendStore_now {s : State} {va : Word} {pa n v : Nat} {rel : Bool} (h : s.storable pa n)
    (hr : (rel && s.postedBy s.ctx.id) = false) : s.sendStore va pa n v rel = (s.writeCells pa n v).serve pa := by
  obtain ⟨_, _, hb, hover, hreach, hold⟩ := h
  rw [State.sendStore, hr, hb, hover, hreach, hold]
  rfl

theorem State.sendStore_later {s : State} {va : Word} {pa n v : Nat} {rel : Bool}
    (h : ((rel && s.postedBy s.ctx.id) || s.blocked pa n) = true) : s.sendStore va pa n v rel = s.post va.toNat pa n v rel true := by
  rw [State.sendStore, h]
  rfl

theorem State.storeData_memory {s : State} {plain : Bool} {va : Word} {n v pa : Nat} {rel : Bool} {e : Page}
    (ht : s.translate plain va .write n = .ok (pa, e)) (hs : s.slotFree pa = true) (hp : s.postedBefore s.ctx.id = false)
    (hc : spaceOf pa ≠ .control) : s.storeData plain va n v rel = .ok (s.sendStore va pa n v rel) := by
  rw [State.storeData, ht, except_ok_bind]
  dsimp only
  rw [hs, hp, Bool.not_false, Bool.and_self, waitUnless_true, except_ok_bind, if_neg hc, except_pure]

theorem State.storeData_control {s : State} {plain : Bool} {va : Word} {n v pa : Nat} {rel : Bool} {e : Page}
    (ht : s.translate plain va .write n = .ok (pa, e)) (hs : s.slotFree pa = true) (hp : s.postedBefore s.ctx.id = false)
    (hc : spaceOf pa = .control) : s.storeData plain va n v rel = .ok (s.storeControl (pa % 2 ^ 48) (BitVec.ofNat 64 v)) := by
  rw [State.storeData, ht, except_ok_bind]
  dsimp only
  rw [hs, hp, Bool.not_false, Bool.and_self, waitUnless_true, except_ok_bind, if_pos hc, except_pure]

/-- A store that leaves its stream lets it go on. -/
theorem storeOp_next {rel : Bool} {d a : NameF} {f : BitVec 2} {imm : BitVec 9} {s t : State} (hd : isSz d) (ha : isSz a)
    (hi : s.ctx.intact [d, a] [])
    (h : s.storeData (!rel && decide (f.toNat = 3)) (s.ctx.read a + BitVec.ofInt 64 (imm.toInt * (2 ^ f.toNat : Nat))) (2 ^ f.toNat)
      ((s.ctx.read d).toNat % 2 ^ (8 * 2 ^ f.toNat)) rel = .ok t) : storeOp rel d a f imm s = .next t.advance := by
  rw [← offsetAddr_toInt] at h
  simp only [storeOp, storeSize, checkNames_ok _ _ (acceptsAll_da hd ha), sound_ok _ _ _ _ hi, h, except_ok_bind, except_pure]
  exact State.asked_finish_ok hi.2.2.2 _ _ _ _ _

/-- A store that waits lets its stream go on too. -/
theorem storeOp_later {rel : Bool} {d a : NameF} {f : BitVec 2} {imm : BitVec 9} {s : State} {pa : Nat} {e : Page} (hd : isSz d) (ha : isSz a)
    (hi : s.ctx.intact [d, a] [])
    (ht : s.translate (!rel && decide (f.toNat = 3)) (s.ctx.read a + BitVec.ofInt 64 (imm.toInt * (2 ^ f.toNat : Nat))) .write (2 ^ f.toNat) =
      .ok (pa, e)) (hs : s.slotFree pa = true) (hp : s.postedBefore s.ctx.id = false) (hc : spaceOf pa ≠ .control)
    (h : ((rel && s.postedBy s.ctx.id) || s.blocked pa (2 ^ f.toNat)) = true) :
    ∃ p, storeOp rel d a f imm s = .next ({ s with posted := s.posted ++ [p] }).advance ∧ p.pa = pa ∧ p.n = 2 ^ f.toNat ∧
      p.v = (s.ctx.read d).toNat % 2 ^ (8 * 2 ^ f.toNat) ∧ p.ctx = s.ctx.id ∧ p.rel = rel :=
  ⟨_, storeOp_next hd ha hi ((State.storeData_memory ht hs hp hc).trans (congrArg _ (State.sendStore_later h))), rfl, rfl, rfl, rfl, rfl⟩

/-! ## What a store that performs leaves -/

theorem State.advance_tvec (s : State) : s.advance.ctx.tvec = s.ctx.tvec := by
  obtain ⟨_, _, _, _, _, _, _, _, h⟩ := s.advance_ctx
  obtain ⟨_, _, _, _, _, _, _, _, _, hb⟩ := s.ctx.boundary_ctx
  rw [h, hb]

theorem State.advance_sup (s : State) : s.advance.ctx.sup = s.ctx.sup := by
  obtain ⟨_, _, _, _, _, _, _, _, h⟩ := s.advance_ctx
  obtain ⟨_, _, _, _, _, _, _, _, _, hb⟩ := s.ctx.boundary_ctx
  rw [h, hb]

/-- A number cut to 8 n bits has the bytes below n of the number. -/
theorem ofNat_byte_of_mod (x : Word) {n k : Nat} (hk : k < n) :
    BitVec.ofNat 8 (x.toNat % 2 ^ (8 * n) / 2 ^ (8 * k)) = x.extractLsb' (8 * k) 8 := by
  have hsplit : 2 ^ (8 * n) = 2 ^ (8 * k) * (2 ^ 8 * 2 ^ (8 * (n - k - 1))) := by
    rw [← Nat.pow_add, ← Nat.pow_add]
    congr 1
    omega
  apply BitVec.eq_of_toNat_eq
  rw [BitVec.toNat_ofNat, BitVec.extractLsb'_toNat, Nat.shiftRight_eq_div_pow, hsplit, Nat.mod_mul_right_div_self, Nat.mod_mul_right_mod]

/-- The state of a stream that goes on after a store of n bytes at pa. -/
def State.stored (s : State) (pa n v : Nat) : State := ((s.writeCells pa n v).serve pa).advance

theorem State.stored_mem {s : State} (h : s.ctx.trc = false) (pa n v : Nat) : (s.stored pa n v).mem = (s.writeCells pa n v).mem := by
  obtain ⟨_, _, _, _, hw⟩ := s.writeCells_woken pa n v
  rw [State.stored, State.advance_mem _ (by rw [State.serve_ctx, hw]; exact h), State.serve_mem]

theorem State.stored_ctx (s : State) (pa n v : Nat) : (s.stored pa n v).ctx.scalars = s.ctx.scalars ∧
    (s.stored pa n v).ctx.fpsr = s.ctx.fpsr ∧ (s.stored pa n v).ctx.tvec = s.ctx.tvec ∧ (s.stored pa n v).ctx.sup = s.ctx.sup := by
  obtain ⟨_, _, _, _, hw⟩ := s.writeCells_woken pa n v
  simp only [State.stored, State.advance_scalars, State.advance_fpsr, State.advance_tvec, State.advance_sup, State.serve_ctx, hw, and_self]

/-- Settles O34: the store leaves its stream as storeData says; the bytes are those of writeCells. -/
theorem storeResults : Obligations.StoreResults := by
  unfold Obligations.StoreResults
  intro s d a f i pa e hd ha hi hs hp
  simp only [exec_st, execSt, exec_stRel, execStRel]
  refine ⟨fun ht => ⟨fun hc hst => ?_, fun hc hb => ?_, fun hc => ?_⟩, fun ht => ⟨fun hst hby => ?_, fun hby => ?_⟩, fun htrc => ⟨fun k hk => ?_,
    fun x hx => ?_, s.stored_ctx pa _ _⟩⟩
  · refine storeOp_next hd ha hi ((State.storeData_memory ht hs hp hc).trans ?_)
    rw [State.sendStore_now hst rfl]
  · exact storeOp_later hd ha hi ht hs hp hc (by rw [hb, Bool.or_true])
  · exact storeOp_next hd ha hi (State.storeData_control ht hs hp hc)
  · refine storeOp_next hd ha hi ((State.storeData_memory ht hs hp (State.translate_not_control ht)).trans ?_)
    rw [State.sendStore_now hst (by rw [hby, Bool.and_false])]
  · exact storeOp_later hd ha hi ht hs hp (State.translate_not_control ht) (by rw [hby]; rfl)
  · rw [← ofNat_byte_of_mod _ hk, ← State.writeCells_byte_in _ _ _ _ _ hk]
    exact congrArg (memByte · _) (State.stored_mem htrc pa _ _)
  · rw [← State.writeCells_byte_out s pa _ _ x hx]
    exact congrArg (memByte · _) (State.stored_mem htrc pa _ _)

end Sys2Proof.Machine
end

section
/-! The shape, the configuration, tags and REF (R79, R146, R147, R155, R158, R193). -/

namespace Sys2Proof.Machine

/-! ## What the work before an instruction leaves of the stream and of its core -/

/-- What an instruction reads of its stream is what it was before the work of the banks. -/
theorem Context.primes.same {c d : Context} (h : c.primes d) :
    d.gmBanks = c.gmBanks ∧ d.core = c.core ∧ d.trc = c.trc ∧ d.scalars = c.scalars ∧ d.stripping = c.stripping ∧
      d.nNames = c.nNames ∧ d.working = c.working ∧ d.lt = c.lt ∧ ∀ n, d.read n = c.read n := by
  obtain ⟨_, _, _, _, rfl⟩ := h
  exact ⟨rfl, rfl, rfl, rfl, rfl, rfl, rfl, rfl, fun _ => rfl⟩

theorem State.begun_primes (s : State) : State.primes (bankList s.ctx.gmBanks) s s.begun := by
  unfold State.begun
  split
  · exact s.readied_primes
  · exact s.forced_primes _

theorem State.forceSlot_eager (s : State) (core j : Nat) : (s.forceSlot core j).eager = s.eager := by
  unfold State.forceSlot
  split
  · dsimp only
    split <;> rfl
  · rfl

theorem State.forced_eager (s : State) : s.forced.eager = s.eager :=
  foldl_keeps _ State.eager (fun t j => t.forceSlot_eager _ j) _ s

theorem State.begun_eager (s : State) : s.begun.eager = s.eager := by
  have hr : ∀ t : State, t.released.eager = t.eager := fun t => by
    unfold State.released
    split <;> rfl
  unfold State.begun
  split
  · exact (hr _).trans s.forced_eager
  · exact s.forced_eager

theorem State.forceSlots_primes (js ks : List Nat) (s : State) (core : Nat) :
    State.primes js s (ks.foldl (fun t j => t.forceSlot core j) s) := by
  induction ks generalizing s with
  | nil => exact .refl js s
  | cons k ks ih => exact (s.forceSlot_primes js core k).trans (ih _)

/-- The slots of REF touch no stream but for the count of its forced slots. -/
theorem State.serveRefs_primes (js ks : List Nat) (s : State) (core : Nat) : State.primes js s (s.serveRefs core ks) := by
  unfold State.serveRefs
  dsimp only
  split
  · exact .refl js s
  · have h := s.forceSlots_primes js (ks.filter fun j => decide (tabGet [] (s.core core).refReq j ≠ [])) core
    exact ⟨h.ctx, h.mem, h.works⟩

theorem State.rowReadied_primes (s : State) : State.primes (bankList s.ctx.gmBanks) s s.rowReadied :=
  s.readied_primes.trans (State.serveRefs_primes _ _ _ _)

/-! ## What the boundary leaves -/

theorem State.advance_cores (s : State) (h : s.ctx.trc = false) : s.advance.cores = s.cores := by
  obtain ⟨_, _, _, _, _, _, _, _, _, hb⟩ := s.ctx.boundary_ctx
  unfold State.advance
  dsimp only
  split
  · unfold State.stripStarted
    dsimp only
    rw [State.emitTrace_off _ _ _ _ _ (by rw [State.withCtx_ctx, hb]; exact h)]
    rfl
  · rfl

/-- Outside a strip loop the shape stands. -/
theorem Context.boundary_shape {c : Context} (h : c.stripping = false) : c.boundary.1.nrow = c.nrow ∧ c.boundary.1.ncol = c.ncol := by
  have hs : ¬c.endsStrip := by simp [Context.endsStrip_iff, h]
  by_cases hc : c.endsCount
  · obtain ⟨_, hd⟩ := c.countDown_eq
    rw [c.boundary_count hc hs, hd]
    split <;> exact ⟨rfl, rfl⟩
  · rw [c.boundary_away hc hs]
    exact ⟨rfl, rfl⟩

theorem State.advance_shape {s : State} (h : s.ctx.stripping = false) :
    s.advance.ctx.nrow = s.ctx.nrow ∧ s.advance.ctx.ncol = s.ctx.ncol := by
  obtain ⟨_, _, _, _, _, _, _, _, ha⟩ := s.advance_ctx
  rw [ha]
  exact Context.boundary_shape h

/-! ## VSHAPE (R79, R193) -/

/-- The shape is set; the record of it and the boundary come behind. -/
def State.reshaped (u : State) (r n : Nat) : State := u.withCtx { u.ctx.mend [0x04] with nrow := r, ncol := n }

theorem setShape_eq (u : State) (r n : Nat) : setShape u r n =
    ((u.reshaped r n).emitTrace 5 0 (u.ctx.pc.toNat % 2 ^ 56) (u.reshaped r n).ctx.shapeWord).advance := rfl

theorem State.reshaped_ctx (u : State) (r n : Nat) : ∃ b, (u.reshaped r n).ctx = { u.ctx with nrow := r, ncol := n, bad := b } :=
  ⟨_, by rw [State.reshaped, State.withCtx_ctx, Context.mend_eq]⟩

/-- A trace record wakes streams, and changes nothing of the shape, the loops or the scalars. -/
theorem State.emitTrace_kept (s : State) (typ cause w8 w16 : Nat) : (s.emitTrace typ cause w8 w16).ctx.scalars = s.ctx.scalars ∧
    (s.emitTrace typ cause w8 w16).ctx.stripping = s.ctx.stripping ∧ (s.emitTrace typ cause w8 w16).ctx.nrow = s.ctx.nrow ∧
    (s.emitTrace typ cause w8 w16).ctx.ncol = s.ctx.ncol := by
  obtain ⟨_, _, _, _, hw⟩ := s.emitTrace_woken typ cause w8 w16
  rw [hw]
  exact ⟨rfl, rfl, rfl, rfl⟩

theorem setShape_scalars (u : State) (r n : Nat) : (setShape u r n).ctx.scalars = u.ctx.scalars := by
  obtain ⟨_, hc⟩ := u.reshaped_ctx r n
  rw [setShape_eq, State.advance_scalars, (State.emitTrace_kept _ _ _ _ _).1, hc]

theorem setShape_shape {u : State} (h : u.ctx.stripping = false) (r n : Nat) :
    (setShape u r n).ctx.nrow = r ∧ (setShape u r n).ctx.ncol = n := by
  obtain ⟨_, hc⟩ := u.reshaped_ctx r n
  obtain ⟨-, hs, hr, hn⟩ := (u.reshaped r n).emitTrace_kept 5 0 (u.ctx.pc.toNat % 2 ^ 56) (u.reshaped r n).ctx.shapeWord
  obtain ⟨hr', hn'⟩ := State.advance_shape (hs.trans (by rw [hc]; exact h))
  rw [setShape_eq, hr', hn', hr, hn, hc]
  exact ⟨rfl, rfl⟩

theorem setShape_mem {u : State} (h : u.ctx.trc = false) (r n : Nat) : (setShape u r n).mem = u.mem := by
  obtain ⟨_, hc⟩ := u.reshaped_ctx r n
  have ht : (u.reshaped r n).ctx.trc = false := by rw [hc]; exact h
  rw [setShape_eq, State.emitTrace_off _ _ _ _ _ ht, State.advance_mem _ ht, State.reshaped]
  rfl

theorem exec_vshapeImm_next {s : State} (hm : s.mayIssue) (he : s.ctx.loopError = none) {i j : BitVec 4} (h : i.toNat + j.toNat ≤ 14) :
    exec (.vshapeImm j i) s = .next (setShape s.begun (2 ^ i.toNat) (2 ^ j.toNat)) := by
  simp only [exec_vshapeImm, execVshapeImm, h, decide_true, require_true, issued_ok s hm, except_ok_bind, except_pure]
  exact State.finish_ok _ _ he

theorem exec_vshapeImm_trap {s : State} {i j : BitVec 4} (h : 14 < i.toNat + j.toNat) :
    exec (.vshapeImm j i) s = .next (s.takeTrap 0x01 (wordOf (.vshapeImm j i)) none) := by
  rw [exec_vshapeImm, execVshapeImm, decide_eq_false (Nat.not_le.mpr h)]
  rfl

/-- Accepted names, and its dimensions as the stream holds them: VSHAPE checks the rows, the columns, then soft errors. -/
theorem exec_vshape_checks {s : State} (hm : s.mayIssue) {a b : NameF} (ha : isSz a) (hb : isSz b) :
    exec (.vshape a b) s = s.finish (do
      require (dimOk (s.ctx.read a).toNat) 0x02 (a.setWidth 64)
      require (dimOk (s.ctx.read b).toNat && decide ((s.ctx.read a).toNat * (s.ctx.read b).toNat ≤ 16384)) 0x02 (b.setWidth 64)
      s.begun.ctx.sound [a, b] []
      return setShape s.begun (s.ctx.read a).toNat (s.ctx.read b).toNat) := by
  obtain ⟨-, -, -, -, -, -, -, -, hread⟩ := s.begun_primes.ctx.same
  simp only [exec_vshape, execVshape, checkNames_ok _ _ (acceptsAll_da ha hb), issued_ok s hm, except_ok_bind, hread]

/-- The dimensions that VSHAPE takes: rows within range, and columns that leave the elements within range. -/
theorem dimOk_iff (n : Nat) : dimOk n = true ↔ 1 ≤ n ∧ n ≤ 16384 := decide_eq_true_iff

theorem vshape_columns_iff {r n : Nat} (hr : 1 ≤ r) : (dimOk n && decide (r * n ≤ 16384)) = true ↔ 1 ≤ n ∧ r * n ≤ 16384 := by
  rw [Bool.and_eq_true, dimOk_iff, decide_eq_true_iff]
  refine ⟨fun h => ⟨h.1.1, h.2⟩, fun h => ⟨⟨h.1, ?_⟩, h.2⟩⟩
  exact (Nat.le_mul_of_pos_left n hr).trans h.2

/-! ## VCFG and TAG (R146, R147) -/

theorem exec_vcfg_next {s : State} {x : BitVec 2} (hm : s.mayIssue) (hg : s.ctx.gmSub = false) (hw : s.ctx.working = false)
    (hi : s.ctx.intact [] [0x03, 0x0E])
    (hc : ∀ j ∈ bankList s.ctx.gmBanks, ∀ n < s.ctx.nNames, ((s.rowReadied.ctx.bank j).row n).st = .closed) :
    exec (.vcfg x) s = .next (s.rowReadied.withCtx { s.rowReadied.ctx.mend [0x03] with vcode := x }).advance := by
  obtain ⟨hgang, -, -, -, -, hnames, hwork, -, -⟩ := s.rowReadied_primes.ctx.same
  have hclosed : ∀ j ∈ bankList s.ctx.gmBanks, ((List.range s.ctx.nNames).flatMap fun n =>
      failIf (decide (((s.rowReadied.ctx.bank j).row n).st ≠ .closed)) 0x02 (nameWord n)) = [] := fun j hj => by
    rw [List.flatMap_eq_nil_iff]
    intro n hn
    simp [failIf, hc j hj n (List.mem_range.mp hn)]
  simp only [exec_vcfg, execVcfg, hg, Bool.not_false, require_true, rowReady_ok s hm, except_ok_bind, except_pure, hgang, hnames, hwork, hw,
    checkBanks_pass _ _ _ _ _ _ hclosed (sound_ok _ _ _ _ (s.rowReadied_primes.ctx.intact hi)), waitUnless_true]
  exact State.finish_ok _ _ hi.2.2.2

/-- One name tagged in every bank of a list. -/
def Context.tagged (c : Context) (js : List Nat) (n : Nat) (t : BitVec 4) : Context :=
  js.foldl (fun c j => c.setBank j ((c.bank j).setTag n t)) c

theorem Context.bank_tagged {js : List Nat} (hn : js.Nodup) (c : Context) (n : Nat) (t : BitVec 4) (i : Nat) :
    (c.tagged js n t).bank i = if i ∈ js then (c.bank i).setTag n t else c.bank i := by
  induction js generalizing c with
  | nil => rfl
  | cons j js ih =>
    obtain ⟨hj, hn⟩ := List.nodup_cons.mp hn
    rw [Context.tagged, List.foldl_cons, ← Context.tagged, ih hn, Context.bank_setBank]
    by_cases h : i = j
    · subst h
      simp [hj]
    · simp [h]

theorem Context.tagged_scalars (c : Context) (js : List Nat) (n : Nat) (t : BitVec 4) : (c.tagged js n t).scalars = c.scalars :=
  foldl_keeps (fun (c : Context) j => c.setBank j ((c.bank j).setTag n t)) Context.scalars (fun _ _ => rfl) js c

theorem Bank.tagOf_setTag (b : Bank) (now : Nat) {n : Nat} (t : BitVec 4) (h : n < 8 ∨ b.bound (n - 8) ≠ none) :
    (b.setTag n t).tagOf now n = t := by
  by_cases hn : n < 8
  · rw [Bank.tagOf_row _ _ hn, Bank.setTag, if_pos hn, Bank.row_setRow, if_pos rfl]
  · obtain ⟨r, hr⟩ := Option.ne_none_iff_exists'.mp (h.resolve_left hn)
    rw [Bank.setTag, if_neg hn, hr]
    show (b.setPool r { b.poolRow r with tag := t }).tagOf now n = t
    have hb : (b.setPool r { b.poolRow r with tag := t }).bound (n - 8) = some r := hr
    rw [Bank.tagOf, if_neg hn, hb]
    simp [Bank.poolRow, Bank.setPool]

theorem exec_tag_next {s : State} {d : NameF} {t : BitVec 4} (hm : s.mayIssue) (hd : s.ctx.acceptsAll [(clsV, d)])
    (hu : s.readied.ctx.unlocked [] [d.toNat] = true) (hi : s.ctx.intact [] [0x00, 0x03, 0x0E])
    (hb : ∀ j ∈ bankList s.ctx.gmBanks, if d.toNat < 8 then ((s.readied.ctx.bank j).row d.toNat).st = .opened
      else s.ctx.lt = false ∨ (s.readied.ctx.bank j).bound (d.toNat - 8) ≠ none) :
    exec (.tag d t) s = .next (s.readied.withCtx (s.readied.ctx.tagged (bankList s.ctx.gmBanks) d.toNat t)).advance := by
  obtain ⟨hgang, -, -, -, -, -, -, hlt, -⟩ := s.readied_primes.ctx.same
  have hpass : ∀ j ∈ bankList s.ctx.gmBanks, (if d.toNat < 8 then (s.readied.ctx.bank j).rowState d.toNat
      else (s.readied.ctx.bank j).keepRead s.ctx.lt d.toNat) = [] := fun j hj => by
    have h := hb j hj
    split at h
    · next hn => rw [if_pos hn, Bank.rowState, h]
    · next hn =>
      rw [if_neg hn]
      rcases h with h | h
      · simp [Bank.keepRead, failIf, h]
      · simp [Bank.keepRead, failIf, h]
  simp only [exec_tag, execTag, checkNames_ok _ _ hd, ready_ok s hm, except_ok_bind, except_pure, hgang, hlt, hu,
    checkBanks_pass _ _ _ _ _ _ hpass (sound_ok _ _ _ _ (s.readied_primes.ctx.intact hi)), waitUnless_true]
  exact State.finish_ok _ _ hi.2.2.2

/-! ## REF (R155, R158) -/

/-- REF asks for n slots of bank j. -/
def CoreRec.asks (n : Nat) (r : CoreRec) (j : Nat) : CoreRec :=
  { r with refReq := tabSet [] r.refReq j (tabGet [] r.refReq j ++ [(n, false)]) }

theorem CoreRec.asks_debt (n : Nat) (js : List Nat) (r : CoreRec) : (js.foldl (CoreRec.asks n) r).debt = r.debt :=
  foldl_keeps (CoreRec.asks n) CoreRec.debt (fun _ _ => rfl) js r

theorem CoreRec.asks_refReq (n : Nat) {js : List Nat} (hn : js.Nodup) (r : CoreRec) (i : Nat) :
    tabGet [] (js.foldl (CoreRec.asks n) r).refReq i =
      if i ∈ js then tabGet [] r.refReq i ++ [(n, false)] else tabGet [] r.refReq i := by
  induction js generalizing r with
  | nil => rfl
  | cons j js ih =>
    obtain ⟨hj, hn⟩ := List.nodup_cons.mp hn
    rw [List.foldl_cons, ih hn, CoreRec.asks, tabGet_tabSet]
    by_cases h : i = j
    · subst h
      simp [hj]
    · simp [h]

/-- n slots take n off the debt of their bank, but none below 0. -/
theorem CoreRec.refreshes_debt (r : CoreRec) (j n i : Nat) :
    tabGet 0 (r.refreshes j n).debt i = if i = j then tabGet 0 r.debt j - n else tabGet 0 r.debt i := by
  induction n generalizing r with
  | zero =>
    rw [CoreRec.refreshes]
    split
    · next h => rw [h, Nat.sub_zero]
    · rfl
  | succ n ih =>
    rw [CoreRec.refreshes, ih, CoreRec.refresh_debt, if_pos rfl, r.refresh_debt]
    split
    · omega
    · rfl

/-- The REFs of a bank take what they ask for off its debt, one after the other. -/
theorem CoreRec.performRefs_debt (q : List (Nat × Bool)) (r : CoreRec) (j i : Nat) : tabGet 0 (r.performRefs j q).debt i =
    if i = j then q.foldl (fun d e => d - e.1) (tabGet 0 r.debt j) else tabGet 0 r.debt i := by
  induction q generalizing r with
  | nil =>
    rw [CoreRec.performRefs]
    split
    · next h => rw [h, List.foldl_nil]
    · rfl
  | cons e q ih =>
    have hmin : tabGet 0 r.debt j - min e.1 (tabGet 0 r.debt j) = tabGet 0 r.debt j - e.1 := by omega
    rw [CoreRec.performRefs, ih, CoreRec.refreshes_debt, if_pos rfl, r.refreshes_debt, List.foldl_cons, hmin]
    split <;> rfl

theorem CoreRec.serveRef_refReq (r : CoreRec) (j i : Nat) :
    tabGet [] (r.serveRef j).refReq i = if i = j then [] else tabGet [] r.refReq i := by
  simp [CoreRec.serveRef]

theorem CoreRec.serveRef_debt (r : CoreRec) (j i : Nat) : tabGet 0 (r.serveRef j).debt i =
    if i = j then (tabGet [] r.refReq j).foldl (fun d e => d - e.1) (tabGet 0 r.debt j) else tabGet 0 r.debt i :=
  CoreRec.performRefs_debt _ _ _ _

theorem CoreRec.serveRefs_tables {js : List Nat} (hn : js.Nodup) (r : CoreRec) (i : Nat) :
    tabGet [] (js.foldl CoreRec.serveRef r).refReq i = (if i ∈ js then [] else tabGet [] r.refReq i) ∧
    tabGet 0 (js.foldl CoreRec.serveRef r).debt i =
      if i ∈ js then (tabGet [] r.refReq i).foldl (fun d e => d - e.1) (tabGet 0 r.debt i) else tabGet 0 r.debt i := by
  induction js generalizing r with
  | nil => exact ⟨rfl, rfl⟩
  | cons j js ih =>
    obtain ⟨hj, hn⟩ := List.nodup_cons.mp hn
    rw [List.foldl_cons, (ih hn _).1, (ih hn _).2, CoreRec.serveRef_refReq, CoreRec.serveRef_debt]
    by_cases h : i = j
    · subst h
      simp [hj]
    · simp [h]

theorem State.forceSlots_refReq (s : State) (k : Nat) (js : List Nat) :
    ((js.foldl (fun t j => t.forceSlot k j) s).core k).refReq = (s.core k).refReq :=
  foldl_keeps _ (fun t : State => (t.core k).refReq) (fun t j => t.forceSlot_refReq k j) js s

/-- The banks that ask for slots have them, behind the forced slot of a bank at debt 8; the others stand. -/
theorem State.serveRefs_core {s : State} {k : Nat} {js : List Nat} (hn : js.Nodup) (hask : ∀ j ∈ js, tabGet [] (s.core k).refReq j ≠ [])
    (i : Nat) : tabGet [] ((s.serveRefs k js).core k).refReq i = (if i ∈ js then [] else tabGet [] (s.core k).refReq i) ∧
      tabGet 0 ((s.serveRefs k js).core k).debt i =
        if i ∈ js then (tabGet [] (s.core k).refReq i).foldl (fun d e => d - e.1) (debtForced (tabGet 0 (s.core k).debt i))
        else tabGet 0 (s.core k).debt i := by
  have hall : (js.filter fun j => decide (tabGet [] (s.core k).refReq j ≠ [])) = js :=
    List.filter_eq_self.mpr fun j hj => decide_eq_true (hask j hj)
  unfold State.serveRefs
  rw [hall]
  dsimp only
  split
  · next h =>
    subst h
    exact ⟨rfl, rfl⟩
  · rw [State.core_setCore, if_pos rfl]
    obtain ⟨hq, hd⟩ := CoreRec.serveRefs_tables hn ((js.foldl (fun t j => t.forceSlot k j) s).core k) i
    rw [hq, hd, s.forceSlots_refReq, s.forceSlots_debt k js hn]
    refine ⟨rfl, ?_⟩
    split <;> rfl

/-- The slots that REF n asks for, none of them started. -/
def State.asksSlots (u : State) (n : Nat) : State :=
  u.setCore u.ctx.core ((bankList u.ctx.gmBanks).foldl (CoreRec.asks n) (u.core u.ctx.core))

theorem refOp_eq (u : State) {n : Nat} (hn : 0 < n) : refOp u n =
    (if u.eager then (u.asksSlots n).serveRefs u.ctx.core (bankList u.ctx.gmBanks) else u.asksSlots n).advance := by
  rw [refOp, if_neg (Nat.pos_iff_ne_zero.mp hn)]
  rfl

/-- What REF n leaves of the stream and of memory. -/
theorem refOp_kept {u : State} {n : Nat} (hn : 0 < n) (ht : u.ctx.trc = false) :
    (refOp u n).mem = u.mem ∧ (refOp u n).ctx.scalars = u.ctx.scalars ∧
      (refOp u n).cores = (if u.eager then (u.asksSlots n).serveRefs u.ctx.core (bankList u.ctx.gmBanks) else u.asksSlots n).cores := by
  have h : State.primes (bankList u.ctx.gmBanks) (u.asksSlots n)
      (if u.eager then (u.asksSlots n).serveRefs u.ctx.core (bankList u.ctx.gmBanks) else u.asksSlots n) := by
    split
    · exact State.serveRefs_primes _ _ _ _
    · exact .refl _ _
  obtain ⟨-, -, htrc, hsc, -⟩ := h.ctx.same
  rw [refOp_eq u hn]
  refine ⟨(State.advance_mem _ (htrc.trans ht)).trans h.mem, (State.advance_scalars _).trans hsc, State.advance_cores _ (htrc.trans ht)⟩

theorem State.asksSlots_core (u : State) (n i : Nat) :
    tabGet [] ((u.asksSlots n).core u.ctx.core).refReq i = (if i ∈ bankList u.ctx.gmBanks then
      tabGet [] (u.core u.ctx.core).refReq i ++ [(n, false)] else tabGet [] (u.core u.ctx.core).refReq i) ∧
    ((u.asksSlots n).core u.ctx.core).debt = (u.core u.ctx.core).debt := by
  rw [State.asksSlots, State.core_setCore, if_pos rfl]
  exact ⟨CoreRec.asks_refReq n (bankList_nodup _) _ i, CoreRec.asks_debt n _ _⟩

theorem State.core_of_cores {s t : State} (h : s.cores = t.cores) (k : Nat) : s.core k = t.core k := by
  rw [State.core, h, ← State.core]

/-- Where the lanes do not run at once, the slots are asked for behind those before them. -/
theorem refOp_asked {u : State} {n : Nat} (hn : 0 < n) (ht : u.ctx.trc = false) (he : u.eager = false) (j : Nat) :
    tabGet [] ((refOp u n).core u.ctx.core).refReq j = if j ∈ bankList u.ctx.gmBanks then
      tabGet [] (u.core u.ctx.core).refReq j ++ [(n, false)] else tabGet [] (u.core u.ctx.core).refReq j := by
  obtain ⟨-, -, hc⟩ := refOp_kept (u := u) hn ht
  rw [he] at hc
  rw [State.core_of_cores hc]
  exact (u.asksSlots_core n j).1

/-- Where they do, the slots start (LOG 12). -/
theorem refOp_started {u : State} {n : Nat} (hn : 0 < n) (ht : u.ctx.trc = false) (he : u.eager = true) (j : Nat) :
    tabGet [] ((refOp u n).core u.ctx.core).refReq j =
      (if j ∈ bankList u.ctx.gmBanks then [] else tabGet [] (u.core u.ctx.core).refReq j) ∧
    tabGet 0 ((refOp u n).core u.ctx.core).debt j = if j ∈ bankList u.ctx.gmBanks then
      (tabGet [] (u.core u.ctx.core).refReq j ++ [(n, false)]).foldl (fun d e => d - e.1) (debtForced (tabGet 0 (u.core u.ctx.core).debt j))
      else tabGet 0 (u.core u.ctx.core).debt j := by
  obtain ⟨-, -, hc⟩ := refOp_kept (u := u) hn ht
  rw [he] at hc
  rw [State.core_of_cores hc]
  have hask : ∀ i ∈ bankList u.ctx.gmBanks, tabGet [] ((u.asksSlots n).core u.ctx.core).refReq i ≠ [] := fun i hi => by
    rw [(u.asksSlots_core n i).1, if_pos hi]
    exact List.append_ne_nil_of_right_ne_nil _ (List.cons_ne_nil _ _)
  obtain ⟨hq, hd⟩ := State.serveRefs_core (bankList_nodup u.ctx.gmBanks) hask j
  rw [if_pos rfl, hq, hd, (u.asksSlots_core n j).1, (u.asksSlots_core n j).2]
  by_cases hj : j ∈ bankList u.ctx.gmBanks
  · simp only [if_pos hj, and_self]
  · simp only [if_neg hj, and_self]

theorem exec_refImm_next {s : State} {n : BitVec 4} (hm : s.mayIssue) (h1 : 1 ≤ n.toNat) (h8 : n.toNat ≤ 8) (hi : s.ctx.intact [] [0x0E]) :
    exec (.refImm n) s = .next (refOp s.begun n.toNat) := by
  simp only [exec_refImm, execRefImm, h1, h8, and_self, decide_true, require_true, issued_ok s hm,
    sound_ok _ _ _ _ (s.begun_primes.ctx.intact hi), except_ok_bind, except_pure]
  exact State.finish_ok _ _ hi.2.2.2

theorem exec_refScalar_next {s : State} {a : NameF} (hm : s.mayIssue) (ha : isSName a) (hi : s.ctx.intact [a] [0x0E]) :
    exec (.refScalar a) s = .next (refOp s.begun (min (s.ctx.read a).toNat 8)) := by
  obtain ⟨-, -, -, -, -, -, -, -, hread⟩ := s.begun_primes.ctx.same
  have ha' : s.ctx.acceptsAll [(clsS1, a)] := by simp [Context.acceptsAll, accepts_clsS1, ha]
  simp only [exec_refScalar, execRefScalar, checkNames_ok _ _ ha', issued_ok s hm, sound_ok _ _ _ _ (s.begun_primes.ctx.intact hi),
    except_ok_bind, except_pure, hread]
  exact State.finish_ok _ _ hi.2.2.2

/-- Settles O52: each code acts on the state that the work before it leaves, whose stream differs in its banks alone. -/
theorem shapeAndRefresh : Obligations.ShapeAndRefresh := by
  unfold Obligations.ShapeAndRefresh
  intro s a b hm u v js
  obtain ⟨hgang, hcore, htrc, hsc, hstrip, -⟩ := s.begun_primes.ctx.same
  refine ⟨fun i j hij hi => ⟨_, exec_vshapeImm_next hm hi.2.2.2 hij, (setShape_scalars _ _ _).trans hsc,
      fun h => setShape_shape (hstrip.trans h) _ _, fun h => (setShape_mem (htrc.trans h) _ _).trans s.begun_primes.mem⟩,
    fun i j hij => exec_vshapeImm_trap hij, fun ha hb hi => ?_, fun x => exec_vcfg_next hm, fun d tag hd hu hi hb => ?_,
    ⟨fun n h1 h8 hi => exec_refImm_next hm h1 h8 hi, fun ha hi => exec_refScalar_next hm ha hi, fun n hn he ht => ?_⟩, fun n hn he ht => ?_⟩
  · rw [exec_vshape_checks hm ha hb]
    refine ⟨fun hr1 hr2 hn hrn => ?_, fun hr => ?_, fun hr1 hr2 hn => ?_⟩
    · refine ⟨setShape u _ _, ?_, (setShape_scalars _ _ _).trans hsc, fun h => setShape_shape (hstrip.trans h) _ _⟩
      simp only [(dimOk_iff _).mpr ⟨hr1, hr2⟩, (vshape_columns_iff hr1).mpr ⟨hn, hrn⟩, sound_ok _ _ _ _ (s.begun_primes.ctx.intact hi),
        require_true, except_ok_bind, except_pure]
      exact State.finish_ok _ _ hi.2.2.2
    · exact s.finish_require (Bool.eq_false_iff.mpr fun h => by have := (dimOk_iff _).mp h; omega) _ _ _
    · rw [(dimOk_iff _).mpr ⟨hr1, hr2⟩, require_true, except_ok_bind]
      refine s.finish_require (Bool.eq_false_iff.mpr fun h => ?_) _ _ _
      have := (vshape_columns_iff hr1).mp h
      omega
  · obtain ⟨-, -, -, hvs, -⟩ := s.readied_primes.ctx.same
    refine ⟨_, exec_tag_next hm hd hu hi hb, ?_, fun j hj => ?_⟩
    · rw [State.advance_scalars, State.withCtx_ctx, Context.tagged_scalars, hvs]
    · rw [State.advance_bank, State.withCtx_ctx, Context.bank_tagged (bankList_nodup _), if_pos hj]
      exact ⟨rfl, fun now h => Bank.tagOf_setTag _ now tag h⟩
  · obtain ⟨hmem, hs, -⟩ := refOp_kept (u := u) hn (htrc.trans ht)
    have h := refOp_asked (u := u) hn (htrc.trans ht) (s.begun_eager.trans he)
    rw [hgang, hcore] at h
    exact ⟨fun j hj => (h j).trans (if_pos hj), fun j hj => (h j).trans (if_neg hj), hmem.trans s.begun_primes.mem, hs.trans hsc⟩
  · obtain ⟨hmem, hs, -⟩ := refOp_kept (u := u) hn (htrc.trans ht)
    have h := refOp_started (u := u) hn (htrc.trans ht) (s.begun_eager.trans he)
    rw [hgang, hcore] at h
    refine ⟨fun j hj hq => ⟨(h j).1.trans (if_pos hj), (h j).2.trans ?_⟩, fun j hj => ⟨(h j).1.trans (if_neg hj), (h j).2.trans (if_neg hj)⟩,
      hmem.trans s.begun_primes.mem, hs.trans hsc⟩
    rw [if_pos hj, show tabGet [] (u.core s.ctx.core).refReq j = [] from hq]
    rfl

end Sys2Proof.Machine
end

section
/-! Where the codes of the scalar class trap on a name and on a soft error (R71, R73, R97, R369). -/

namespace Sys2Proof.Machine

/-! ## The two checks -/

/-- Behind accepted names the first name refused traps with 0x02. -/
theorem checkNames_refused {c : Context} {before after : List (List NameClass × NameF)} {cls : List NameClass} {n : NameF}
    (hb : c.acceptsAll before) (hn : c.accepts cls n = false) :
    c.checkNames (before ++ (cls, n) :: after) = .error (.trap 0x02 (n.setWidth 64) none) := by
  induction before with
  | nil => exact checkNames_trap c cls n after hn
  | cons p before ih =>
    rw [List.cons_append, checkNames_cons c p.1 p.2 _ (hb p (List.mem_cons_self ..))]
    exact ih fun q hq => hb q (List.mem_cons_of_mem _ hq)

/-- WIN is read for a scalar's name, whichever list it is in. -/
theorem Context.sound_dst (c : Context) (names : List NameF) (ctl : List Nat) {dst dst' : List NameF}
    (h : ∀ n, n ∈ names ++ dst ↔ n ∈ names ++ dst') : c.sound names ctl dst = c.sound names ctl dst' := by
  have hany : ((names ++ dst).any fun n => decide (nameClass n = .s)) = (names ++ dst').any fun n => decide (nameClass n = .s) := by
    rw [Bool.eq_iff_iff, List.any_eq_true, List.any_eq_true]
    exact exists_congr fun n => and_congr_left' (h n)
  rw [Context.sound, hany, ← Context.sound]

theorem Context.bad_ne_nil {c : Context} {x : Nat} (h : tabGet false c.bad x = true) : c.bad ≠ [] := fun e => by
  rw [e] at h
  exact nomatch h

/-- A scalar in error: of those a code reads, its name is the first that has one. -/
theorem find_unsound {c : Context} {before after : List NameF} {n : NameF}
    (hb : ∀ m ∈ before, isSName m → tabGet false c.bad (c.physical m) = false) (hn : isSName n)
    (he : tabGet false c.bad (c.physical n) = true) :
    ((before ++ n :: after).find? fun m => decide (nameClass m = .s) && tabGet false c.bad (c.physical m)) = some n := by
  rw [List.find?_append, List.find?_cons_of_pos (by simp [(nameClass_s n).mpr hn, he])]
  have hnone : (before.find? fun m => decide (nameClass m = .s) && tabGet false c.bad (c.physical m)) = none := by
    refine List.find?_eq_none.mpr fun m hm hbad => ?_
    obtain ⟨hs, hx⟩ := (Bool.and_eq_true _ _).mp hbad
    rw [hb m hm ((nameClass_s m).mp (of_decide_eq_true hs))] at hx
    exact nomatch hx
  rw [hnone]
  rfl

theorem find_sound {c : Context} {names : List NameF} (h : ∀ m ∈ names, isSName m → tabGet false c.bad (c.physical m) = false) :
    (names.find? fun m => decide (nameClass m = .s) && tabGet false c.bad (c.physical m)) = none := by
  refine List.find?_eq_none.mpr fun m hm hbad => ?_
  obtain ⟨hs, hx⟩ := (Bool.and_eq_true _ _).mp hbad
  rw [h m hm ((nameClass_s m).mp (of_decide_eq_true hs))] at hx
  exact nomatch hx

/-- WIN comes first (LOG 28), for every code that names a scalar (LOG 75). -/
theorem sound_win {c : Context} {names dst : List NameF} (ctl : List Nat) (hn : ∃ n ∈ names ++ dst, isSName n)
    (hw : tabGet false c.bad 258 = true) : c.sound names ctl dst = .error (.trap 0x0D 0xA000000000000002 none) := by
  obtain ⟨n, hn, hs⟩ := hn
  have hany : (names ++ dst).any (fun n => decide (nameClass n = .s)) = true :=
    List.any_eq_true.mpr ⟨n, hn, decide_eq_true ((nameClass_s n).mpr hs)⟩
  rw [Context.sound, if_neg (Context.bad_ne_nil hw), hany, if_pos (by simpa using hw)]
  rfl

/-- Then the scalars in their order. -/
theorem sound_scalar {c : Context} {before after dst : List NameF} {n : NameF} (ctl : List Nat) (hw : tabGet false c.bad 258 = false)
    (hb : ∀ m ∈ before, isSName m → tabGet false c.bad (c.physical m) = false) (hn : isSName n)
    (he : tabGet false c.bad (c.physical n) = true) : c.sound (before ++ n :: after) ctl dst =
      .error (.trap 0x0D (0x8000000000000000 + BitVec.ofNat 64 (c.physical n)) none) := by
  rw [Context.sound, if_neg (Context.bad_ne_nil he), if_neg (by simp [hw]), find_unsound hb hn he]
  rfl

/-- Then the control registers. -/
theorem sound_ctl {c : Context} {names dst : List NameF} {ctl : List Nat} {i : Nat} (hw : tabGet false c.bad 258 = false)
    (hn : ∀ m ∈ names, isSName m → tabGet false c.bad (c.physical m) = false) (hb : tabGet false c.bad (256 + i) = true)
    (hf : (ctl.find? fun i => tabGet false c.bad (256 + i)) = some i) :
    c.sound names ctl dst = .error (.trap 0x0D (0xA000000000000000 + BitVec.ofNat 64 i) none) := by
  rw [Context.sound, if_neg (Context.bad_ne_nil hb), if_neg (by simp [hw]), find_sound hn, hf]
  rfl

/-! ## What a code of the scalar class checks -/

/-- The control registers it reads as operands. -/
def checkedCtl : Instr → List Nat
  | .mfc _ x => [x.toNat]
  | .claim _ _ _ => [0x04]
  | i => if setsFlags i then fpCtl else []

/-- A code checks its names and, once its access has gone through, the registers it uses for soft errors. -/
def State.checks (s : State) (i : Instr) : Prop :=
  (∀ k v, s.ctx.checkNames (scalarNames i) = .error (.trap k v none) → s.traps i k v) ∧
  (s.ctx.acceptsAll (scalarNames i) → s.ctx.cleared i → s.accessed i → ∀ k v,
    s.ctx.sound (scalarReads i) (checkedCtl i) ((scalarNames i).map Prod.snd) = .error (.trap k v none) → s.traps i k v)

theorem State.traps_of_finish {s : State} {i : Instr} {k : Nat} {v : Word} (hi : isInvalidation i = false)
    (h : exec i s = s.finish (.error (.trap k v none))) : s.traps i k v := by
  refine ⟨s.ctx.asking, fun _ => rfl, ?_⟩
  rw [hi, Bool.or_false]
  exact h

/-- A code of scalars and control registers alone: its names are the first thing it checks, its registers the next. -/
theorem State.checks_of_finish {s : State} {i : Instr} (hi : isInvalidation i = false) {f : Unit → Except Stop State} {dst : List NameF}
    (hx : exec i s = s.finish (s.ctx.checkNames (scalarNames i) >>= f))
    (hd : ∀ n, n ∈ scalarReads i ++ (scalarNames i).map Prod.snd ↔ n ∈ scalarReads i ++ dst)
    (hf : s.ctx.cleared i → ∃ g : Unit → Except Stop State, f () = s.ctx.sound (scalarReads i) (checkedCtl i) dst >>= g) : s.checks i := by
  refine ⟨fun k v h => State.traps_of_finish hi ?_, fun hn hc _ k v h => State.traps_of_finish hi ?_⟩
  · rw [hx, h]
    rfl
  · obtain ⟨g, hg⟩ := hf hc
    rw [hx, checkNames_ok _ _ hn, except_ok_bind, hg, ← Context.sound_dst _ _ _ hd, h]
    rfl

/-- A code with an access: its names come before it, its registers behind it. -/
theorem State.checks_of_access {s : State} {i : Instr} {plain : Bool} {va : Word} {kind : AccessKind} {n : Nat}
    {names : List (List NameClass × NameF)} {reads dst : List NameF} {ctl : List Nat} (hq : s.ctx.accessOf i = some ⟨plain, va, kind, n⟩)
    (hn : scalarNames i = names) (hr : scalarReads i = reads) (hk : checkedCtl i = ctl)
    (hd : ∀ m, m ∈ reads ++ names.map Prod.snd ↔ m ∈ reads ++ dst) (hnames : ∀ e, s.ctx.checkNames names = .error e → s.stopsAt i e)
    (hreads : s.ctx.acceptsAll names → ∀ pa pg, s.translate plain va kind n = .ok (pa, pg) → spaceOf pa = .device →
      s.accessGoes i pa pg n → s.markCause (s.locOf pa) n = none → ∀ e, s.ctx.sound reads ctl dst = .error e → s.stopsAt i e) :
    s.checks i := by
  subst hn hr hk
  refine ⟨fun k v h => s.traps_of_stopsAt i _ k v none hq (hnames _ h), fun hn _ ha k v h => ?_⟩
  obtain ⟨pa, pg, ht, hdev, hg, hm⟩ := ha _ hq
  exact s.traps_of_stopsAt i _ k v none hq (hreads hn pa pg ht hdev hg hm _ ((Context.sound_dst _ _ _ hd).symm.trans h))

theorem sound_nothing (c : Context) : c.sound [] [] = .ok () := by
  rw [Context.sound]
  split <;> rfl

/-- A code outside the class has nothing of this to check. -/
theorem State.checks_of_none {s : State} {i : Instr} (hn : scalarNames i = []) (hr : scalarReads i = []) (hc : checkedCtl i = []) :
    s.checks i := by
  refine ⟨fun k v h => ?_, fun _ _ _ k v h => ?_⟩
  · rw [hn] at h
    exact nomatch h
  · rw [hn, hr, hc, List.map_nil, sound_nothing] at h
    exact nomatch h

/-! ## The codes of R99 to R107 -/

/-- A code of scalars alone. -/
def State.isScalarOp (s : State) (i : Instr) : Prop :=
  ∃ f, exec i s = scalarOp s (scalarNames i) (scalarReads i) (checkedCtl i) f

theorem floatBinary_isScalarOp {i : Instr} {op : ScalarFp} {f : Fmt} {d a b : NameF} {s : State} (hx : exec i s = floatBinary op f d a b s)
    (hn : scalarNames i = [(clsS, d), (clsS, a), (clsS, b)]) (hr : scalarReads i = if op = .fma then [d, a, b] else [a, b])
    (hc : checkedCtl i = fpCtl) : s.isScalarOp i := by
  rw [floatBinary, floatOp] at hx
  rw [State.isScalarOp, hx, hn, hr, hc]
  exact ⟨_, rfl⟩

theorem floatOp_isScalarOp {i : Instr} {d a : NameF} {s : State} {f : Context → Word × FpFlags} (hx : exec i s = floatOp d a s [] [a] f)
    (hn : scalarNames i = [(clsS, d), (clsS, a)]) (hr : scalarReads i = [a]) (hc : checkedCtl i = fpCtl) : s.isScalarOp i := by
  rw [floatOp] at hx
  rw [State.isScalarOp, hx, hn, hr, hc]
  exact ⟨_, rfl⟩


theorem floatCodes_isScalarOp {i : Instr} (h : setsFlags i = true) (s : State) : s.isScalarOp i := by
  cases i <;> simp only [setsFlags, Bool.false_eq_true] at h
  case fsqrt d a x => exact floatOp_isScalarOp (exec_fsqrt d a x s) rfl rfl rfl
  case frsqe d a x => exact floatOp_isScalarOp (exec_frsqe d a x s) rfl rfl rfl
  case frcpe d a x => exact floatOp_isScalarOp (exec_frcpe d a x s) rfl rfl rfl
  case fcvt d a x => exact floatOp_isScalarOp (exec_fcvt d a x s) rfl rfl rfl
  all_goals exact floatBinary_isScalarOp rfl rfl rfl rfl

theorem scalarDest_isScalarOp {i : Instr} {d : NameF} (h : scalarDest i = some d) (s : State) : s.isScalarOp i := by
  by_cases hf : setsFlags i = true
  · exact floatCodes_isScalarOp hf s
  · cases i <;> simp only [scalarDest, setsFlags, reduceCtorEq, not_true_eq_false] at h hf
    all_goals exact ⟨_, rfl⟩
theorem scalarDest_not_invalidation {i : Instr} {d : NameF} (h : scalarDest i = some d) : isInvalidation i = false := by
  unfold isInvalidation
  split
  case h_1 => exact nomatch h
  case h_2 => exact nomatch h
  case h_3 => exact nomatch h
  case h_4 => rfl

theorem scalarDest_classes {i : Instr} {d : NameF} (h : scalarDest i = some d) : ∀ p ∈ scalarNames i, p.1 = clsS := by
  cases i <;> simp only [scalarDest, reduceCtorEq] at h
  all_goals simp [scalarNames]

theorem scalarDest_checks {i : Instr} {d : NameF} (h : scalarDest i = some d) (s : State) : s.checks i := by
  obtain ⟨f, hf⟩ := scalarDest_isScalarOp h s
  exact State.checks_of_finish (scalarDest_not_invalidation h) hf (fun _ => Iff.rfl) fun _ => ⟨_, rfl⟩

/-! ## Transfers (R108 to R119) -/

/-- The registers that a code reads stand among its names. -/
theorem mem_reads_iff (names : List NameF) (n : NameF) : n ∈ names ++ names ↔ n ∈ names ++ [] := by
  rw [List.append_nil, List.mem_append, or_self]

theorem condBranch_checks {s : State} {i : Instr} {cond : Cond} {a : NameF} {o : BitVec 16} (hp : s.ctx.atLoopEnd = false)
    (hx : exec i s = condBranch i cond a o s) (hi : isInvalidation i = false) (hn : scalarNames i = [(clsS, a)]) (hr : scalarReads i = [a])
    (hc : checkedCtl i = []) : s.checks i := by
  rw [condBranch, s.finish_require_pass (by rw [hp]; rfl), ← hn, ← hr, ← hc] at hx
  exact State.checks_of_finish (dst := []) hi hx (by rw [hn, hr]; exact mem_reads_iff [a]) fun _ => ⟨_, rfl⟩

theorem call_checks {s : State} {d : NameF} {o : BitVec 19} (hp : s.ctx.atLoopEnd = false) : s.checks (.call d o) :=
  State.checks_of_finish rfl (s.finish_require_pass (by rw [hp]; rfl) _ _ _) (fun _ => Iff.rfl) fun _ => ⟨_, rfl⟩

theorem jr_checks {s : State} {a : NameF} (hp : s.ctx.atLoopEnd = false) : s.checks (.jr a) := by
  refine State.checks_of_finish (dst := []) rfl (s.finish_require_pass (by rw [hp]; rfl) _ _ _) (mem_reads_iff _)
    fun hc => ?_
  have hal : (s.ctx.read a).toNat % 4 = 0 := hc
  simp only [hal, decide_true, require_true, except_ok_bind]
  exact ⟨_, rfl⟩

theorem bodiesClash_of_clear {a b x y : Nat} (h : bodiesClear a b x y) : bodiesClash a b x y = false := by
  have : ¬(bodiesClash a b x y = true) := by
    simp only [bodiesClash, Bool.and_eq_true, Bool.not_eq_true', decide_eq_true_eq, decide_eq_false_iff_not]
    rcases h with h | h | h | h <;> omega
  exact Bool.eq_false_iff.mpr this

theorem loop_checks {s : State} {a : NameF} {l : BitVec 11} (hp : s.ctx.mayLoop l) : s.checks (.loop a l) := by
  obtain ⟨he, hc, hg, hb⟩ := hp
  refine State.checks_of_finish (dst := []) rfl (s.finish_require_pass ?_ _ _ _) (mem_reads_iff _)
    fun _ => ⟨_, rfl⟩
  cases hs : s.ctx.stripping with
  | false => simp [he, hc, hg]
  | true => simp [he, hc, hg, bodiesClash_of_clear (hb hs)]

theorem sloop_checks {s : State} {d a : NameF} {l : BitVec 11} (hp : s.ctx.mayStrip l) : s.checks (.sloop d a l) := by
  obtain ⟨he, hc, hg, hb⟩ := hp
  refine State.checks_of_finish (dst := []) rfl (s.finish_require_pass ?_ _ _ _) (mem_reads_iff _)
    fun _ => ⟨_, rfl⟩
  cases hs : s.ctx.counting with
  | false => simp [he, hc, hg]
  | true => simp [he, hc, hg, bodiesClash_of_clear (hb hs)]

/-! ## Control registers, TRACE, PFETCH and TLBINV (R25, R218, R225, R228, R229) -/

theorem mfc_checks (s : State) (d : NameF) (x : BitVec 7) : s.checks (.mfc d x) := by
  refine State.checks_of_finish (dst := [d]) (f := ?f) rfl (by rw [exec_mfc, execMfc]; rfl) (fun _ => Iff.rfl) fun hc => ?_
  obtain ⟨hs, hx⟩ : (s.ctx.sup = true ∨ ctlSupOnly x.toNat = false) ∧ ctlDrains x.toNat = false := hc
  have hreach : (s.ctx.sup || !ctlSupOnly x.toNat) = true := by rcases hs with h | h <;> simp [h]
  simp only [ctlExists_index, hreach, hx, require_true, except_ok_bind, Bool.not_false, Bool.true_or, waitUnless_true]
  exact ⟨_, rfl⟩

theorem mtc_checks (s : State) (a : NameF) (x : BitVec 7) : s.checks (.mtc a x) := by
  refine State.checks_of_finish (dst := []) (f := ?f) rfl (by rw [exec_mtc, execMtc]; rfl) (mem_reads_iff _)
    fun hc => ?_
  have hw : ctlWritable s.ctx.sup x.toNat = true := hc
  simp only [ctlExists_index, hw, require_true, except_ok_bind, Bool.true_or]
  exact ⟨_, rfl⟩

theorem trace_checks (s : State) (a : NameF) : s.checks (.trace a) :=
  State.checks_of_finish (dst := []) rfl rfl (mem_reads_iff _) fun _ => ⟨_, rfl⟩

theorem pfetch_checks (s : State) (d a : NameF) (x : BitVec 10) : s.checks (.pfetch d a x) :=
  State.checks_of_finish (dst := []) rfl rfl (mem_reads_iff _) fun _ => ⟨_, rfl⟩

/-- TLBINV has begun when it checks (R352). -/
theorem invalidation_checks {s : State} {i : Instr} {a : NameF} {sel : Option InvSel} (hx : exec i s = invalidation i [(clsS1, a)] [a] s sel)
    (hi : isInvalidation i = true) (hn : scalarNames i = [(clsS1, a)]) (hr : scalarReads i = [a]) (hk : checkedCtl i = [])
    (hs : s.ctx.cleared i → s.ctx.sup = true) : s.checks i := by
  have htrap : ∀ k v, exec i s = (s.withCtx { s.ctx with inv := true }).finish (.error (.trap k v none)) → s.traps i k v := fun k v h =>
    ⟨s.ctx.asking, fun _ => rfl, by rw [hi, Bool.or_true]; exact h⟩
  refine ⟨fun k v h => htrap k v ?_, fun ha hc _ k v h => htrap k v ?_⟩
  · rw [hn] at h
    rw [hx]
    unfold invalidation
    rw [h]
    rfl
  · rw [hn] at ha
    rw [hr, hk, hn, Context.sound_dst (dst' := []) _ _ _ (by simp)] at h
    rw [hx]
    unfold invalidation
    rw [checkNames_ok _ _ ha, hs hc, h]
    rfl

/-! ## Memory (R216 to R224, R126): names before the access, registers behind it -/

theorem loadOp_refused {i : Instr} {plain : Bool} {d a : NameF} {f : BitVec 3} {imm : BitVec 9} {s : State} {e : Stop} (hf : f.toNat ≤ 6)
    (h : s.ctx.checkNames [(clsS, d), (clsS, a)] = .error e) : loadOp i plain d a f imm s =
      (s.asked (plain && decide (f.toNat = 6)) (offsetAddr (s.ctx.read a) 9 imm.toNat (loadSize f)) .read (loadSize f)).finish (.error e) := by
  simp only [loadOp, hf, decide_true, require_true, except_ok_bind, h, except_error_bind]

theorem loadOp_unsound {i : Instr} {plain : Bool} {d a : NameF} {f : BitVec 3} {imm : BitVec 9} {s : State} {r : Nat × State} {e : Stop}
    (hf : f.toNat ≤ 6) (hn : s.ctx.acceptsAll [(clsS, d), (clsS, a)])
    (hl : s.loadData (plain && decide (f.toNat = 6)) (offsetAddr (s.ctx.read a) 9 imm.toNat (loadSize f)) (loadSize f) = .ok r)
    (h : s.ctx.sound [a] [] [d] = .error e) : loadOp i plain d a f imm s =
      (s.asked (plain && decide (f.toNat = 6)) (offsetAddr (s.ctx.read a) 9 imm.toNat (loadSize f)) .read (loadSize f)).finish (.error e) := by
  simp only [loadOp, hf, decide_true, require_true, except_ok_bind, checkNames_ok _ _ hn, hl, h, except_error_bind]

theorem loadOp_checks {s : State} {i : Instr} {plain : Bool} {d a : NameF} {f : BitVec 3} {imm : BitVec 9}
    (hx : exec i s = loadOp i plain d a f imm s) (hf : f.toNat ≤ 6)
    (hq : s.ctx.accessOf i = some ⟨plain && decide (f.toNat = 6), s.ctx.read a + BitVec.ofInt 64 (imm.toInt * loadSize f), .read, loadSize f⟩)
    (hn : scalarNames i = [(clsS, d), (clsS, a)]) (hr : scalarReads i = [a]) (hk : checkedCtl i = [])
    (hgo : ∀ pa e n, s.accessGoes i pa e n → s.mayAccess pa n = true ∧ s.blocked pa n = false) : s.checks i := by
  rw [← offsetAddr_toInt] at hq
  refine State.checks_of_access (dst := [d]) hq hn hr hk (by simp [or_comm]) (fun e h => ?_) (fun ha pa pg ht hd hg hm e h => ?_)
  · exact State.stopsAt_of_asked _ _ _ _ (hx.trans (loadOp_refused hf h))
  · have hl := State.loadData_memory ht (by rw [hd]; exact nofun) ⟨(hgo _ _ _ hg).1, (hgo _ _ _ hg).2, hm⟩
    exact State.stopsAt_of_asked _ _ _ _ (hx.trans (loadOp_unsound hf ha hl h))

theorem storeOp_refused {rel : Bool} {d a : NameF} {f : BitVec 2} {imm : BitVec 9} {s : State} {e : Stop}
    (h : s.ctx.checkNames [(clsS, d), (clsS, a)] = .error e) : storeOp rel d a f imm s =
      (s.asked (!rel && decide (f.toNat = 3)) (offsetAddr (s.ctx.read a) 9 imm.toNat (storeSize f)) .write (storeSize f)).finish (.error e) := by
  simp only [storeOp, h, except_error_bind]

theorem storeOp_unsound {rel : Bool} {d a : NameF} {f : BitVec 2} {imm : BitVec 9} {s t : State} {e : Stop}
    (hn : s.ctx.acceptsAll [(clsS, d), (clsS, a)])
    (hl : s.storeData (!rel && decide (f.toNat = 3)) (offsetAddr (s.ctx.read a) 9 imm.toNat (storeSize f)) (storeSize f)
      ((s.ctx.read d).toNat % 2 ^ (8 * storeSize f)) rel = .ok t)
    (h : s.ctx.sound [d, a] [] = .error e) : storeOp rel d a f imm s =
      (s.asked (!rel && decide (f.toNat = 3)) (offsetAddr (s.ctx.read a) 9 imm.toNat (storeSize f)) .write (storeSize f)).finish (.error e) := by
  simp only [storeOp, checkNames_ok _ _ hn, hl, h, except_ok_bind, except_error_bind]

theorem storeOp_checks {s : State} {i : Instr} {rel : Bool} {d a : NameF} {f : BitVec 2} {imm : BitVec 9}
    (hx : exec i s = storeOp rel d a f imm s)
    (hq : s.ctx.accessOf i = some ⟨!rel && decide (f.toNat = 3), s.ctx.read a + BitVec.ofInt 64 (imm.toInt * storeSize f), .write, storeSize f⟩)
    (hn : scalarNames i = [(clsS, d), (clsS, a)]) (hr : scalarReads i = [d, a]) (hk : checkedCtl i = [])
    (hgo : ∀ pa e n, s.accessGoes i pa e n → s.slotFree pa = true ∧ s.postedBefore s.ctx.id = false) : s.checks i := by
  rw [← offsetAddr_toInt] at hq
  refine State.checks_of_access hq hn hr hk (mem_reads_iff _) (fun e h => ?_) (fun ha pa pg ht hd hg hm e h => ?_)
  · exact State.stopsAt_of_asked _ _ _ _ (hx.trans (storeOp_refused h))
  · obtain ⟨hs, hp⟩ := hgo _ _ _ hg
    exact State.stopsAt_of_asked _ _ _ _ (hx.trans (storeOp_unsound ha (State.storeData_memory ht hs hp (by rw [hd]; exact nofun)) h))

theorem State.fetchFrom_ok {s : State} {dest pa n : Nat} (va : Word) (hm : s.mayAccessTo dest pa n = true) (hb : s.blocked pa n = false)
    (hk : s.markCause (s.locOf pa) n = none) : s.fetchFrom dest va pa n = .ok (s.readCells pa n) := by
  simp only [State.fetchFrom, hm, hb, hk, Bool.not_false, waitUnless_true, except_ok_bind, except_pure]

theorem ldc_checks (s : State) (d a : NameF) (imm : BitVec 10) : s.checks (.ldc d a imm) := by
  have hq : s.ctx.accessOf (.ldc d a imm) = some ⟨false, offsetAddr (s.ctx.read a) 10 imm.toNat 8, .read, 8⟩ :=
    congrArg (fun va => some (Access.mk false va .read 8)) (offsetAddr_toInt (s.ctx.read a) imm 8).symm
  refine State.checks_of_access (dst := [d]) (names := [(clsS, d), (clsS, a)]) (reads := [a]) (ctl := []) hq rfl rfl rfl (by simp [or_comm])
    (fun e h => ?_) (fun ha pa pg ht _ hg hm e h => ?_)
  · cases ht : s.translate false (offsetAddr (s.ctx.read a) 10 imm.toNat 8) .read 8 with
    | error e' =>
      refine State.stopsAt_of_finish ?_
      simp only [exec_ldc, execLdc, ht, h, except_error_bind]
    | ok r =>
      refine State.stopsAt_of_asks cacheDest r.1 8 ?_
      simp only [exec_ldc, execLdc, ht, h, except_error_bind]
  · obtain ⟨hma, hb, hc⟩ : s.mayAccessTo cacheDest pa 8 = true ∧ s.blocked pa 8 = false ∧ s.cached pa pg = none := hg
    refine State.stopsAt_of_asks cacheDest pa 8 ?_
    simp only [exec_ldc, execLdc, ht, checkNames_ok _ _ ha, hc, Option.filter_none, State.fetchFrom_ok _ hma hb hm, h, except_ok_bind,
      except_error_bind]

theorem waitwOp_checks {s : State} {i : Instr} {d a : NameF} {ok : Word → Word → Bool} (hx : exec i s = waitwOp d a s ok)
    (hq : s.ctx.accessOf i = some ⟨false, s.ctx.read a, .read, 8⟩) (hn : scalarNames i = [(clsS, d), (clsS1, a)])
    (hr : scalarReads i = [d, a]) (hk : checkedCtl i = [])
    (hgo : ∀ pa e n, s.accessGoes i pa e n → s.mayAccess pa n = true ∧ s.blocked pa n = false) : s.checks i := by
  refine State.checks_of_access hq hn hr hk (mem_reads_iff _) (fun e h => ?_) (fun ha pa pg ht hd hg hm e h => ?_) <;>
    refine State.stopsAt_of_asked _ _ _ _ (hx.trans (waitwOp_error d a s ok e ?_))
  · simp only [waitwRead, h, except_error_bind]
  · simp only [waitwRead, checkNames_ok _ _ ha, ht, State.fetchData_loadable ⟨(hgo _ _ _ hg).1, (hgo _ _ _ hg).2, hm⟩, h, except_ok_bind,
      except_error_bind]

/-- A translation that succeeds has found its page and its memory. -/
theorem State.locate_of_translate {s : State} {plain : Bool} {va : Word} {kind : AccessKind} {n pa : Nat} {e : Page}
    (h : s.translate plain va kind n = .ok (pa, e)) : s.locate s.ctx.owner s.ctx.sup va kind n = .ok (pa, e) := by
  cases hl : s.locate s.ctx.owner s.ctx.sup va kind n with
  | error x =>
    rw [s.translate_error plain va kind n x hl] at h
    exact nomatch h
  | ok r =>
    cases hb : s.backed plain r.1 with
    | false =>
      rw [s.translate_absent plain va kind n r.1 r.2 hl hb] at h
      exact nomatch h
    | true => exact (s.translate_backed plain va kind n r.1 r.2 hl hb).symm.trans h

theorem claim_checks (s : State) (d a b : NameF) : s.checks (.claim d a b) := by
  refine State.checks_of_access (i := .claim d a b) (dst := [d]) (names := [(clsS, d), (clsS1, a), (clsS1, b)]) (reads := [a, b]) rfl rfl rfl rfl
    (fun m => by simp; tauto) (fun e h => ?_) (fun ha pa pg ht hd hg hm e h => ?_) <;>
    refine State.stopsAt_of_asked false (s.ctx.read a) .write 16 ?_
  · simp only [exec_claim, execClaim, h, except_error_bind]
  · have hs : decide (spaceOf pa = .device ∨ spaceOf pa = .control ∨ spaceOf pa = .none) = true := decide_eq_true (.inl hd)
    simp only [exec_claim, execClaim, checkNames_ok _ _ ha, State.locate_of_translate ht, hs, State.translate_backs ht, require_true,
      State.fetchData_loadable ⟨hg.1, hg.2, hm⟩, show s.ctx.sound [a, b] [0x04] [d] = _ from h, except_ok_bind, except_error_bind]

/-- Whether an atomic waits for an own store or for its access, it stops in a state that its request alone marks. -/
theorem State.stopsAt_of_atomic {s : State} {i : Instr} {op : AtomicOp} {names : List (List NameClass × NameF)} {d a : NameF} {w : Bool}
    {o : BitVec 2} {c : BitVec 3} {e : Stop} (hx : exec i s = atomicOp i op names d a w o c s)
    (h : atomicOp i op names d a w o c s =
      (if ordReleases o && s.postedBy s.ctx.id then s else s.asked false (s.ctx.read a) .write ((if w then 32 else 64) / 8)).finish (.error e)) :
    s.stopsAt i e := by
  have hx' := hx.trans h
  split at hx'
  · exact State.stopsAt_of_finish hx'
  · exact State.stopsAt_of_asked _ _ _ _ hx'

theorem atomicOp_checks {s : State} {i : Instr} {op : AtomicOp} {names : List (List NameClass × NameF)} {reads : List NameF} {d a : NameF}
    {w : Bool} {o : BitVec 2} {c : BitVec 3} (hx : exec i s = atomicOp i op names d a w o c s) (hc : c.toNat ≤ 5)
    (hq : s.ctx.accessOf i = some ⟨false, s.ctx.read a, .write, if w then 4 else 8⟩) (hn : scalarNames i = names)
    (hr : scalarReads i = reads) (hk : checkedCtl i = []) (hop : reads = if op = .cas then [d, d + 1, a] else [d, a])
    (hd : ∀ m, m ∈ reads ++ names.map Prod.snd ↔ m ∈ reads ++ [])
    (hgo : ∀ pa e n, s.accessGoes i pa e n →
      s.mayAccess pa n = true ∧ s.blocked pa n = false ∧ (2 ≤ o.toNat → s.postedBy s.ctx.id = false)) : s.checks i := by
  have hw : (if w then 4 else 8) = (if w then 32 else 64) / 8 := by cases w <;> rfl
  rw [hw] at hq
  refine State.checks_of_access hq hn hr hk hd (fun e h => ?_) (fun ha pa pg ht hdev hg hm e h => ?_) <;>
    refine State.stopsAt_of_atomic hx ?_
  · simp only [atomicOp, hc, decide_true, require_true, h, except_ok_bind, except_error_bind]
  · obtain ⟨hma, hb, hp⟩ := hgo _ _ _ hg
    have hrel : (!(ordReleases o && s.postedBy s.ctx.id)) = true := by
      by_cases ho : 2 ≤ o.toNat <;> simp [ordReleases, ho, hp]
    rw [hop] at h
    simp only [atomicOp, hc, decide_true, require_true, checkNames_ok _ _ ha, State.locate_of_translate ht, isHost_device hdev,
      State.translate_backs ht, hrel, waitUnless_true, State.fetchData_loadable ⟨hma, hb, hm⟩, h, Bool.false_and, Bool.not_false, except_ok_bind,
      except_error_bind]

/-! ## O25 -/

/-- Every code of the class checks its names and registers so. -/
theorem State.checks_of_wf {s : State} {i : Instr} (hw : i.wf = true) (hp : s.ctx.placed i) : s.checks i := by
  cases hd : scalarDest i with
  | some d => exact scalarDest_checks hd s
  | none =>
    cases i <;> simp only [scalarDest, reduceCtorEq] at hd
    case bEqz | bNez | bLtz | bGez | bGtz | bLez => exact condBranch_checks hp rfl rfl rfl rfl rfl
    case call d o => exact call_checks hp
    case jr a => exact jr_checks hp
    case loop a l => exact loop_checks hp
    case sloop d a l => exact sloop_checks hp
    case mfc d x => exact mfc_checks s d x
    case mtc a x => exact mtc_checks s a x
    case trace a => exact trace_checks s a
    case pfetch d a x => exact pfetch_checks s d a x
    case tlbinvVa a => exact invalidation_checks (exec_tlbinvVa a s) rfl rfl rfl rfl id
    case tlbinvTok a => exact invalidation_checks (exec_tlbinvTok a s) rfl rfl rfl rfl id
    case ld d a f x => exact loadOp_checks (exec_ld d a f x s) (of_decide_eq_true hw) rfl rfl rfl rfl fun _ _ _ h => h
    case ldAcq d a f x => exact loadOp_checks (exec_ldAcq d a f x s) (of_decide_eq_true hw) rfl rfl rfl rfl fun _ _ _ h => h
    case st d a f x => exact storeOp_checks (exec_st d a f x s) rfl rfl rfl rfl fun _ _ _ h => h
    case stRel d a f x => exact storeOp_checks (exec_stRel d a f x s) rfl rfl rfl rfl fun _ _ _ h => h
    case ldc d a x => exact ldc_checks s d a x
    case claim d a b => exact claim_checks s d a b
    case waitwEq d a => exact waitwOp_checks (exec_waitwEq d a s) rfl rfl rfl rfl fun _ _ _ h => h
    case waitwNe d a => exact waitwOp_checks (exec_waitwNe d a s) rfl rfl rfl rfl fun _ _ _ h => h
    case waitwGe d a => exact waitwOp_checks (exec_waitwGe d a s) rfl rfl rfl rfl fun _ _ _ h => h
    case acas d a w o c =>
      exact atomicOp_checks (reads := [d, d + 1, a]) (exec_acas d a w o c s) (of_decide_eq_true hw) rfl rfl rfl rfl rfl (by simp; tauto) fun _ _ _ h => h
    case aadd | ainc | amins | amaxs | aminn | amaxn | aand | aor | axor | axchg =>
      exact atomicOp_checks rfl (of_decide_eq_true hw) rfl rfl rfl rfl rfl (mem_reads_iff _) fun _ _ _ h => h
    all_goals exact State.checks_of_none rfl rfl rfl

theorem accepts_clsS_iff (c : Context) (n : NameF) : c.accepts clsS n = true ↔ isSz n := by
  refine ⟨fun h => ?_, accepts_clsS c n⟩
  by_contra hn
  rw [accepts_clsS_false c n hn] at h
  exact nomatch h

theorem Context.write_clears (c : Context) {a : NameF} (v : Word) (ha : isSName a) : tabGet false (c.write a v).bad (c.physical a) = false := by
  rw [Context.write, if_pos ha]
  simp

/-- Settles O25: a refused name and a soft error stop a code at its two checks. -/
theorem scalarTraps : Obligations.ScalarTraps := by
  unfold Obligations.ScalarTraps
  refine ⟨fun i d hd p hp c => ?_, fun i s before after cls n hw hn hp hb hc => ?_, fun i s hw hn hp hc ha => ?_,
    fun c a v ha => c.write_clears v ha⟩
  · rw [scalarDest_classes hd p hp]
    exact accepts_clsS_iff c p.2
  · exact (State.checks_of_wf hw hp).1 _ _ (by rw [hn]; exact checkNames_refused hb hc)
  · intro sound
    have htrap := (State.checks_of_wf hw hp).2 hn hc ha
    refine ⟨fun before after n hr hwin hb hs he => htrap _ _ ?_, fun ⟨p, hp, hs⟩ hwin => htrap _ _ ?_, fun hf hwin hr => ?_⟩
    · rw [hr]
      exact sound_scalar _ hwin hb hs he
    · exact sound_win _ ⟨p.2, List.mem_append_right _ (List.mem_map_of_mem hp), hs⟩ hwin
    · have hctl : checkedCtl i = fpCtl := by
        unfold checkedCtl
        split
        · exact nomatch hf
        · exact nomatch hf
        · exact if_pos hf
      refine ⟨fun h => htrap _ _ ?_, fun h0 h1 => htrap _ _ ?_⟩ <;> rw [hctl]
      · exact sound_ctl (i := 0) hwin hr h (by simp [fpCtl, h])
      · exact sound_ctl (i := 1) hwin hr h1 (by simp [fpCtl, h0, h1])

end Sys2Proof.Machine
end

section
/-! The one-operand, selecting and immediate integer codes (R47, R99 to R101, R81): the bits of their results, and O19 and O20. -/

namespace Sys2Proof.Machine

/-! ## Counts, told by the bits they count (R47) -/

theorem testBit_above_log2 {n k : Nat} (h : log2 n < k) : n.testBit k = false :=
  Nat.testBit_lt_two_pow (Nat.lt_log2_self.trans_le (Nat.pow_le_pow_right two_pos h))

/-- The bits above the leading one are 0, and it is 1. -/
theorem clz_bits (x : Word) : clz 64 x.toNat ≤ 64 ∧ (∀ i < clz 64 x.toNat, x.getLsbD (63 - i) = false) ∧
    (clz 64 x.toNat < 64 → x.getLsbD (63 - clz 64 x.toNat) = true) := by
  unfold clz
  by_cases h0 : x.toNat = 0
  · rw [if_pos h0]
    exact ⟨le_rfl, fun i _ => by simp [BitVec.getLsbD, h0], fun h => absurd h (lt_irrefl _)⟩
  · rw [if_neg h0]
    have hlog : log2 x.toNat < 64 := (Nat.log2_lt h0).mpr x.isLt
    refine ⟨by omega, fun i hi => testBit_above_log2 (by omega), fun _ => ?_⟩
    rw [show 63 - (64 - 1 - log2 x.toNat) = Nat.log2 x.toNat by unfold log2 at hlog ⊢; omega]
    exact Nat.testBit_log2 h0

/-- The bits below the lowest one are 0, and it is 1. -/
theorem ctz_bits (w n : Nat) : ctz w n ≤ w ∧ (∀ i < ctz w n, n.testBit i = false) ∧ (ctz w n < w → n.testBit (ctz w n) = true) := by
  induction w generalizing n with
  | zero => exact ⟨le_rfl, fun i hi => absurd hi i.not_lt_zero, fun h => absurd h (Nat.not_lt_zero _)⟩
  | succ w ih =>
    obtain ⟨hle, hbelow, hat⟩ := ih (n / 2)
    unfold ctz
    by_cases hodd : n % 2 = 1
    · rw [if_pos hodd]
      exact ⟨Nat.zero_le _, fun i hi => absurd hi i.not_lt_zero, fun _ => by simp [Nat.testBit_zero, hodd]⟩
    · rw [if_neg hodd, Nat.add_comm 1]
      refine ⟨Nat.succ_le_succ hle, fun i hi => ?_, fun h => ?_⟩
      · cases i with
        | zero => simp [Nat.testBit_zero, hodd]
        | succ i => rw [Nat.testBit_succ]; exact hbelow i (by omega)
      · rw [Nat.testBit_succ]
        exact hat (by omega)

theorem popCount_eq_length (w n : Nat) : popCount w n = ((List.range w).filter n.testBit).length := by
  induction w generalizing n with
  | zero => rfl
  | succ w ih =>
    have hshift : n.testBit ∘ Nat.succ = (n / 2).testBit := funext fun i => Nat.testBit_succ n i
    rw [popCount, ih, List.range_succ_eq_map, List.filter_cons, List.filter_map, hshift, Nat.testBit_zero]
    rcases Nat.mod_two_eq_zero_or_one n with h | h <;> simp [h, Nat.add_comm]

/-! ## Fields (R99, R100) -/

/-- A replaced field holds the low bits of the value; the bits outside it stay. -/
theorem getLsbD_putBits {n : Nat} (x : BitVec n) (pos w v i : Nat) (hi : i < n) : (putBits x pos w v).getLsbD i =
    if pos ≤ i ∧ i < pos + w then v.testBit (i - pos) else x.getLsbD i := by
  have hx : x.toNat.testBit i = x.getLsbD i := rfl
  simp only [putBits, bitsOf, BitVec.getLsbD_xor, BitVec.getLsbD_ofNat, hi, decide_true, Bool.true_and, Nat.testBit_shiftLeft,
    Nat.testBit_xor, Nat.testBit_mod_two_pow, Nat.testBit_shiftRight]
  by_cases hp : pos ≤ i
  · by_cases hw : i < pos + w
    · simp [hp, hw, show i - pos < w by omega, Nat.add_sub_cancel' hp, hx]
    · simp [hw, show ¬ i - pos < w by omega]
  · simp [hp]

/-- Byte 7 - i of a number put together from eight bytes, the first on top, is byte i of them. -/
theorem digit_of_bytes (b : Nat → Nat) (hb : ∀ i, b i < 2 ^ 8) {i : Nat} (hi : i < 8) :
    ((List.range 8).foldl (fun r k => r + b k * 2 ^ (8 * (7 - k))) 0) % 2 ^ 64 / 2 ^ (8 * (7 - i)) % 2 ^ 8 = b i := by
  have := hb 0; have := hb 1; have := hb 2; have := hb 3; have := hb 4; have := hb 5; have := hb 6; have := hb 7
  simp only [List.range, List.range.loop, List.foldl_cons, List.foldl_nil, Nat.reduceSub, Nat.reduceMul, Nat.reducePow] at *
  interval_cases i <;> simp only [Nat.reduceSub, Nat.reduceMul, Nat.reducePow] <;> omega

theorem bitsOf_lt {w : Nat} (x : BitVec w) (i n : Nat) : bitsOf x i n < 2 ^ n := Nat.mod_lt _ (Nat.two_pow_pos n)

/-- Byte 7 - i of BSWAP's result is byte i of its operand (R99). -/
theorem byteSwap_byte (x : Word) {i : Nat} (hi : i < 8) :
    (byteSwap x).extractLsb' (8 * (7 - i)) 8 = x.extractLsb' (8 * i) 8 := by
  apply BitVec.eq_of_toNat_eq
  rw [BitVec.extractLsb'_toNat, byteSwap, BitVec.toNat_ofNat, Nat.shiftRight_eq_div_pow,
    digit_of_bytes (fun k => bitsOf x (8 * k) 8) (fun k => bitsOf_lt x _ 8) hi, bitsOf, BitVec.extractLsb'_toNat]

/-- A zero extension takes the number as it is. -/
theorem ofNat_mod_eq_setWidth (x : Word) (w : Nat) : BitVec.ofNat 64 (x.toNat % 2 ^ w) = (x.setWidth w).setWidth 64 := by
  apply BitVec.eq_of_toNat_eq
  simp

theorem sext64_toNat {w : Nat} (i : BitVec w) : sext64 w i.toNat = i.signExtend 64 := by
  rw [sext64_eq_signExtend, BitVec.ofNat_toNat, BitVec.setWidth_eq]

theorem sext64_word (w : Nat) (x : Word) : sext64 w x.toNat = (x.setWidth w).signExtend 64 := by
  rw [sext64_eq_signExtend, BitVec.ofNat_toNat]

/-- Settles O19: each code is ternaryOp or unaryOp of its operation; what is left is the bits of the operation's value. -/
theorem integerUnaryResults : Obligations.IntegerUnaryResults := by
  unfold Obligations.IntegerUnaryResults
  refine ⟨fun s d a b hd ha hb hi => ⟨?_, _, (exec_bfi ..).trans (ternaryOp_next d a b s _ hd ha hb hi), ?_⟩, fun s d a hd ha hi => ?_⟩
  · rw [exec_sel, execSel, ternaryOp_next d a b s _ hd ha hb hi]
    simp only [ne_eq, ite_not]
  · intro y w i hlt
    rw [insertField, getLsbD_putBits _ _ _ _ _ hlt]
    simp only [fieldPos, fieldLen, bitsOf, Nat.shiftRight_eq_div_pow]
    rfl
  · have gives : ∀ {f : Word → Word} {v : Word}, f (s.ctx.read a) = v → unaryOp d a s f = .next (s.wrote d v) := fun {f _} h =>
      h ▸ unaryOp_next d a s f hd ha hi
    obtain ⟨hclz, hclzBelow, hclzAt⟩ := clz_bits (s.ctx.read a)
    obtain ⟨hctz, hctzBelow, hctzAt⟩ := ctz_bits 64 (s.ctx.read a).toNat
    exact ⟨⟨_, hclz, (exec_clz ..).trans (gives rfl), hclzBelow, hclzAt⟩, ⟨_, hctz, (exec_ctz ..).trans (gives rfl), hctzBelow, hctzAt⟩,
      (exec_popc ..).trans (gives (congrArg (BitVec.ofNat 64) (popCount_eq_length 64 _))),
      ⟨_, (exec_bswap ..).trans (gives rfl), fun i hi => byteSwap_byte _ hi⟩,
      (exec_extsX8 ..).trans (gives (sext64_word 8 _)), (exec_extsX16 ..).trans (gives (sext64_word 16 _)),
      (exec_extsX32 ..).trans (gives (sext64_word 32 _)), (exec_extzN8 ..).trans (gives (ofNat_mod_eq_setWidth _ _)),
      (exec_extzN16 ..).trans (gives (ofNat_mod_eq_setWidth _ _)),
      (exec_extzN32 ..).trans (gives (ofNat_mod_eq_setWidth _ _))⟩

/-! ## Immediate codes (R101, R81) -/

/-- Bits 11 to 6 of an immediate shift are reserved (R101). -/
theorem decode_shift_reserved {w : Word32} (hm : w.toNat / 2 ^ 26 ∈ [0x24, 0x25, 0x26]) (hr : w.toNat / 2 ^ 6 % 2 ^ 6 ≠ 0) :
    decode w = none := by
  have hrow : decodeRow w.toNat = none := by
    have hb : bitsAt w.toNat 64 64 ≠ 0 := hr
    unfold decodeRow
    simp only [List.mem_cons, List.not_mem_nil, or_false] at hm
    rcases hm with hm | hm | hm <;> rw [show w.toNat / 67108864 = _ from hm]
    · exact if_neg hb
    · exact if_neg hb
    · exact if_neg hb
  rw [decode, hrow]

theorem constOp_next (d : NameF) (s : State) (f : Context → Word) (hd : isSz d) (hi : s.ctx.intact [] [] [d]) :
    constOp d s f = .next (s.wrote d (f s.ctx)) :=
  scalarOp_next _ _ _ _ _ (by simp [Context.acceptsAll, accepts_clsS, hd]) hi

/-- A code that reads no scalar needs none of them sound. -/
theorem Context.intact_no_reads {c : Context} {a d : NameF} (h : c.intact [a] [] [d]) : c.intact [] [] [d] := by
  obtain ⟨-, hctl, hwin, hloop⟩ := h
  exact ⟨fun n hn => absurd hn List.not_mem_nil, hctl, fun ⟨n, hn, hs⟩ => hwin ⟨n, List.mem_append_right _ hn, hs⟩, hloop⟩

/-- Settles O20: each code is unaryOp or constOp of its operation. -/
theorem immediateResults : Obligations.ImmediateResults := by
  unfold Obligations.ImmediateResults
  refine ⟨fun w => decode_shift_reserved, fun s d a i h u hd ha hi => ?_⟩
  have gives : ∀ {f : Word → Word} {v : Word}, f (s.ctx.read a) = v → unaryOp d a s f = .next (s.wrote d v) := fun {f _} h =>
    h ▸ unaryOp_next d a s f hd ha hi
  have const : ∀ {f : Context → Word} {v : Word}, f s.ctx = v → constOp d s f = .next (s.wrote d v) := fun {f _} h =>
    h ▸ constOp_next d s f hd (Context.intact_no_reads hi)
  have himm := sext64_toNat i
  have hup := sext64_toNat u
  have hsigned : (i.signExtend 64).toInt = i.toInt := BitVec.toInt_signExtend_of_le (by decide)
  exact ⟨(exec_addi ..).trans (gives (by rw [himm])), (exec_andi ..).trans (gives rfl), (exec_ori ..).trans (gives rfl),
    (exec_xori ..).trans (gives rfl), (exec_shli ..).trans (gives rfl), (exec_shri ..).trans (gives rfl),
    (exec_sari ..).trans (gives rfl), (exec_sltsi ..).trans (gives (by rw [himm, hsigned])),
    (exec_sltni ..).trans (gives (by rw [himm])), (exec_movi ..).trans (const hup),
    (exec_lui ..).trans (const (by rw [hup])), (exec_addpc ..).trans (const (by rw [hup]))⟩

end Sys2Proof.Machine
end

section
/-! O57 is false of a number that is no physical address: R276 gives one 52 bits, its clause on a peer's atomic takes any number. -/

namespace Sys2Proof.Machine

/-- The device after reset, with link 0 trained and serving its peer (R400). -/
def peerLinked : State := State.reset.setLink 0 { LinkRec.reset with up := true, acc := true }

/-- One more bit than an address has: the space that the model reads for it is device memory, backed, at location 0. -/
def wideAddress : Nat := 2 ^ 52

/-- All that O57 asks of a peer's atomic holds at wideAddress. -/
theorem wideAddress_premises :
    (peerLinked.link 0).up = true ∧ (peerLinked.link 0).acc = true ∧ peerLinked.keyholder.recovery = false ∧ peerLinked.quiet = true ∧
      wideAddress % 8 = 0 ∧ spaceOf wideAddress = .device ∧ peerLinked.backed false wideAddress = true ∧
      (∀ p ∈ pieces wideAddress 8, peerLinked.blocked p.1 p.2 = false) ∧ peerLinked.markCause (peerLinked.locOf wideAddress) 8 = none ∧
      peerLinked.anyAhead = false := by
  decide +kernel

/-- An access beyond the device's 2^40 addresses fails as it arrives, and is answered with nothing (LOG 69). -/
theorem State.arrive_beyond (s : State) (r : External) (h : 2 ^ 40 < r.pa + r.n) : s.arrive r = { s with reply := [] } :=
  if_pos (.inr (.inl h))

/-- The atomic at wideAddress gets no answer. -/
theorem exec_atomic_wideAddress : exec (.atomicAtHome 0 ⟨.add, false⟩ wideAddress 1 0) peerLinked = .next { peerLinked with reply := [] } := by
  obtain ⟨hup, hacc, hrec, -⟩ := wideAddress_premises
  rw [exec_atomicAtHome, execAtomicAtHome, if_pos ⟨hup, hacc, hrec⟩, State.arrive_beyond _ _ (by decide)]

/-- Refutes O57: of a peer's atomic at 2^52 the statement wants the eight bytes of the old value as its answer, and there is none. -/
theorem not_fabricEvents : ¬ Obligations.FabricEvents := by
  unfold Obligations.FabricEvents
  intro h
  obtain ⟨-, -, -, -, -, -, -, -, -, -, -, -, -, hatomic, -⟩ := h peerLinked
  obtain ⟨hup, hacc, hrec, hquiet, halign, hspace, hbacked, hblocked, hmark, hahead⟩ := wideAddress_premises
  obtain ⟨t, ht, hreply, -⟩ := hatomic 0 .add false wideAddress 1 0 hup hacc hrec hquiet halign hspace hbacked hblocked hmark hahead
  obtain rfl : { peerLinked with reply := [] } = t := by injection exec_atomic_wideAddress.symm.trans ht
  exact absurd (congrArg List.length hreply) (by simp)

end Sys2Proof.Machine
end

section
/-! TRAP, BRK and WAITW (R125 to R127, R226, R377): O10 and O38. -/

namespace Sys2Proof.Machine

/-! ## Software traps -/

/-- Cause 0x20 is none of those taken asynchronously, so a trap of it never sets the bit of those (R37, R38). -/
theorem tcause_of_software (b : Nat) : (BitVec.ofNat 13 (0x20 + 2 ^ 8 * b + 2 ^ 12 * boolNat (isAsync 0x20))).toNat % 256 = 0x20 := by
  rw [boolNat_isAsync, BitVec.toNat_ofNat, if_neg (by decide)]
  omega

theorem exec_trap_takes (x : BitVec 7) (s : State) : exec (.trap x) s = .next (s.takeTrap 0x20 (x.setWidth 64) none) := rfl

/-- Settles O10: TRAP and a BRK with DBK = 0 are the entry of their cause; a BRK with DBK = 1 is the halt or its wait. -/
theorem softwareTraps : Obligations.SoftwareTraps := by
  unfold Obligations.SoftwareTraps
  refine fun s x => ⟨fun hpc => ⟨_, exec_trap_takes x s, ?_⟩, fun hd => ?_, fun hd hw => ⟨?_, (s.haltNow_frameKept 4).2⟩, fun hd hw => ?_⟩
  · obtain ⟨_, _, _, _, _, _, _, h⟩ := s.takeTrap_ctx 0x20 (x.setWidth 64) none (.inr hpc)
    rw [h]
    exact ⟨tcause_of_software _, rfl, rfl, rfl, rfl, rfl⟩
  · simp [execBrk, hd, trapS]
  · simp [execBrk, hd, hw]
  · simp [execBrk, hd, hw]

/-! ## WAITW -/

theorem State.reached_locOf (s : State) (core cls pa q : Nat) : (s.reached core cls pa).locOf q = s.locOf q := by
  unfold State.reached
  dsimp only
  split <;> split <;> rfl

theorem State.counted_locOf (s : State) (pa q : Nat) : (s.counted pa).locOf q = s.locOf q := by
  unfold State.counted
  split <;> rfl

/-- A read moves no location. -/
theorem State.hasRead_locOf (s : State) (pa n q : Nat) : (s.hasRead pa n).locOf q = s.locOf q := by
  rw [State.hasRead, State.corrected_locOf, State.serve, State.counted_locOf, State.reached_locOf]

theorem State.hasRead_ctx (s : State) (pa n : Nat) : (s.hasRead pa n).ctx = s.ctx := by
  rw [State.hasRead, State.corrected_ctx, State.serve_ctx]

section
variable {s : State} {d a : NameF} {pa : Nat} {e : Page} (hd : isSz d) (ha : isSName a) (hi : s.ctx.intact [d, a] [])
  (ht : s.translate false (s.ctx.read a) .read 8 = .ok (pa, e)) (hl : s.loadable pa 8)
include hd ha hi ht hl

theorem waitwRead_loadable : waitwRead d a s = .ok (BitVec.ofNat 64 (s.readCells pa 8), s.locOf pa, s.hasRead pa 8) := by
  have hnames : s.ctx.acceptsAll [(clsS, d), (clsS1, a)] := by simp [Context.acceptsAll, accepts_clsS, accepts_clsS1, hd, ha]
  simp only [waitwRead, checkNames_ok _ _ hnames, ht, State.fetchData_loadable hl, sound_ok _ _ _ _ hi, State.hasRead_locOf,
    except_ok_bind, except_pure]

/-- A WAITW whose value satisfies its condition writes D. -/
theorem waitwOp_done {ok : Word → Word → Bool} (h : ok (BitVec.ofNat 64 (s.readCells pa 8)) (s.ctx.read d) = true) :
    waitwOp d a s ok = .next ((s.hasRead pa 8).wrote d (BitVec.ofNat 64 (s.readCells pa 8))) := by
  simp only [waitwOp, waitwRead_loadable hd ha hi ht hl, State.hasRead_ctx, h, if_true, State.finish_ok _ _ hi.2.2.2, State.wrote]

/-- One whose value does not parks on the word. -/
theorem waitwOp_parks {ok : Word → Word → Bool} (h : ok (BitVec.ofNat 64 (s.readCells pa 8)) (s.ctx.read d) = false) :
    waitwOp d a s ok = .next (((s.hasRead pa 8).withCtx { s.ctx with stall := false, asking := [], parked := some (s.locOf pa) }).watchWord
      s.ctx.core (s.locOf pa)) := by
  simp only [waitwOp, waitwRead_loadable hd ha hi ht hl, State.hasRead_ctx, h, Bool.false_eq_true, if_false]

end

/-- Settles O38: the three codes are waitwOp of their relation. -/
theorem waitResults : Obligations.WaitResults := by
  unfold Obligations.WaitResults
  intro s d a pa e hd ha hi ht hl
  have eq := exec_waitwEq d a s
  have ne := exec_waitwNe d a s
  have ge := exec_waitwGe d a s
  exact ⟨fun h => eq.trans (waitwOp_done hd ha hi ht hl (decide_eq_true h)),
    fun h => eq.trans (waitwOp_parks hd ha hi ht hl (decide_eq_false h)),
    fun h => ne.trans (waitwOp_done hd ha hi ht hl (decide_eq_true h)),
    fun h => ne.trans (waitwOp_parks hd ha hi ht hl (decide_eq_false (not_not.mpr h))),
    fun h => ge.trans (waitwOp_done hd ha hi ht hl (decide_eq_true h)),
    fun h => ge.trans (waitwOp_parks hd ha hi ht hl (decide_eq_false (Nat.not_le.mpr h)))⟩

end Sys2Proof.Machine
end

section
/-! Taken branches and the starts of loops (R108, R113 to R120): O29 and O30. -/

namespace Sys2Proof.Machine

/-! ## BR -/

theorem branchTarget_toInt {w : Nat} (pc : Word) (o : BitVec w) : branchTarget pc w o.toNat = pc + BitVec.ofInt 64 (4 * o.toInt) := by
  rw [branchTarget, toSigned_toNat]

theorem exec_br_taken {s : State} (h : s.ctx.atLoopEnd = false) (o : BitVec 16) :
    exec (.br o) s = .next (s.withCtx (s.ctx.branchTo (s.ctx.pc + BitVec.ofInt 64 (4 * o.toInt)))) := by
  rw [exec_br, execBr, s.finish_require_pass (by simp [h]), branchTarget_toInt]
  exact s.finish_ok _ (Context.loopError_none _ h)

/-- A transfer leaves the body of the counted loop; of the strip loop (R117). -/
def Context.leavesCounted (c : Context) (dst : Word) : Bool := c.counting && c.inCounted c.pc && !c.inCounted dst
def Context.leavesStrip (c : Context) (dst : Word) : Bool := c.stripping && c.inStrip c.pc && !c.inStrip dst

/-- What a taken branch does: the pc, the counters of the loops it leaves, and marks of errors and fetch that no instruction sees. -/
theorem Context.branchTo_eq (c : Context) (dst : Word) : ∃ bd st sy, c.branchTo dst = { c with
    pc := dst, lc := if c.leavesCounted dst then 0 else c.lc, lcPend := !c.leavesCounted dst && c.lcPend
    send := if c.leavesStrip dst then 0 else c.send, srem := if c.leavesStrip dst then 0 else c.srem
    bad := bd, stall := st, syncAt := sy } := by
  have hC : (c.counting && c.inCounted c.pc && !c.inCounted dst) = c.leavesCounted dst := rfl
  have hS : (c.stripping && c.inStrip c.pc && !c.inStrip dst) = c.leavesStrip dst := rfl
  unfold Context.branchTo Context.goto Context.resync
  simp only [hC, hS, Context.mend_eq]
  cases c.leavesCounted dst <;> cases c.leavesStrip dst <;> exact ⟨_, _, _, rfl⟩

/-- Settles O29: a taken branch clears the counter of a loop exactly where it leaves that loop's body. -/
theorem branchEndsLoops : Obligations.BranchEndsLoops := by
  unfold Obligations.BranchEndsLoops
  refine fun s o he => ⟨_, exec_br_taken he o, ?_⟩
  intro dst
  obtain ⟨bd, st, sy, h⟩ := s.ctx.branchTo_eq dst
  have stays : ∀ {p q r : Bool}, q = false ∨ r = true → (p && q && !r) = false := by decide
  rw [State.withCtx_ctx, h]
  refine ⟨rfl, fun hc hin hout => ?_, fun hc hin hout => ?_, fun hk => ?_, fun hk => ?_, rfl, rfl, rfl, rfl, rfl, rfl⟩
  · have hl : s.ctx.leavesCounted dst = true := by simp [Context.leavesCounted, hc, hin, hout]
    simp [Context.counting, hl]
  · have hl : s.ctx.leavesStrip dst = true := by simp [Context.leavesStrip, hc, hin, hout]
    simp [Context.stripping, hl]
  · simp [Context.leavesCounted, stays hk]
  · simp [Context.leavesStrip, stays hk]

/-! ## LOOP and SLOOP -/

theorem loopCount_toNat (v : Word) : (loopCount v).toNat = min v.toNat 0xFFFFFFFF := by
  rw [loopCount, BitVec.toNat_ofNat, Nat.mod_eq_of_lt (by omega)]

theorem loopCount_eq_zero (v : Word) : loopCount v = 0 ↔ min v.toNat 0xFFFFFFFF = 0 := by
  rw [← loopCount_toNat, ← BitVec.toNat_inj]
  rfl

theorem placed_loop {c : Context} {l : BitVec 11} (hp : c.mayLoop l) : (!c.atLoopEnd && !c.counting && !c.gmSub &&
    !(c.stripping && bodiesClash (c.pc.toNat + 4) (c.pc.toNat + 4 * l.toNat) (c.sbeg.toNat + 4) c.send.toNat)) = true := by
  obtain ⟨he, hc, hg, hb⟩ := hp
  cases hs : c.stripping with
  | false => simp [he, hc, hg]
  | true => simp [he, hc, hg, bodiesClash_of_clear (hb hs)]

theorem placed_sloop {c : Context} {l : BitVec 11} (hp : c.mayStrip l) : (!c.atLoopEnd && !c.stripping && !c.gmSub &&
    !(c.counting && bodiesClash (c.pc.toNat + 4) (c.pc.toNat + 4 * l.toNat) c.lbeg.toNat c.lend.toNat)) = true := by
  obtain ⟨he, hc, hg, hb⟩ := hp
  cases hs : c.counting with
  | false => simp [he, hc, hg]
  | true => simp [he, hc, hg, bodiesClash_of_clear (hb hs)]

/-- The body of a loop at pc, by its offset. -/
def Context.loopTop (c : Context) : Nat := c.pc.toNat + 4
def Context.loopEnd (c : Context) (l : BitVec 11) : Nat := c.pc.toNat + 4 * l.toNat

/-- The loop registers a LOOP sets. -/
def Context.countedBody (c : Context) (l : BitVec 11) : Context :=
  { c.mend [0x0B, 0x0C] with lbeg := BitVec.ofNat 56 c.loopTop, lend := BitVec.ofNat 56 (c.loopEnd l), stall := false }

/-- LOOP whose checks pass, by its count. -/
theorem exec_loop_starts {s : State} {a : NameF} {l : BitVec 11} (hp : s.ctx.mayLoop l) (ha : isSz a) (hi : s.ctx.intact [a] []) :
    exec (.loop a l) s = .next (s.withCtx (if loopCount (s.ctx.read a) = 0 then
        { s.ctx.countedBody l with pc := BitVec.ofNat 64 (s.ctx.loopEnd l + 4) }
      else { (s.ctx.countedBody l).mend [0x0A] with
        lc := loopCount (s.ctx.read a), lcPend := false, pc := BitVec.ofNat 64 s.ctx.loopTop })) := by
  have hnames : s.ctx.acceptsAll [(clsS, a)] := by simp [Context.acceptsAll, accepts_clsS, ha]
  rw [exec_loop, execLoop]
  dsimp only
  rw [s.finish_require_pass (placed_loop hp), checkNames_ok _ _ hnames, except_ok_bind, sound_ok _ _ _ _ hi, except_ok_bind,
    except_pure, State.finish_ok _ _ hi.2.2.2]
  rfl

/-- Most columns of a strip (R119). -/
def stripMost (m : Nat) : Nat := if m = 0 ∨ m > 16384 then 16384 else m

theorem stripMost_le (m : Nat) : stripMost m ≤ 16384 := by unfold stripMost; split <;> omega

/-- The loop registers an SLOOP sets, before the first grant. -/
def Context.stripBody (c : Context) (d a : NameF) (l : BitVec 11) : Context :=
  { c.mend [0x05, 0x06, 0x07, 0x08, 0x09] with
    smax := BitVec.ofNat 15 (stripMost (c.read d).toNat), sbeg := c.pc.setWidth 56, send := BitVec.ofNat 56 (c.loopEnd l)
    srem := loopCount (c.read a), sord := 0, stall := false }

/-- SLOOP whose checks pass, by its total. -/
theorem exec_sloop_starts {s : State} {d a : NameF} {l : BitVec 11} (hp : s.ctx.mayStrip l) (hd : isSz d) (ha : isSz a)
    (hi : s.ctx.intact [d, a] []) : exec (.sloop d a l) s = .next (if loopCount (s.ctx.read a) = 0 then
        s.withCtx { s.ctx.stripBody d a l with send := 0, pc := BitVec.ofNat 64 (s.ctx.loopEnd l + 4) }
      else (s.withCtx { (s.ctx.stripBody d a l).grant with pc := BitVec.ofNat 64 s.ctx.loopTop }).stripStarted) := by
  rw [exec_sloop, execSloop]
  dsimp only
  rw [s.finish_require_pass (placed_sloop hp), checkNames_ok _ _ (acceptsAll_da hd ha), except_ok_bind, sound_ok _ _ _ _ hi, except_ok_bind,
    except_pure, State.finish_ok _ _ hi.2.2.2]
  rfl

/-- A strip's start moves no register (R120). -/
theorem State.stripStarted_ctx (s : State) : ∃ p st n b h, s.stripStarted.ctx =
    { s.ctx with parked := p, stall := st, since := n, sib := b, haltReq := h } := by
  unfold State.stripStarted
  obtain ⟨p, st, n, b, h⟩ := State.emitTrace_woken { s with
    ctx := { s.ctx with haltReq := if s.ctx.haltReq = some 2 then some 4 else s.ctx.haltReq }
    posted := s.posted.map fun (p : Posted) => if p.ctx = s.ctx.id then { p with before := true } else p } 1 0 s.ctx.sbeg.toNat s.ctx.shapeWord
  exact ⟨p, st, n, b, _, h⟩

/-- The grant of a strip (R120). -/
theorem Context.grant_eq (c : Context) : ∃ bd, c.grant = { c with
    nrow := 1, ncol := min c.srem.toNat c.smax.toNat
    srem := c.srem - BitVec.ofNat 32 (min c.srem.toNat c.smax.toNat), bad := bd } := by
  unfold Context.grant
  rw [Context.mend_eq]
  exact ⟨_, rfl⟩

theorem Context.stripBody_eq (c : Context) (d a : NameF) (l : BitVec 11) : ∃ bd, c.stripBody d a l = { c with
    smax := BitVec.ofNat 15 (stripMost (c.read d).toNat), sbeg := c.pc.setWidth 56, send := BitVec.ofNat 56 (c.loopEnd l)
    srem := loopCount (c.read a), sord := 0, stall := false, bad := bd } := by
  unfold Context.stripBody
  rw [Context.mend_eq]
  exact ⟨_, rfl⟩

theorem Context.countedBody_eq (c : Context) (l : BitVec 11) : ∃ bd, c.countedBody l = { c with
    lbeg := BitVec.ofNat 56 c.loopTop, lend := BitVec.ofNat 56 (c.loopEnd l), stall := false, bad := bd } := by
  unfold Context.countedBody
  rw [Context.mend_eq]
  exact ⟨_, rfl⟩

theorem sub_ofNat_min_toNat (x : BitVec 32) (n : Nat) : (x - BitVec.ofNat 32 (min x.toNat n)).toNat = x.toNat - min x.toNat n := by
  have := x.isLt
  rw [BitVec.toNat_sub, BitVec.toNat_ofNat]
  omega

section
variable {c : Context} {l : BitVec 11} (h : c.pc.toNat + 4 * l.toNat + 4 < 2 ^ 56)
include h

theorem loopTop_toNat {w : Nat} (hw : 56 ≤ w) : (BitVec.ofNat w c.loopTop).toNat = c.pc.toNat + 4 := by
  have : 2 ^ 56 ≤ 2 ^ w := Nat.pow_le_pow_right two_pos hw
  rw [BitVec.toNat_ofNat, Context.loopTop, Nat.mod_eq_of_lt (by omega)]

theorem loopEnd_toNat : (BitVec.ofNat 56 (c.loopEnd l)).toNat = c.pc.toNat + 4 * l.toNat := by
  rw [BitVec.toNat_ofNat, Context.loopEnd, Nat.mod_eq_of_lt (by omega)]

theorem afterLoop_toNat : (BitVec.ofNat 64 (c.loopEnd l + 4)).toNat = c.pc.toNat + 4 * l.toNat + 4 := by
  rw [BitVec.toNat_ofNat, Context.loopEnd, Nat.mod_eq_of_lt (by omega)]

end

/-- Settles O30: by LOOP and by SLOOP, each with a count of 0 and without. -/
theorem loopStarts : Obligations.LoopStarts := by
  unfold Obligations.LoopStarts
  refine ⟨fun s a l hp ha hi hpc => ⟨_, exec_loop_starts hp ha hi, ?_⟩, fun s d a l hp hd ha hi hpc => ⟨_, exec_sloop_starts hp hd ha hi, ?_⟩⟩
  · have hz := loopCount_eq_zero (s.ctx.read a)
    obtain ⟨_, hbody⟩ := s.ctx.countedBody_eq l
    rw [hbody]
    by_cases h0 : loopCount (s.ctx.read a) = 0
    · rw [if_pos h0]
      exact ⟨loopTop_toNat hpc le_rfl, loopEnd_toNat hpc, fun _ => ⟨afterLoop_toNat hpc, hp.2.1⟩, fun h => absurd (hz.mp h0) h,
        rfl, rfl, rfl, rfl, rfl⟩
    · rw [if_neg h0, Context.mend_eq]
      exact ⟨loopTop_toNat hpc le_rfl, loopEnd_toNat hpc, fun h => absurd (hz.mpr h) h0,
        fun _ => ⟨loopTop_toNat hpc (by decide), loopCount_toNat _, rfl⟩, rfl, rfl, rfl, rfl, rfl⟩
  · have hz := loopCount_eq_zero (s.ctx.read a)
    have hmost : (BitVec.ofNat 15 (stripMost (s.ctx.read d).toNat)).toNat = stripMost (s.ctx.read d).toNat := by
      have := stripMost_le (s.ctx.read d).toNat
      rw [BitVec.toNat_ofNat, Nat.mod_eq_of_lt (by omega)]
    have hbeg : (s.ctx.pc.setWidth 56).toNat = s.ctx.pc.toNat := by
      rw [BitVec.toNat_setWidth, Nat.mod_eq_of_lt (by omega)]
    obtain ⟨_, hbody⟩ := s.ctx.stripBody_eq d a l
    by_cases h0 : loopCount (s.ctx.read a) = 0
    · rw [if_pos h0, hbody]
      exact ⟨hmost, hbeg, rfl, fun _ => ⟨afterLoop_toNat hpc, rfl, h0, rfl, rfl⟩, fun h => absurd (hz.mp h0) h, rfl, rfl⟩
    · obtain ⟨_, hgrant⟩ := (s.ctx.stripBody d a l).grant_eq
      obtain ⟨_, _, _, _, _, hs⟩ := (s.withCtx { (s.ctx.stripBody d a l).grant with pc := BitVec.ofNat 64 s.ctx.loopTop }).stripStarted_ctx
      rw [if_neg h0, hs, State.withCtx_ctx, hgrant, hbody, sub_ofNat_min_toNat, hmost, loopCount_toNat]
      exact ⟨rfl, hbeg, rfl, fun h => absurd (hz.mpr h) h0,
        fun _ => ⟨loopTop_toNat hpc (by decide), loopEnd_toNat hpc, rfl, rfl, rfl⟩, rfl, rfl⟩

end Sys2Proof.Machine
end

section
/-! The conditional branches (R108, R109): O26. -/

namespace Sys2Proof.Machine

/-! ## Branches on a scalar -/

section
variable {s : State} {i : Instr} {a : NameF} {o : BitVec 16} (he : s.ctx.atLoopEnd = false)
include he

theorem condBranch_next {cond : Cond} (ha : isSz a) (hi : s.ctx.intact [a] []) : condBranch i cond a o s = .next
    (if cond.holds (s.ctx.read a) then s.withCtx (s.ctx.branchTo (s.ctx.pc + BitVec.ofInt 64 (4 * o.toInt))) else s.advance) := by
  have hnames : s.ctx.acceptsAll [(clsS, a)] := by simp [Context.acceptsAll, accepts_clsS, ha]
  rw [condBranch, s.finish_require_pass (by simp [he]), checkNames_ok _ _ hnames, except_ok_bind, sound_ok _ _ _ _ hi, except_ok_bind,
    except_pure, State.finish_ok _ _ hi.2.2.2, branchTarget_toInt]

/-! ## Branches on a predicate -/

omit he in
theorem predSound_none {c : Context} {p j n : Nat} (h : ∀ w < n, tabGet false c.bad (512 + 2048 * j + 256 * p + w) = false) :
    c.predSound p j n = none := by
  have hfind : ((List.range n).find? fun w => tabGet false c.bad (512 + 2048 * j + 256 * p + w)) = none := by
    rw [List.find?_eq_none]
    exact fun w hw => by simp [h w (List.mem_range.mp hw)]
  rw [Context.predSound, hfind]
  exact ite_self _

omit he in
theorem predsSound_ok {c : Context} {ps : List NameF} (h : c.predsIntact ps) : c.predsSound ps = .ok () := by
  refine checkBanks_ok _ _ fun j hj => List.flatMap_eq_nil_iff.mpr fun p hp => ?_
  rw [predSound_none (h j hj p hp)]

/-- A branch on a predicate, once the compares it waits for are done. -/
theorem predBranch_next {all : Bool} (ha : isPName a) (hi : s.ctx.intact [] [0x04, 0x0E]) (hp : s.ctx.predsIntact [a]) :
    let u := s.predsReady [a]
    predBranch i all a o s = .next (if (if all then u.ctx.allHold a else u.ctx.anyHolds a) then
      u.withCtx (u.ctx.branchTo (u.ctx.pc + BitVec.ofInt 64 (4 * o.toInt))) else u.advance) := by
  have hnames : s.ctx.acceptsAll [(clsP, a)] := by simp [Context.acceptsAll, accepts_clsP s.ctx a ha]
  rw [predBranch, s.finish_require_pass (by simp [he]), checkNames_ok _ _ hnames, except_ok_bind, sound_ok _ _ _ _ hi, except_ok_bind,
    predsSound_ok hp, except_ok_bind]
  dsimp only
  rw [except_pure, State.finish_ok _ _ hi.2.2.2, branchTarget_toInt]

end

theorem testBit_predBelow (c : Context) (p : NameF) (j e : Nat) :
    (c.predBelow p j).testBit e = (decide (e < c.vl) && ((c.bank j).pred (p.toNat - 16)).getLsbD e) := by
  rw [Context.predBelow, Nat.testBit_mod_two_pow]
  rfl

/-- The predicate below VL is 0 where every bit of it is. -/
theorem predBelow_eq_zero {c : Context} {p : NameF} {j : Nat} :
    c.predBelow p j = 0 ↔ ∀ e < c.vl, ((c.bank j).pred (p.toNat - 16)).getLsbD e = false := by
  refine ⟨fun h e he => ?_, fun h => Nat.eq_of_testBit_eq fun e => ?_⟩
  · have := testBit_predBelow c p j e
    simpa [h, he] using this.symm
  · rw [testBit_predBelow, Nat.zero_testBit]
    by_cases he : e < c.vl <;> simp [he, h]

/-- It is all ones where every bit of it is 1. -/
theorem predBelow_eq_ones {c : Context} {p : NameF} {j : Nat} :
    c.predBelow p j = 2 ^ c.vl - 1 ↔ ∀ e < c.vl, ((c.bank j).pred (p.toNat - 16)).getLsbD e = true := by
  refine ⟨fun h e he => ?_, fun h => Nat.eq_of_testBit_eq fun e => ?_⟩
  · have := testBit_predBelow c p j e
    simpa [h, he] using this.symm
  · rw [testBit_predBelow, Nat.testBit_two_pow_sub_one]
    by_cases he : e < c.vl <;> simp [he, h]

theorem anyHolds_iff {c : Context} {p : NameF} : c.anyHolds p = true ↔
    ∃ j ∈ bankList c.gmBanks, ∃ e < c.vl, ((c.bank j).pred (p.toNat - 16)).getLsbD e = true := by
  simp [Context.anyHolds, predBelow_eq_zero]

theorem allHold_iff {c : Context} {p : NameF} : c.allHold p = true ↔
    ∀ j ∈ bankList c.gmBanks, ∀ e < c.vl, ((c.bank j).pred (p.toNat - 16)).getLsbD e = true := by
  simp [Context.allHold, predBelow_eq_ones]

/-- Settles O26: each code goes where its condition, told by the value or by the bits, sends it. -/
theorem conditionalBranches : Obligations.ConditionalBranches := by
  unfold Obligations.ConditionalBranches
  intro s a o he
  refine ⟨exec_br_taken he o, fun ha hi => ?_, fun ha hi hp => ?_⟩
  · have goes : ∀ (i : Instr) (cond : Cond) (P : Prop) [Decidable P], (cond.holds (s.ctx.read a) = decide P) →
        condBranch i cond a o s = .next
          (if P then s.withCtx (s.ctx.branchTo (s.ctx.pc + BitVec.ofInt 64 (4 * o.toInt))) else s.advance) := fun i cond P _ h => by
      simp only [condBranch_next he ha hi, h, decide_eq_true_eq]
    exact ⟨(exec_bEqz ..).trans (goes _ .eqz _ rfl), (exec_bNez ..).trans (goes _ .nez _ rfl), (exec_bLtz ..).trans (goes _ .ltz _ rfl),
      (exec_bGez ..).trans (goes _ .gez _ rfl), (exec_bGtz ..).trans (goes _ .gtz _ rfl), (exec_bLez ..).trans (goes _ .lez _ rfl)⟩
  · have any := (exec_bAny a o s).trans (predBranch_next (i := .bAny a o) (o := o) (all := false) he ha hi hp)
    have all := (exec_bAll a o s).trans (predBranch_next (i := .bAll a o) (o := o) (all := true) he ha hi hp)
    refine ⟨fun h => any.trans ?_, fun h => any.trans ?_, fun _ h => all.trans ?_, fun h => all.trans ?_, fun h => ?_⟩
    · exact congrArg _ (if_pos (anyHolds_iff.mpr h))
    · exact congrArg _ (if_neg fun hany => by
        obtain ⟨j, hj, e, hlt, hbit⟩ := anyHolds_iff.mp hany
        exact absurd hbit (by simp [h j hj e hlt]))
    · exact congrArg _ (if_pos (allHold_iff.mpr h))
    · obtain ⟨j, hj, e, hlt, hbit⟩ := h
      exact congrArg _ (if_neg fun hall => absurd (allHold_iff.mp hall j hj e hlt) (by simp [hbit]))
    · exact if_neg (by simp [h])

end Sys2Proof.Machine
end

section
/-! What a scalar code changes (R97, R103, R115): O24. -/

namespace Sys2Proof.Machine

/-- A code of scalars alone whose effect is to write D. -/
def State.writesScalar (s : State) (i : Instr) (d : NameF) : Prop :=
  ∃ names reads ctl, ∃ v : Context → Word, exec i s = scalarOp s names reads ctl fun c => c.write d (v c)

/-- One whose effect is to write D and to OR flags into FPSR. -/
def State.writesFloat (s : State) (i : Instr) (d : NameF) : Prop :=
  ∃ names reads ctl, ∃ v : Context → Word × FpFlags, exec i s = scalarOp s names reads ctl fun c => (c.write d (v c).1).orFlags (v c).2

section
variable {s : State} {i : Instr} {d a b : NameF}

theorem constOp_writes {f : Context → Word} (h : exec i s = constOp d s f) : s.writesScalar i d := ⟨_, _, _, _, h⟩
theorem unaryOp_writes {f : Word → Word} (h : exec i s = unaryOp d a s f) : s.writesScalar i d := ⟨_, _, _, _, h⟩
theorem binaryOp_writes {f : Word → Word → Word} (h : exec i s = binaryOp d a b s f) : s.writesScalar i d := ⟨_, _, _, _, h⟩
theorem ternaryOp_writes {f : Word → Word → Word → Word} (h : exec i s = ternaryOp d a b s f) : s.writesScalar i d := ⟨_, _, _, _, h⟩
theorem floatOp_writes {names : List (List NameClass × NameF)} {reads : List NameF} {f : Context → Word × FpFlags}
    (h : exec i s = floatOp d a s names reads f) : s.writesFloat i d := ⟨_, _, _, _, h⟩
theorem floatBinary_writes {op : ScalarFp} {f : Fmt} (h : exec i s = floatBinary op f d a b s) : s.writesFloat i d := floatOp_writes h

end

/-- A scalar code that sets no flags has one of four shapes. -/
theorem scalarDest_writes {i : Instr} {d : NameF} (h : scalarDest i = some d) (hf : setsFlags i = false) (s : State) :
    s.writesScalar i d := by
  cases i <;> simp only [scalarDest, setsFlags, reduceCtorEq, Option.some.injEq] at h hf
  all_goals subst h
  case movi => exact constOp_writes (exec_movi ..)
  case lui => exact constOp_writes (exec_lui ..)
  case addpc => exact constOp_writes (exec_addpc ..)
  case sel => exact ternaryOp_writes (exec_sel ..)
  case bfi => exact ternaryOp_writes (exec_bfi ..)
  case clz => exact unaryOp_writes (exec_clz ..)
  case ctz => exact unaryOp_writes (exec_ctz ..)
  case popc => exact unaryOp_writes (exec_popc ..)
  case bswap => exact unaryOp_writes (exec_bswap ..)
  case extsX8 => exact unaryOp_writes (exec_extsX8 ..)
  case extsX16 => exact unaryOp_writes (exec_extsX16 ..)
  case extsX32 => exact unaryOp_writes (exec_extsX32 ..)
  case extzN8 => exact unaryOp_writes (exec_extzN8 ..)
  case extzN16 => exact unaryOp_writes (exec_extzN16 ..)
  case extzN32 => exact unaryOp_writes (exec_extzN32 ..)
  case addi => exact unaryOp_writes (exec_addi ..)
  case andi => exact unaryOp_writes (exec_andi ..)
  case ori => exact unaryOp_writes (exec_ori ..)
  case xori => exact unaryOp_writes (exec_xori ..)
  case shli => exact unaryOp_writes (exec_shli ..)
  case shri => exact unaryOp_writes (exec_shri ..)
  case sari => exact unaryOp_writes (exec_sari ..)
  case sltsi => exact unaryOp_writes (exec_sltsi ..)
  case sltni => exact unaryOp_writes (exec_sltni ..)
  case fclass => exact unaryOp_writes (exec_fclass ..)
  case add => exact binaryOp_writes (exec_add ..)
  case sub => exact binaryOp_writes (exec_sub ..)
  case and => exact binaryOp_writes (exec_and ..)
  case or => exact binaryOp_writes (exec_or ..)
  case xor => exact binaryOp_writes (exec_xor ..)
  case andn => exact binaryOp_writes (exec_andn ..)
  case shl => exact binaryOp_writes (exec_shl ..)
  case shr => exact binaryOp_writes (exec_shr ..)
  case sar => exact binaryOp_writes (exec_sar ..)
  case rol => exact binaryOp_writes (exec_rol ..)
  case mul => exact binaryOp_writes (exec_mul ..)
  case mulhs => exact binaryOp_writes (exec_mulhs ..)
  case mulhn => exact binaryOp_writes (exec_mulhn ..)
  case divs => exact binaryOp_writes (exec_divs ..)
  case divn => exact binaryOp_writes (exec_divn ..)
  case rems => exact binaryOp_writes (exec_rems ..)
  case remn => exact binaryOp_writes (exec_remn ..)
  case mins => exact binaryOp_writes (exec_mins ..)
  case maxs => exact binaryOp_writes (exec_maxs ..)
  case minn => exact binaryOp_writes (exec_minn ..)
  case maxn => exact binaryOp_writes (exec_maxn ..)
  case seq => exact binaryOp_writes (exec_seq ..)
  case sne => exact binaryOp_writes (exec_sne ..)
  case slts => exact binaryOp_writes (exec_slts ..)
  case sltn => exact binaryOp_writes (exec_sltn ..)
  case sles => exact binaryOp_writes (exec_sles ..)
  case slen => exact binaryOp_writes (exec_slen ..)
  case bfx => exact binaryOp_writes (exec_bfx ..)

/-- A code of R103 has one operand or is a floatBinary. -/
theorem setsFlags_writes {i : Instr} {d : NameF} (h : scalarDest i = some d) (hf : setsFlags i = true) (s : State) :
    s.writesFloat i d := by
  cases i <;> simp only [setsFlags, Bool.false_eq_true, scalarDest, Option.some.injEq] at h hf
  all_goals subst h
  case fsqrt => exact floatOp_writes (exec_fsqrt ..)
  case frsqe => exact floatOp_writes (exec_frsqe ..)
  case frcpe => exact floatOp_writes (exec_frcpe ..)
  case fcvt => exact floatOp_writes (exec_fcvt ..)
  all_goals exact floatBinary_writes rfl

/-- A write touches the scalars and their errors alone. -/
theorem Context.write_eq (c : Context) (d : NameF) (v : Word) : ∃ bd, c.write d v = { c with scalars := (c.write d v).scalars, bad := bd } := by
  unfold Context.write
  split <;> exact ⟨_, rfl⟩

theorem Context.scalars_write_frame (c : Context) (d : NameF) (v : Word) (p : Nat) (h : 32 ≤ d.toNat → p ≠ c.physical d) :
    tabGet 0 (c.write d v).scalars p = tabGet 0 c.scalars p := by
  by_cases hd : 32 ≤ d.toNat
  · exact c.scalars_write_other d v p (h hd)
  · rw [Context.write, if_neg hd]

theorem fpsr_and_or (x fl : FpFlags) : x &&& (x ||| fl) = x := by
  ext k hk
  simp +contextual

theorem Context.orFlags_zero (c : Context) : c.orFlags 0 = c := by
  have h : c.fpsr ||| 0 = c.fpsr := BitVec.or_zero
  rw [Context.orFlags, h]

theorem State.advance_at (s : State) (h : s.ctx.atLoopEnd = false) : s.advance = s.wentOn := by
  obtain ⟨hc, hs⟩ := Context.not_ends_of_atLoopEnd h
  exact s.advance_away hc hs

/-- Away from a loop's end, a write of D with flags leaves the rest as it was. -/
theorem State.wrote_onlyScalar {s : State} (he : s.ctx.atLoopEnd = false) (d : NameF) (v : Word) (fl : FpFlags) :
    let t := (s.withCtx ((s.ctx.write d v).orFlags fl)).advance
    s.onlyScalar t d ∧ t.ctx.fpsr = s.ctx.fpsr ||| fl := by
  obtain ⟨bd, hw⟩ := s.ctx.write_eq d v
  have hs := s.ctx.scalars_write_frame d v
  generalize (s.ctx.write d v).scalars = sc at hw hs
  dsimp only
  rw [hw, State.advance_at (s.withCtx _)]
  · exact ⟨⟨rfl, hs, fun _ => rfl⟩, rfl⟩
  · exact he

/-- Settles O24: a scalar code that does not trap is D's write, with the flags of a floating-point code, and the step to the next word. -/
theorem scalarFrame : Obligations.ScalarFrame := by
  unfold Obligations.ScalarFrame
  intro i d s t hd he ht
  cases hf : setsFlags i with
  | false =>
    obtain ⟨names, reads, ctl, v, hx⟩ := scalarDest_writes hd hf s
    refine (scalarOp_cases s t names reads ctl _ (hx.symm.trans ht)).imp_right fun h => ?_
    obtain ⟨honly, hfl⟩ := State.wrote_onlyScalar he d (v s.ctx) 0
    rw [Context.orFlags_zero, ← h] at honly hfl
    replace hfl := hfl.trans BitVec.or_zero
    exact ⟨honly, fun _ => hfl, by rw [hfl, BitVec.and_self]⟩
  | true =>
    obtain ⟨names, reads, ctl, v, hx⟩ := setsFlags_writes hd hf s
    refine (scalarOp_cases s t names reads ctl _ (hx.symm.trans ht)).imp_right fun h => ?_
    obtain ⟨honly, hfl⟩ := State.wrote_onlyScalar he d (v s.ctx).1 (v s.ctx).2
    rw [← h] at honly hfl
    exact ⟨honly, nofun, by rw [hfl, fpsr_and_or]⟩

end Sys2Proof.Machine
end

section
/-! The masks of FCMP and FCLASS (R105, R107), from signs and magnitudes: O23. -/

namespace Sys2Proof.Machine

/-! ## The order of numbers (R63) -/

/-- The place of a sign and a magnitude among the numbers, both zeros equal. -/
abbrev numberKey (g : Bool) (m : Nat) : Int := if g then -(m : Int) else m

/-- Two zeros apart, an order without zeros' signs is the order below. -/
theorem ltVal_eq_below (x y : FVal) : ltVal x y = (FVal.below x y && !(x.isZero && y.isZero)) := by
  have hz : x.isZero = true → y.isZero = true → ltVal x y = false := by
    cases x <;> cases y <;> simp +contextual [FVal.isZero, ltVal]
  rw [FVal.below]
  cases hx : x.isZero <;> cases hy : y.isZero <;> simp
  exact hz hx hy

/-- The zeros' signs apart, both orders are one. -/
theorem orderKey_apart (g h : Bool) (p q : Nat) :
    (decide (orderKey g p < orderKey h q) && !(decide (p = 0) && decide (q = 0))) = decide (numberKey g p < numberKey h q) := by
  rw [Bool.eq_iff_iff]
  cases g <;> cases h <;> simp [orderKey, numberKey] <;> omega

section numbers
variable {f : Fmt} (hf : f.Binary) {fz : Bool}
include hf

omit hf in
theorem Fmt.flushed_eq_zero (f : Fmt) (m : Nat) : f.flushed fz m = 0 ↔ f.zeroMag fz m := by
  unfold Fmt.flushed
  split
  · next hz => exact iff_of_true rfl hz
  · next hz => exact iff_of_false (fun e => hz (.inl e)) hz

theorem Fmt.Binary.number_isZero (g : Bool) {m : Nat} (hm : m ≤ f.infinity) :
    (f.number fz g m).isZero = decide (f.flushed fz m = 0) := by
  rw [show decide (f.flushed fz m = 0) = decide (f.zeroMag fz m) from decide_eq_decide.mpr (f.flushed_eq_zero m)]
  rcases Nat.lt_or_eq_of_le hm with hlt | heq
  · obtain ⟨n, e, hn, hz⟩ := hf.number_finite g hlt
    rw [hn, ← decide_eq_decide.mpr hz]
    rfl
  · rw [f.number_inf fz g heq, decide_eq_false fun hz => absurd (hf.zeroMag_finite hz) (by omega)]
    rfl

theorem Fmt.Binary.ltVal_number (g h : Bool) {m n : Nat} (hm : m ≤ f.infinity) (hn : n ≤ f.infinity) :
    ltVal (f.number fz g m) (f.number fz h n) = decide (numberKey g (f.flushed fz m) < numberKey h (f.flushed fz n)) := by
  rw [ltVal_eq_below, hf.below_number g h hm hn, hf.number_isZero g hm, hf.number_isZero h hn]
  exact orderKey_apart g h _ _

/-- The mask of a comparison (R105). -/
def Fmt.compareMask (f : Fmt) (fz g h : Bool) (m n : Nat) : Word :=
  if f.infinity < m ∨ f.infinity < n then 8
  else if numberKey g (f.flushed fz m) < numberKey h (f.flushed fz n) then 1
  else if numberKey g (f.flushed fz m) = numberKey h (f.flushed fz n) then 2 else 4

theorem Fmt.Binary.relMask_number (g h : Bool) (m n : Nat) :
    BitVec.ofNat 64 (relMask (cmpVal (f.number fz g m) (f.number fz h n)).1) = f.compareMask fz g h m n := by
  rw [cmpVal, Fmt.compareMask, f.number_isNan, f.number_isNan]
  by_cases hnan : f.infinity < m ∨ f.infinity < n
  · rw [if_pos hnan, if_pos (by simpa using hnan)]
    rfl
  · obtain ⟨hm, hn⟩ := not_or.mp hnan
    rw [if_neg hnan, if_neg (by simpa using hnan), hf.ltVal_number g h (Nat.not_lt.mp hm) (Nat.not_lt.mp hn),
      hf.ltVal_number h g (Nat.not_lt.mp hn) (Nat.not_lt.mp hm)]
    generalize numberKey g (f.flushed fz m) = x, numberKey h (f.flushed fz n) = y
    rcases lt_trichotomy x y with hlt | rfl | hgt
    · simp [hlt, relMask]
    · simp [relMask]
    · simp [hgt, Int.not_lt.mpr (Int.le_of_lt hgt), Int.ne_of_gt hgt, relMask]

omit hf in
/-- FCMP sets NV for a signalling NaN alone. -/
theorem Fmt.compare_flags (f : Fmt) (fz g h : Bool) (m n : Nat) :
    (cmpVal (f.number fz g m) (f.number fz h n)).2 = f.quiet m ||| f.quiet n := by
  have hquiet : ∀ {k}, ¬ f.infinity < k → f.quiet k = 0 := fun hk => if_neg fun e => hk e.1
  rw [cmpVal, f.number_isNan, f.number_isNan]
  by_cases hnan : f.infinity < m ∨ f.infinity < n
  · rw [if_pos (by simpa using hnan), ← f.number_quiet fz g, ← f.number_quiet fz h, ← flagIf_or]
  · obtain ⟨hm, hn⟩ := not_or.mp hnan
    rw [if_neg (by simpa using hnan), hquiet hm, hquiet hn]
    split
    · rfl
    · split <;> rfl

/-! ## Classes (R107) -/

omit hf in
theorem Fmt.number_isSubnormal (f : Fmt) (g : Bool) {m : Nat} (h0 : m ≠ 0) (hm : m < f.infinity) :
    (f.number false g m).isSubnormal f = decide (m < 2 ^ f.frac) := by
  have hem : f.emin = 1 - f.bias := rfl
  rw [f.number_fin g (by simp [h0]) hm, FVal.isSubnormal, bne_iff_ne.mpr (f.sig_ne_zero h0), Bool.true_and, decide_eq_decide]
  rcases Nat.lt_or_ge m (2 ^ f.frac) with hs | hs
  · have hl : log2 m < f.frac := (Nat.log2_lt h0).mpr hs
    rw [f.sig_subnormal m hs, f.exp_subnormal m hs]
    exact iff_of_true (by omega) hs
  · have h1 : 1 ≤ m / 2 ^ f.frac := (Nat.one_le_div_iff (Nat.two_pow_pos _)).mpr hs
    rw [f.log2_sig m hs, f.exp_normal m hs]
    exact iff_of_false (by omega) (Nat.not_lt.mpr hs)

/-- The mask of a class (R107). -/
def Fmt.classOf (f : Fmt) (g : Bool) (m : Nat) : Word :=
  if f.infinity < m then (if f.infinity < m ∧ m % 2 ^ f.frac < 2 ^ (f.frac - 1) then 256 else 512)
  else if m = f.infinity then (if g then 1 else 128)
  else if m = 0 then (if g then 8 else 16)
  else if m < 2 ^ f.frac then (if g then 4 else 32)
  else if g then 2 else 64

theorem Fmt.Binary.half_unit : 2 ^ f.frac / 2 = 2 ^ (f.frac - 1) := by
  rw [hf.frac_pow, Nat.mul_div_cancel_left _ two_pos]

theorem Fmt.Binary.classMask_number (g : Bool) (m : Nat) : BitVec.ofNat 64 (classMask f (f.number false g m)) = f.classOf g m := by
  rw [Fmt.classOf]
  by_cases hnan : f.infinity < m
  · rw [if_pos hnan, f.number_nan false g hnan, hf.half_unit]
    by_cases hsig : m % 2 ^ f.frac < 2 ^ (f.frac - 1) <;> simp [classMask, hnan, hsig]
  · rw [if_neg hnan]
    by_cases hinf : m = f.infinity
    · rw [if_pos hinf, f.number_inf false g hinf]
      cases g <;> rfl
    · have hlt : m < f.infinity := by omega
      rw [if_neg hinf]
      by_cases h0 : m = 0
      · obtain ⟨e, he⟩ := hf.number_zero (fz := false) g (.inl h0)
        rw [if_pos h0, he]
        cases g <;> rfl
      · have hsub := f.number_isSubnormal g h0 hlt
        rw [f.number_fin g (by simp [h0]) hlt] at hsub ⊢
        rw [if_neg h0, classMask, if_neg (f.sig_ne_zero h0), hsub]
        by_cases hs : m < 2 ^ f.frac <;> cases g <;> simp [hs]

end numbers

/-! ## The codes -/

theorem eval_cmp {f : Fmt} (hf : f.wide) (mode : RMode) (fz : Bool) (a b d : Word) : ScalarFp.cmp.eval f mode fz a b d =
    (BitVec.ofNat 64 (relMask (cmpVal (f.operand fz a) (f.operand fz b)).1), (cmpVal (f.operand fz a) (f.operand fz b)).2) := by
  rw [ScalarFp.eval, scalarIn_eq hf, scalarIn_eq hf]

theorem flushIn_off (f : Fmt) (x : FVal) : flushIn f false x = x := rfl

theorem classScalar_eq {f : Fmt} (hf : f.wide) (a : Word) : classScalar f a = BitVec.ofNat 64 (classMask f (f.operand false a)) := by
  rw [Fmt.operand, ← scalarIn_eq hf, scalarIn, flushIn_off]
  rfl

section codes
variable {s : State} {d a b : NameF} (hd : isSz d) (ha : isSz a) (hb : isSz b) (hi : s.ctx.intact [a, b] [0x00, 0x01] [d])
include hd ha hb hi

theorem floatBinary_cmp_next (f : Fmt) : floatBinary .cmp f d a b s = .next (s.wroteFp d
    (ScalarFp.cmp.eval f (RMode.ofBits s.ctx.rm.toNat) s.ctx.fz (s.ctx.read a) (s.ctx.read b) (s.ctx.read d))) := by
  rw [floatBinary, if_neg (by decide)]
  exact floatOp_next _ _ _ _ _ _ (by simp [Context.acceptsAll, accepts_clsS, hd, ha, hb]) (hi.names (by simp))

theorem exec_fcmp (dbl : Bool) : exec (if dbl then .fcmpD d a b else .fcmpS d a b) s = .next (s.wroteFp d
    (ScalarFp.cmp.eval (fmtOf dbl) (RMode.ofBits s.ctx.rm.toNat) s.ctx.fz (s.ctx.read a) (s.ctx.read b) (s.ctx.read d))) := by
  cases dbl
  · exact (exec_fcmpS ..).trans (floatBinary_cmp_next hd ha hb hi .f32)
  · exact (exec_fcmpD ..).trans (floatBinary_cmp_next hd ha hb hi .f64)

omit hb in
theorem exec_fclass_next (dbl : Bool) : exec (.fclass d a dbl) s = .next (s.wrote d (classScalar (fmtOf dbl) (s.ctx.read a))) := by
  obtain ⟨hnames, -, hwin, hloop⟩ := hi
  have hi' : s.ctx.intact [a] [] [d] := ⟨fun n hn => hnames n (by simp_all), fun _ h => absurd h List.not_mem_nil,
    fun ⟨n, hn, h⟩ => hwin ⟨n, by simp at hn ⊢; tauto, h⟩, hloop⟩
  exact (exec_fclass ..).trans (unaryOp_next d a s _ hd ha hi')

end codes

/-- FZ and a 0 make one zero magnitude (R60). -/
theorem Fmt.flushed_eq (f : Fmt) (fz : Bool) (m : Nat) : f.flushed fz m = if fz = true ∧ m < 2 ^ f.frac then 0 else m := by
  unfold Fmt.flushed
  by_cases h0 : m = 0
  · rw [if_pos (.inl h0), h0, ite_self]
  · simp only [Fmt.zeroMag, h0, false_or]

theorem numberKey_flushed (f : Fmt) (fz g : Bool) (m : Nat) :
    numberKey g (f.flushed fz m) = let k : Int := if fz = true ∧ m < 2 ^ f.frac then 0 else m; if g then -k else k := by
  rw [f.flushed_eq, numberKey, apply_ite (Nat.cast : Nat → Int)]
  rfl

/-- Settles O23: the masks and flags of the codes, from their operands' signs and magnitudes. -/
theorem floatMasks : Obligations.FloatMasks := by
  unfold Obligations.FloatMasks
  intro s d a b dbl hd ha hb hi f infinity mag neg number signalling
  have hw : f.wide := fmtOf_wide dbl
  have hf := hw.binary
  have hfmt : fmtOf dbl = f := rfl
  have hnumber : ∀ n, number n = numberKey (neg n) (f.flushed s.ctx.fz (mag n)) := fun n => (numberKey_flushed f _ _ _).symm
  have hquiet : ∀ n, f.quiet (mag n) = if signalling n then flagNV else 0 := fun n => by rw [Fmt.quiet, hf.half_unit]
  refine ⟨(exec_fcmp hd ha hb hi dbl).trans ?_, (exec_fclass_next hd ha hi dbl).trans ?_⟩
  · have hflags : f.quiet (mag a) ||| f.quiet (mag b) = if signalling a ∨ signalling b then flagNV else 0 := by
      rw [hquiet, hquiet]
      by_cases h1 : signalling a <;> by_cases h2 : signalling b <;> simp [h1, h2]
    rw [hfmt, eval_cmp hw, hf.relMask_number, f.compare_flags, hflags, hnumber, hnumber]
    rfl
  · rw [hfmt, classScalar_eq hw, hf.classMask_number]
    rfl

end Sys2Proof.Machine
end

section
/-! TRACE and EXIT (R123, R211, R229, R248, R250): O42. -/

namespace Sys2Proof.Machine

/-! ## The banks' work before an EXIT -/

/-- Work of the banks leaves the copy slots, memory and the stores on their way as they were. -/
structure State.drains (s t : State) : Prop where
  ctx : s.ctx.primes t.ctx
  mem : t.mem = s.mem
  posted : t.posted = s.posted
  regions : t.regions = s.regions
  slots : ∀ k, (t.core k).slots = (s.core k).slots

theorem State.drains.refl (s : State) : s.drains s := ⟨.refl _, rfl, rfl, rfl, fun _ => rfl⟩

theorem State.drains.trans {s t u : State} (h : s.drains t) (k : t.drains u) : s.drains u :=
  ⟨h.ctx.trans k.ctx, k.mem.trans h.mem, k.posted.trans h.posted, k.regions.trans h.regions, fun n => (k.slots n).trans (h.slots n)⟩

theorem State.forceSlot_drains (s : State) (core j : Nat) : s.drains (s.forceSlot core j) := by
  have hrest : (s.forceSlot core j).posted = s.posted ∧ (s.forceSlot core j).regions = s.regions := by
    unfold State.forceSlot
    split
    · dsimp only
      split <;> exact ⟨rfl, rfl⟩
    · exact ⟨rfl, rfl⟩
  refine ⟨(s.forceSlot_primes [] core j).ctx, s.forceSlot_mem core j, hrest.1, hrest.2, fun k => ?_⟩
  rw [State.forceSlot_core]
  split
  · next h => rw [h.1]; rfl
  · rfl

theorem State.forceSlots_drains (s : State) (core : Nat) (js : List Nat) : s.drains (js.foldl (fun t j => t.forceSlot core j) s) := by
  induction js generalizing s with
  | nil => exact .refl s
  | cons j js ih => exact (s.forceSlot_drains core j).trans (ih _)

theorem CoreRec.refreshes_slots (r : CoreRec) (j n : Nat) : (r.refreshes j n).slots = r.slots := by
  induction n generalizing r with
  | zero => rfl
  | succ n ih => exact ih _

theorem CoreRec.performRefs_slots (r : CoreRec) (j : Nat) (es : List (Nat × Bool)) : (r.performRefs j es).slots = r.slots := by
  induction es generalizing r with
  | nil => rfl
  | cons e es ih => exact (ih _).trans (r.refreshes_slots j _)

theorem CoreRec.serveRef_slots (r : CoreRec) (j : Nat) : (r.serveRef j).slots = r.slots := r.performRefs_slots j _

theorem State.serveRefs_drains (s : State) (core : Nat) (js : List Nat) : s.drains (s.serveRefs core js) := by
  unfold State.serveRefs
  dsimp only
  split
  · exact .refl s
  · refine (s.forceSlots_drains core _).trans ⟨.refl _, rfl, rfl, rfl, fun k => ?_⟩
    rw [State.core_setCore]
    split
    · next h =>
      subst h
      exact foldl_keeps _ CoreRec.slots CoreRec.serveRef_slots _ _
    · rfl

theorem State.drainedIn_drains (s : State) (js : List Nat) : s.drains (s.drainedIn js) := by
  refine ((s.forceSlots_drains s.ctx.core js).trans ?_).trans (State.serveRefs_drains _ _ js)
  exact ⟨(Context.drain_lanesOnly _ _ _).banks.primes, rfl, rfl, rfl, fun _ => rfl⟩

section
variable {s t : State} (h : s.drains t)
include h

theorem State.drains.owned (k id : Nat) : t.ownedSlots k id = s.ownedSlots k id := by
  rw [State.ownedSlots, h.slots, State.ownedSlots]

theorem State.drains.slot (k n : Nat) : t.slot k n = s.slot k n := by
  rw [State.slot, CoreRec.slot, h.slots]
  rfl

theorem State.drains.running : t.anyRunning = s.anyRunning := by
  obtain ⟨_, _, _, _, hc⟩ := h.ctx
  simp only [State.anyRunning, h.owned, h.slot, hc]

theorem State.drains.postedBy (id : Nat) : t.postedBy id = s.postedBy id := by
  rw [State.postedBy, h.posted, State.postedBy]

end

/-! ## Cancelled copies (R250) -/

theorem State.locOf_of_regions {s t : State} (h : t.regions = s.regions) (pa : Nat) : t.locOf pa = s.locOf pa := by
  unfold State.locOf State.regionOf
  rw [h]

theorem State.sectorsAbove_of_regions {s t : State} (h : t.regions = s.regions) (q : CopySlot) : t.sectorsAbove q = s.sectorsAbove q := by
  simp only [State.sectorsAbove, State.locOf_of_regions h]

theorem State.slot_setSlot (s : State) (core n m : Nat) (q : CopySlot) : (s.setSlot core n q).slot core m = if m = n then q else s.slot core m := by
  rw [State.slot, CoreRec.slot, State.setSlot, State.core_setCore, if_pos rfl]
  exact tabGet_tabSet ..

/-- What the decompressors' queues and the remembered bytes are no part of. -/
def State.besides (s : State) : Context × List Host.Cell × List Posted × Tab Region × Tab SectorMark × Tab CoreRec :=
  (s.ctx, s.mem, s.posted, s.regions, s.marks, s.cores)

theorem State.leaveQueues_besides (s : State) (gone : Nat × Nat → Bool) : (s.leaveQueues gone).besides = s.besides := by
  unfold State.leaveQueues
  refine foldl_keeps _ State.besides ?_ _ s
  intro t e
  rfl

theorem State.dropMurk_besides (s : State) : s.dropMurk.besides = s.besides := by
  unfold State.dropMurk
  split <;> rfl

/-- Sectors, marked cancelled one after another. -/
theorem tabGet_cancels (xs : List Nat) (m : Tab SectorMark) (y : Nat) :
    tabGet SectorMark.clean (xs.foldl (fun m q => tabPut m q .cancelled) m) y = if y ∈ xs then .cancelled else tabGet .clean m y := by
  induction xs generalizing m with
  | nil => simp
  | cons x xs ih =>
    rw [List.foldl_cons, ih, tabGet_tabPut]
    by_cases hx : y = x <;> by_cases hy : y ∈ xs <;> simp [hx, hy]

/-- Some slots of a core have been cancelled, their sectors marked, with memory as it was. -/
structure State.cancels (core : Nat) (s t : State) : Prop where
  mem : t.mem = s.mem
  regions : t.regions = s.regions
  marks : ∀ x, tabGet SectorMark.clean s.marks x = .cancelled → tabGet SectorMark.clean t.marks x = .cancelled
  slots : ∀ m, t.slot core m = s.slot core m ∨ ((t.slot core m).state = 4 ∧ (t.slot core m).ahead = [] ∧
    ∀ x ∈ s.sectorsAbove (s.slot core m), tabGet SectorMark.clean t.marks x = .cancelled)

theorem State.cancels.refl (core : Nat) (s : State) : s.cancels core s := ⟨rfl, rfl, fun _ h => h, fun _ => .inl rfl⟩

theorem State.cancels.trans {core : Nat} {s t u : State} (h : s.cancels core t) (k : t.cancels core u) : s.cancels core u := by
  refine ⟨k.mem.trans h.mem, k.regions.trans h.regions, fun x hx => k.marks x (h.marks x hx), fun m => ?_⟩
  rcases h.slots m with hst | ⟨h4, ha, hm⟩
  · rcases k.slots m with htu | ⟨h4, ha, hm⟩
    · exact .inl (htu.trans hst)
    · rw [State.sectorsAbove_of_regions h.regions, hst] at hm
      exact .inr ⟨h4, ha, hm⟩
  · rcases k.slots m with htu | ⟨h4', ha', -⟩
    · rw [htu]
      exact .inr ⟨h4, ha, fun x hx => k.marks x (hm x hx)⟩
    · exact .inr ⟨h4', ha', fun x hx => k.marks x (hm x hx)⟩

/-- What a cancel leaves, where the slot was in use. -/
theorem State.cancelSlot_eq (s : State) (core n : Nat) (h : (s.slot core n).state = 1 ∨ (s.slot core n).state = 2) :
    ∃ q : CopySlot, q.state = 4 ∧ q.ahead = [] ∧ (s.cancelSlot core n).besides = State.besides (State.setSlot { s.settleAhead (s.slot core n) with
      marks := (s.sectorsAbove (s.slot core n)).foldl (fun m q => tabPut m q .cancelled) (s.settleAhead (s.slot core n)).marks } core n q) := by
  unfold State.cancelSlot
  rw [if_pos h]
  exact ⟨_, rfl, rfl, (State.dropMurk_besides _).trans (State.leaveQueues_besides _ _)⟩

theorem State.cancelSlot_unused (s : State) (core n : Nat) (h : ¬((s.slot core n).state = 1 ∨ (s.slot core n).state = 2)) :
    s.cancelSlot core n = s := if_neg h

theorem State.slot_of_cores {s t : State} (h : t.cores = s.cores) (core n : Nat) : t.slot core n = s.slot core n := by
  rw [State.slot, State.core, h]
  rfl

/-- The cancel of a slot of which nothing is half landed marks its sectors. -/
theorem State.cancelSlot_cancels (s : State) (core n : Nat) (ha : (s.slot core n).ahead = []) : s.cancels core (s.cancelSlot core n) ∧
    ((s.slot core n).state = 2 → ∀ x ∈ s.sectorsAbove (s.slot core n), tabGet SectorMark.clean (s.cancelSlot core n).marks x = .cancelled) := by
  by_cases hst : (s.slot core n).state = 1 ∨ (s.slot core n).state = 2
  · obtain ⟨q, h4, hq, hb⟩ := s.cancelSlot_eq core n hst
    rw [show s.settleAhead (s.slot core n) = s from if_pos ha] at hb
    simp only [State.besides, Prod.mk.injEq] at hb
    obtain ⟨-, hmem, -, hreg, hmarks, hcores⟩ := hb
    have hget := tabGet_cancels (s.sectorsAbove (s.slot core n)) s.marks
    rw [hmarks]
    refine ⟨⟨hmem, hreg, fun x hx => ?_, fun m => ?_⟩, fun _ x hx => ?_⟩
    · rw [hmarks, State.setSlot_marks, hget, hx, ite_self]
    · rw [State.slot_of_cores hcores, State.slot_setSlot]
      split
      · next hm =>
        subst hm
        refine .inr ⟨h4, hq, fun x hx => ?_⟩
        rw [hmarks, State.setSlot_marks, hget, if_pos hx]
      · exact .inl rfl
    · rw [State.setSlot_marks, hget, if_pos hx]
  · rw [State.cancelSlot_unused _ _ _ hst]
    exact ⟨.refl core s, fun h2 => absurd (.inr h2) hst⟩

/-- So the cancels of several. -/
theorem State.cancelSlots_cancels (core : Nat) (ns : List Nat) (s : State) (ha : ∀ n ∈ ns, (s.slot core n).ahead = []) :
    s.cancels core (ns.foldl (fun t n => t.cancelSlot core n) s) ∧ ∀ n ∈ ns, (s.slot core n).state = 2 →
      ∀ x ∈ s.sectorsAbove (s.slot core n), tabGet SectorMark.clean (ns.foldl (fun t n => t.cancelSlot core n) s).marks x = .cancelled := by
  induction ns generalizing s with
  | nil => exact ⟨.refl core s, fun n hn => absurd hn List.not_mem_nil⟩
  | cons n ns ih =>
    obtain ⟨h1, hmark⟩ := s.cancelSlot_cancels core n (ha n List.mem_cons_self)
    obtain ⟨h2, hmarks⟩ := ih (s.cancelSlot core n) fun m hm => (h1.slots m).elim
      (fun h => h ▸ ha m (List.mem_cons_of_mem _ hm)) fun h => h.2.1
    refine ⟨h1.trans h2, fun m hm hst x hx => ?_⟩
    rcases h1.slots m with heq | ⟨-, -, hdone⟩
    · rcases List.mem_cons.mp hm with rfl | hm
      · exact h2.marks x (hmark hst x hx)
      · refine hmarks m hm (heq ▸ hst) x ?_
        rwa [State.sectorsAbove_of_regions h1.regions, heq]
    · exact h2.marks x (hdone x hx)

/-! Of a slot with bytes half landed: those land or not, and no store is sent. -/

theorem State.corrected_posted (s : State) (l n : Nat) : (s.corrected l n).posted = s.posted := by
  unfold State.corrected
  split <;> rfl

theorem State.rewritten_posted (s : State) (l n : Nat) : (s.rewritten l n).posted = s.posted := by
  unfold State.rewritten
  split
  · rfl
  · refine foldl_keeps _ State.posted (fun t k => ?_) _ s
    split
    · rfl
    · exact t.corrected_posted _ _

theorem State.wakeBucket_posted (s : State) (l : Nat) : (s.wakeBucket l).posted = s.posted := by
  unfold State.wakeBucket
  dsimp only
  split <;> rfl

theorem State.wakeBuckets_posted (s : State) (l n : Nat) : (s.wakeBuckets l n).posted = s.posted := by
  unfold State.wakeBuckets
  split
  · exact foldl_keeps _ State.posted (fun t _ => t.wakeBucket_posted _) _ _
  · rfl

theorem State.writeLoc_posted (s : State) (l n v : Nat) : (s.writeLoc l n v).posted = s.posted :=
  (State.wakeBuckets_posted _ l n).trans (s.rewritten_posted l n)

theorem State.settleAhead_posted (s : State) (q : CopySlot) : (s.settleAhead q).posted = s.posted := by
  unfold State.settleAhead
  split
  · rfl
  · refine foldl_keeps _ State.posted (fun t p => foldl_keeps _ State.posted (fun u j => ?_) _ t) _ s
    split
    · dsimp only
      split
      · rfl
      · exact u.writeLoc_posted _ _ _
    · rfl

theorem State.settleAhead_woken (s : State) (q : CopySlot) : s.ctx.Woken (s.settleAhead q).ctx := by
  unfold State.settleAhead
  split
  · exact .refl _
  · refine foldl_woken _ (fun t p => foldl_woken _ (fun u j => ?_) _ t) _ s
    split
    · dsimp only
      split
      · exact .refl _
      · exact u.writeLoc_woken _ _ _
    · exact .refl _

theorem State.cancelSlot_rest (s : State) (core n : Nat) : s.ctx.Woken (s.cancelSlot core n).ctx ∧ (s.cancelSlot core n).posted = s.posted := by
  by_cases hst : (s.slot core n).state = 1 ∨ (s.slot core n).state = 2
  · obtain ⟨_, -, -, hb⟩ := s.cancelSlot_eq core n hst
    simp only [State.besides, Prod.mk.injEq] at hb
    obtain ⟨hctx, -, hposted, -⟩ := hb
    rw [hctx, hposted]
    exact ⟨s.settleAhead_woken _, s.settleAhead_posted _⟩
  · rw [State.cancelSlot_unused _ _ _ hst]
    exact ⟨.refl _, rfl⟩

theorem State.cancelSlots_rest (core : Nat) (ns : List Nat) (s : State) :
    s.ctx.Woken (ns.foldl (fun t n => t.cancelSlot core n) s).ctx ∧ (ns.foldl (fun t n => t.cancelSlot core n) s).posted = s.posted :=
  ⟨foldl_woken _ (fun t n => (t.cancelSlot_rest core n).1) _ s, foldl_keeps _ State.posted (fun t n => (t.cancelSlot_rest core n).2) _ s⟩

/-! ## The end of a stream (R123) -/

theorem State.freeSlots_besides (s : State) (core id : Nat) : (s.freeSlots core id).marks = s.marks ∧
    (s.freeSlots core id).ownedSlots core id = [] := by
  unfold State.freeSlots
  extract_lets r gone s1
  have hb : ((s1.leaveQueues fun e => gone.contains e).dropMurk).besides = s1.besides :=
    (State.dropMurk_besides _).trans (s1.leaveQueues_besides _)
  simp only [State.besides, Prod.mk.injEq] at hb
  obtain ⟨-, -, -, -, hmarks, hcores⟩ := hb
  refine ⟨hmarks, ?_⟩
  have hslots : (s1.core core).slots = r.slots.filter fun e => decide (e.2.owner ≠ some id) := by
    rw [State.core_setCore, if_pos rfl]
  rw [State.ownedSlots, State.core, hcores, List.map_eq_nil_iff, List.filter_eq_nil_iff]
  intro e he
  replace he : e ∈ r.slots.filter fun e => decide (e.2.owner ≠ some id) := hslots ▸ he
  simpa using (List.mem_filter.mp he).2

theorem State.endContext_slots (s : State) (lost : Bool) : (s.endContext s.ctx.id lost).marks = s.marks ∧
    (s.endContext s.ctx.id lost).ownedSlots s.ctx.core s.ctx.id = [] := by
  have hreport : ∀ (t : State) seq, (t.reportDone seq lost).besides = t.besides := fun t seq => by
    unfold State.reportDone
    split <;> rfl
  obtain ⟨hmarks, howned⟩ := s.freeSlots_besides s.ctx.core s.ctx.id
  have hfind : s.findCtx s.ctx.id = some s.ctx := if_pos rfl
  unfold State.endContext
  rw [hfind]
  dsimp only
  have hb := hreport (State.updCtx { s.freeSlots s.ctx.core s.ctx.id with
    pokes := (s.freeSlots s.ctx.core s.ctx.id).pokes.filter fun p => decide (p.ctx ≠ s.ctx.id) } s.ctx.id
    fun c => { Context.reset with id := c.id, place := .ended }) s.ctx.seq
  simp only [State.besides, Prod.mk.injEq] at hb
  obtain ⟨-, -, -, -, hm, hcores⟩ := hb
  refine ⟨hm.trans hmarks, ?_⟩
  rw [State.ownedSlots, State.core, hcores]
  exact howned

/-! ## The last EXIT -/

/-- The copies that are still faulted, cancelled. -/
def State.cancelOwned (s : State) : State := (s.ownedSlots s.ctx.core s.ctx.id).foldl (fun t n => t.cancelSlot s.ctx.core n) s

theorem State.cancelOwned_rest (s : State) : s.ctx.Woken s.cancelOwned.ctx ∧ s.cancelOwned.posted = s.posted :=
  State.cancelSlots_rest _ _ s

section
variable {s : State} (hsib : s.ctx.sib = none)
include hsib

/-- EXIT waits for a copy that runs, and for one whose fault is still to be taken. -/
theorem exec_exit_waits (h : s.anyRunning = true ∨ (s.ctx.ad || decide (s.ctx.pend11 = 0)) = false) : exec .exit s = .next s.hold := by
  have hdr := s.drainedIn_drains (bankList s.ctx.gmBanks)
  have hrun := hdr.running
  obtain ⟨_, _, _, _, hc⟩ := hdr.ctx
  rw [exec_exit, execExit]
  generalize s.drainedIn (bankList s.ctx.gmBanks) = s1 at hc hrun ⊢
  dsimp only
  rw [show s1.ctx.sib = none by rw [hc]; exact hsib]
  dsimp only
  cases s1.ctx.working with
  | true => rfl
  | false =>
    rcases h with h | h
    · rw [hrun, h]
      rfl
    · rw [show (s1.ctx.ad || decide (s1.ctx.pend11 = 0)) = false by rw [hc]; exact h]
      cases s1.anyRunning <;> rfl

/-- The EXIT of a stream that waits for nothing ends it. -/
theorem exec_exit_ends (hw : s.ctx.working = false) (hr : s.anyRunning = false) (hp : s.ctx.ad = true ∨ s.ctx.pend11 = 0)
    (hi : s.ctx.loopError = none) (hb : s.postedBy s.ctx.id = false) :
    exec .exit s = .next ((s.drainedIn (bankList s.ctx.gmBanks)).cancelOwned.endContext s.ctx.id false) := by
  have hdr := s.drainedIn_drains (bankList s.ctx.gmBanks)
  have hrun := hdr.running.trans hr
  have hpost := hdr.postedBy s.ctx.id
  obtain ⟨_, _, _, _, hc⟩ := hdr.ctx
  rw [exec_exit, execExit]
  generalize s.drainedIn (bankList s.ctx.gmBanks) = s1 at hc hrun hpost ⊢
  have hid : s1.ctx.id = s.ctx.id := by rw [hc]
  have hpost2 : s1.cancelOwned.postedBy s.ctx.id = false := by
    rw [State.postedBy, s1.cancelOwned_rest.2]
    exact hpost.trans hb
  dsimp only
  rw [show s1.ctx.sib = none by rw [hc]; exact hsib]
  dsimp only
  rw [show s1.ctx.working = false by rw [hc]; exact hw, hrun, show (s1.ctx.ad || decide (s1.ctx.pend11 = 0)) = true by rw [hc]; simpa using hp]
  have hfold : (s1.ownedSlots s1.ctx.core s.ctx.id).foldl (fun t n => t.cancelSlot s1.ctx.core n) s1 = s1.cancelOwned := by
    rw [← hid]
    rfl
  simp only [Bool.not_false, waitUnless_true, except_ok_bind, hid, hfold, hpost2, Bool.false_eq_true, if_false, Bool.false_and]
  exact s.finish_ok _ hi

end

/-! ## The EXIT of a sub-gang (R211) -/

/-- The boundary of a loop moves the pc, the loops' counters and the shape, and it ends waits. -/
theorem State.advance_frame (s : State) : ∃ pc lc lp nr nc sr so se bd p st n b h a d i, s.advance.ctx = { s.ctx with
    pc := pc, lc := lc, lcPend := lp, nrow := nr, ncol := nc, srem := sr, sord := so, send := se, bad := bd
    parked := p, stall := st, since := n, sib := b, haltReq := h, asking := a, detentWait := d, inv := i } := by
  obtain ⟨_, _, _, _, _, _, _, _, ha⟩ := s.advance_ctx
  obtain ⟨_, _, _, _, _, _, _, _, _, hb⟩ := s.ctx.boundary_ctx
  rw [ha, hb]
  exact ⟨_, _, _, _, _, _, _, _, _, _, _, _, _, _, _, _, _, rfl⟩

theorem Context.wakeIf_alone (c : Context) (now : Nat) (p : Nat → Bool) (h : c.sib = none) : (c.wakeIf now p).sib = none := by
  unfold Context.wakeIf
  dsimp only
  split <;> simp [h]

/-- A stream of one gang stays one. -/
theorem State.advance_alone (s : State) (h : s.ctx.sib = none) : s.advance.ctx.sib = none := by
  obtain ⟨_, _, _, _, _, _, _, _, _, hb⟩ := s.ctx.boundary_ctx
  have hs : s.ctx.boundary.1.sib = none := by rw [hb]; exact h
  unfold State.advance
  dsimp only
  split
  · exact State.emitTrace_keepsCtx (fun c => c.sib = none) Context.wakeIf_alone _ _ _ _ _ hs
  · exact hs

theorem Context.dropBanks_eq (c : Context) (js : List Nat) : ∃ bs, c.dropBanks js = { c with banks := bs } := by
  unfold Context.dropBanks
  induction js generalizing c with
  | nil => exact ⟨c.banks, rfl⟩
  | cons j js ih => exact ih { c with banks := tabErase c.banks j }

theorem Context.exitHalf_eq (c : Context) (b : Sibling) : ∃ bs bd, c.exitHalf b = { c with
    banks := bs, bad := bd, gmBanks := b.banks, pc := b.pc, sib := none, pend10 := b.pend10, gbar := b.gbar, gmSub := c.gmSub && !b.parked
    stall := b.stall, parked := b.onWord, asking := b.asking, detentWait := b.detentWait, inv := b.inv, since := b.since } := by
  obtain ⟨bs, h⟩ := c.dropBanks_eq (bankList c.gmBanks)
  unfold Context.exitHalf
  rw [Context.mend_eq, h]
  exact ⟨_, _, rfl⟩

/-- The stream of the sibling, before it passes its GJOIN. -/
def State.halved (s : State) (b : Sibling) : State := s.advance.withCtx (s.advance.ctx.exitHalf b)

theorem State.leaveHalf_eq (s : State) (b : Sibling) : s.leaveHalf b = if b.parked then (s.halved b).advance else s.halved b := rfl

theorem exec_exit_half {s : State} {b : Sibling} (hsib : s.ctx.sib = some b) (hw : s.ctx.workingHere = false) (hi : s.ctx.loopError = none) :
    exec .exit s = .next ((s.drainedIn (bankList s.ctx.gmBanks)).leaveHalf b) := by
  obtain ⟨_, _, _, _, hc⟩ := (s.drainedIn_drains (bankList s.ctx.gmBanks)).ctx
  rw [exec_exit, execExit]
  generalize s.drainedIn (bankList s.ctx.gmBanks) = s1 at hc ⊢
  dsimp only
  rw [show s1.ctx.sib = some b by rw [hc]; exact hsib]
  dsimp only
  rw [show s1.ctx.workingHere = false by rw [hc]; exact hw]
  exact s.finish_ok _ hi

/-- What EXIT leaves of a sub-gang's stream, loops apart. -/
theorem State.leaveHalf_ctx (s : State) (b : Sibling) : (s.leaveHalf b).ctx.sib = none ∧ (s.leaveHalf b).ctx.gmBanks = b.banks ∧
    (s.leaveHalf b).ctx.place = s.ctx.place ∧ (s.leaveHalf b).ctx.gmSub = (s.ctx.gmSub && !b.parked) ∧
    (s.leaveHalf b).ctx.scalars = s.ctx.scalars ∧ (s.ctx.trc = false → (s.leaveHalf b).mem = s.mem) := by
  obtain ⟨_, _, _, _, _, _, _, _, _, _, _, _, _, _, _, _, _, ha⟩ := s.advance_frame
  obtain ⟨_, _, hx⟩ := s.advance.ctx.exitHalf_eq b
  have h0 : (s.halved b).ctx = s.advance.ctx.exitHalf b := rfl
  rw [ha] at hx h0
  rw [hx] at h0
  rw [State.leaveHalf_eq]
  split
  · obtain ⟨_, _, _, _, _, _, _, _, _, _, _, _, _, _, _, _, _, ha'⟩ := (s.halved b).advance_frame
    have hmem : s.ctx.trc = false → (s.halved b).advance.mem = (s.halved b).mem := fun ht => State.advance_mem _ (by rw [h0]; exact ht)
    refine ⟨(s.halved b).advance_alone (by rw [h0]), ?_⟩
    rw [ha', h0]
    exact ⟨rfl, rfl, rfl, rfl, fun ht => (hmem ht).trans (s.advance_mem ht)⟩
  · rw [h0]
    exact ⟨rfl, rfl, rfl, rfl, rfl, fun ht => s.advance_mem ht⟩

/-- The end word of a loop is told by the pc and the loop registers. -/
theorem Context.exitHalf_atLoopEnd {c d : Context} (b : Sibling) (h : d.lc = c.lc ∧ d.lcPend = c.lcPend ∧ d.lend = c.lend ∧ d.send = c.send) :
    (d.exitHalf b).atLoopEnd = (c.exitHalf b).atLoopEnd := by
  obtain ⟨_, _, hc⟩ := c.exitHalf_eq b
  obtain ⟨_, _, hd⟩ := d.exitHalf_eq b
  obtain ⟨h1, h2, h3, h4⟩ := h
  rw [hc, hd]
  simp only [Context.atLoopEnd, Context.counting, Context.stripping, h1, h2, h3, h4]

/-- Settles O42: TRACE by its flag, EXIT by what it waits for and by whether a sibling is left. -/
theorem traceAndExit : Obligations.TraceAndExit := by
  unfold Obligations.TraceAndExit
  intro s a
  have htrace : isSName a → s.ctx.intact [a] [] →
      exec (.trace a) s = .next (s.emitTrace 2 0 (s.ctx.pc.toNat % 2 ^ 56) (s.ctx.read a).toNat).advance := fun ha hi => by
    have hnames : s.ctx.acceptsAll [(clsS1, a)] := by simp [Context.acceptsAll, accepts_clsS1, ha]
    rw [exec_trace, execTrace, checkNames_ok _ _ hnames, except_ok_bind, sound_ok _ _ _ _ hi, except_ok_bind, except_pure,
      State.finish_ok _ _ hi.2.2.2]
  refine ⟨fun ha hi ht => ?_, fun ha hi _ => htrace ha hi, fun hs hr => exec_exit_waits hs (.inl hr),
    fun hs ha hp => exec_exit_waits hs (.inr (by rw [ha, decide_eq_false hp]; rfl)), fun hs hw hr hp hi hb => ⟨_, exec_exit_ends hs hw hr hp hi.2.2.2 hb, ?_⟩,
    fun b hs hw hi => ⟨_, exec_exit_half hs hw hi.2.2.2, ?_⟩⟩
  · rw [htrace ha hi, State.emitTrace_off _ _ _ _ _ ht]
  · have hdr := s.drainedIn_drains (bankList s.ctx.gmBanks)
    generalize s.drainedIn (bankList s.ctx.gmBanks) = s1 at hdr ⊢
    obtain ⟨_, _, _, _, hc⟩ := hdr.ctx
    obtain ⟨_, _, _, _, hwoken⟩ := s1.cancelOwned_rest.1
    have hid : s1.cancelOwned.ctx.id = s.ctx.id := by rw [hwoken, hc]
    have hcore : s1.cancelOwned.ctx.core = s.ctx.core := by rw [hwoken, hc]
    obtain ⟨hmem, hctx⟩ := s1.cancelOwned.endContext_ctx s.ctx.id false
    obtain ⟨hmarks, howned⟩ := s1.cancelOwned.endContext_slots false
    rw [hid, hcore] at howned
    rw [hid] at hmarks
    rw [if_pos hid] at hctx
    refine ⟨by rw [hctx], by rw [hctx]; exact hid, howned, fun hahead => ?_⟩
    have hnames : s1.ownedSlots s1.ctx.core s1.ctx.id = s.ownedSlots s.ctx.core s.ctx.id := by rw [hdr.owned, hc]
    obtain ⟨hcan, hmark⟩ := State.cancelSlots_cancels s1.ctx.core (s1.ownedSlots s1.ctx.core s1.ctx.id) s1 fun n hn => by
      rw [hdr.slot, hc]
      exact hahead n (hnames ▸ hn)
    refine ⟨hmem.trans (hcan.mem.trans hdr.mem), fun n hn h2 x hx => ?_⟩
    rw [hmarks]
    have hslot : s1.slot s1.ctx.core n = s.slot s.ctx.core n := by rw [hdr.slot, hc]
    refine hmark n (hnames ▸ hn) (hslot ▸ h2) x ?_
    rwa [hslot, State.sectorsAbove_of_regions hdr.regions]
  · have hdr := s.drainedIn_drains (bankList s.ctx.gmBanks)
    generalize s.drainedIn (bankList s.ctx.gmBanks) = s1 at hdr ⊢
    obtain ⟨_, _, _, _, hc⟩ := hdr.ctx
    have haway : s.ctx.atLoopEnd = false → s1.advance = s1.wentOn := fun he => State.advance_at _ (by rw [hc]; exact he)
    obtain ⟨hsib, hgang, hplace, hsub, hscal, hmem⟩ := s1.leaveHalf_ctx b
    obtain ⟨_, _, hx⟩ := s1.advance.ctx.exitHalf_eq b
    have h0 : (s1.halved b).ctx = s1.advance.ctx.exitHalf b := rfl
    have hfirst : b.parked = false → s1.leaveHalf b = s1.halved b := fun hp => if_neg (by simp [hp])
    have hsecond : b.parked = true → s1.leaveHalf b = (s1.halved b).advance := fun hp => if_pos hp
    refine ⟨hsib, hgang, by rw [hplace, hc], fun h => ?_, fun hp => ?_, fun hp he he' => ?_, fun hcnt hpc hstr hp => ?_, by rw [hsub, hc],
      by rw [hscal, hc]⟩
    · rcases h with ht | ⟨he, hp⟩
      · exact (hmem (by rw [hc]; exact ht)).trans hdr.mem
      · rw [hfirst hp]
        exact (congrArg State.mem (haway he)).trans hdr.mem
    · rw [hfirst hp, h0, hx]
    · have hend : (s1.halved b).ctx.atLoopEnd = false := by
        rw [h0, haway he, Context.exitHalf_atLoopEnd (c := s.ctx) b (by rw [State.wentOn, State.withCtx_ctx, hc]; exact ⟨rfl, rfl, rfl, rfl⟩)]
        exact he'
      rw [hsecond hp, State.advance_at _ hend, State.wentOn, State.withCtx_ctx, h0, hx]
    · have hends : s1.ctx.endsCount := ⟨by rw [hc]; exact hcnt, by rw [hc]; exact hpc⟩
      have hnot : ¬s1.ctx.endsStrip := fun h => by
        rw [hc] at h
        exact absurd (hstr.symm.trans h.1) (by simp)
      obtain ⟨_, _, _, _, _, _, _, _, hadv⟩ := s1.advance_ctx
      obtain ⟨_, hd⟩ := s1.ctx.countDown_eq
      rw [hfirst hp, h0, hx, hadv, s1.ctx.boundary_count hends hnot, hd]
      split <;> simp only [Context.countLeft, hc]

end Sys2Proof.Machine
end

section
/-! Rows: ACT, ACTZ, WB, PRE, RCOPY, SAVEROW and LOADROW (R133 to R136, R141 to R145): O51. -/

namespace Sys2Proof.Machine

/-! ## One register in every bank of the gang -/

/-- A change of each bank of a list leaves the other banks alone. -/
theorem Context.bank_foldl_setBank (g : Nat → Bank → Bank) {js : List Nat} (hn : js.Nodup) (c : Context) (i : Nat) :
    (js.foldl (fun c j => c.setBank j (g j (c.bank j))) c).bank i = if i ∈ js then g i (c.bank i) else c.bank i := by
  induction js generalizing c with
  | nil => rfl
  | cons j js ih =>
    obtain ⟨hj, hn⟩ := List.nodup_cons.mp hn
    rw [List.foldl_cons, ih hn, Context.bank_setBank]
    by_cases h : i = j
    · subst h
      simp [hj]
    · simp [h]

theorem Context.row_setRows (c : Context) (v : Nat) (f : Nat → RowReg) (j m : Nat) :
    ((c.setRows v f).bank j).row m = if j ∈ bankList c.gmBanks ∧ m = v then f j else (c.bank j).row m := by
  rw [Context.setRows, Context.bank_foldl_setBank (fun j b => b.setRow v (f j)) (bankList_nodup _)]
  by_cases hj : j ∈ bankList c.gmBanks <;> simp [hj]

theorem Context.setRows_banksOnly (c : Context) (v : Nat) (f : Nat → RowReg) : c.banksOnly (c.setRows v f) :=
  foldl_banksOnly _ (fun c j => c.setBank_banksOnly j _) _ c

/-! ## What a row code leaves -/

/-- A context holds the banks that the work before a row code leaves, and the gang, the scalars and the trace switch of its stream. -/
def State.holdsRows (s : State) (e : Context) : Prop :=
  e.gmBanks = s.ctx.gmBanks ∧ e.banks = s.rowReadied.ctx.banks ∧ e.scalars = s.ctx.scalars ∧ e.trc = s.ctx.trc

theorem State.rowReadied_holdsRows (s : State) : s.holdsRows s.rowReadied.ctx := by
  obtain ⟨hgang, -, htrc, hsc, -⟩ := s.rowReadied_primes.ctx.same
  exact ⟨hgang, rfl, hsc, htrc⟩

theorem State.forceSlot_banks (s : State) (core j : Nat) : (s.forceSlot core j).ctx.banks = s.ctx.banks := by
  unfold State.forceSlot
  split
  · dsimp only
    split
    · rfl
    · next c _ =>
      show (if s.ctx.id = c.id then s.ctx.countForced else s.ctx).banks = s.ctx.banks
      split <;> rfl
  · rfl

/-- The refresh slots that a row code waits for touch no row (R150, R158). -/
theorem State.serveRefs_banks (s : State) (core : Nat) (js : List Nat) : (s.serveRefs core js).ctx.banks = s.ctx.banks := by
  unfold State.serveRefs
  dsimp only
  split
  · rfl
  · exact foldl_keeps _ (fun t : State => t.ctx.banks) (fun t j => t.forceSlot_banks core j) _ s

theorem State.readied_holdsRows (s : State) : s.holdsRows s.readied.ctx := by
  obtain ⟨hgang, -, htrc, hsc, -⟩ := s.readied_primes.ctx.same
  exact ⟨hgang, (State.serveRefs_banks _ _ _).symm, hsc, htrc⟩

theorem State.holdsRows.woken {s : State} {c e : Context} (h : s.holdsRows c) (hw : c.Woken e) : s.holdsRows e := by
  obtain ⟨_, _, _, _, rfl⟩ := hw
  exact h

/-- t has f in register v of the banks of the gang; the other registers are those that the work before left, and the scalars stand. -/
structure State.setsRows (s t : State) (v : Nat) (f : Nat → RowReg) : Prop where
  others : (∀ j m, j ∉ bankList s.ctx.gmBanks ∨ m ≠ v → (t.ctx.bank j).row m = (s.rowReadied.ctx.bank j).row m) ∧
    t.ctx.scalars = s.ctx.scalars
  rows : ∀ j ∈ bankList s.ctx.gmBanks, (t.ctx.bank j).row v = f j

theorem State.holdsRows.bank {s : State} {e : Context} (h : s.holdsRows e) (j : Nat) : e.bank j = s.rowReadied.ctx.bank j := by
  obtain ⟨-, hb, -⟩ := h
  rw [Context.bank, hb, ← Context.bank]

theorem State.holdsRows.setsRows {s : State} {e : Context} (h : s.holdsRows e) (x : State) (v : Nat) (f : Nat → RowReg) :
    s.setsRows (x.withCtx (e.setRows v f)).advance v f := by
  obtain ⟨_, _, hrest⟩ := e.setRows_banksOnly v f
  have hrow : ∀ j m, ((x.withCtx (e.setRows v f)).advance.ctx.bank j).row m =
      if j ∈ bankList s.ctx.gmBanks ∧ m = v then f j else (s.rowReadied.ctx.bank j).row m := fun j m => by
    rw [State.advance_bank, State.withCtx_ctx, Context.row_setRows, h.bank, h.1]
  refine ⟨⟨fun j m hjm => (hrow j m).trans (if_neg ?_), ?_⟩, fun j hj => (hrow j v).trans (if_pos ⟨hj, rfl⟩)⟩
  · rintro ⟨hj, hm⟩
    exact hjm.elim (· hj) (· hm)
  · obtain ⟨-, -, hsc, -⟩ := h
    rw [State.advance_scalars, State.withCtx_ctx, hrest]
    exact hsc

/-- A row code that writes no register leaves each as it is. -/
theorem State.holdsRows.keepsRows {s x : State} (h : s.holdsRows x.ctx) (v : Nat) :
    s.setsRows x.advance v fun j => (s.rowReadied.ctx.bank j).row v := by
  have hbank : ∀ j, x.advance.ctx.bank j = s.rowReadied.ctx.bank j := fun j => (x.advance_bank j).trans (h.bank j)
  obtain ⟨-, -, hsc, -⟩ := h
  exact ⟨⟨fun j m _ => by rw [hbank], x.advance_scalars.trans hsc⟩, fun j _ => by rw [hbank]⟩

theorem State.holdsRows.mem {s : State} {e : Context} (h : s.holdsRows e) (ht : s.ctx.trc = false) (x : State) (v : Nat) (f : Nat → RowReg) :
    (x.withCtx (e.setRows v f)).advance.mem = x.mem := by
  obtain ⟨_, _, hrest⟩ := e.setRows_banksOnly v f
  obtain ⟨-, -, -, htrc⟩ := h
  refine State.advance_mem _ ?_
  rw [State.withCtx_ctx, hrest]
  exact htrc.trans ht

/-! ## Writes to rows wake streams at most -/

/-- The running context of t is that of s, but for a wake. Of states and not of contexts: a fold's step is then compared as it stands,
where the kernel would unfold a store of 8192 bytes to reach its context. -/
def State.wokenTo (s t : State) : Prop := s.ctx.Woken t.ctx

theorem State.wokenTo.refl (s : State) : s.wokenTo s := Context.Woken.refl _
theorem State.wokenTo.trans {s t u : State} (h : s.wokenTo t) (k : t.wokenTo u) : s.wokenTo u := Context.Woken.trans h k

theorem foldl_wokenTo {β : Type} (f : State → β → State) (h : ∀ (s : State) b, s.wokenTo (f s b)) (bs : List β) (s : State) :
    s.wokenTo (bs.foldl f s) := foldl_woken f h bs s

theorem State.writeCells_wokenTo (s : State) (pa n v : Nat) : s.wokenTo (s.writeCells pa n v) := s.writeCells_woken pa n v

theorem State.writeBytes_wokenTo (s : State) (l n v : Nat) : s.wokenTo (s.writeBytes l n v) := by
  rw [State.wokenTo, State.writeBytes, State.murky_ctx]
  exact s.writeLoc_woken l n v

theorem State.writeBeats_wokenTo (s : State) (r : RowReg) (segs : Nat) : s.wokenTo (s.writeBeats r segs) := by
  refine foldl_wokenTo _ (fun t b => ?_) _ s
  split
  · exact t.writeCells_wokenTo _ _ _
  · exact .refl t

theorem State.writeLatch_wokenTo (s : State) (r : RowReg) (segs base : Nat) : s.wokenTo (s.writeLatch r segs base) := by
  unfold State.writeLatch
  exact foldl_wokenTo _ (fun t _ => t.writeBytes_wokenTo _ _ _) _ s

theorem State.sendPiece_wokenTo (s : State) (va pa v : Nat) : s.wokenTo (s.sendPiece va pa v) := by
  unfold State.sendPiece
  dsimp only
  split
  · exact .refl s
  · rw [State.wokenTo, State.reached_ctx]
    exact s.writeCells_woken _ _ _

/-! ## What every row code checks -/

/-- Names of a row register and of scalars are accepted. -/
theorem checkNames_row {c : Context} {d : NameF} (hv : c.isVName d) (h8 : d.toNat < 8) (xs : List NameF) (hx : ∀ n ∈ xs, isSName n) :
    c.checkNames ((clsRow, d) :: xs.map fun n => (clsS1, n)) = .ok () := by
  refine checkNames_ok _ _ fun p hp => ?_
  rcases List.mem_cons.mp hp with rfl | hp
  · exact accepts_clsRow c d h8 hv
  · obtain ⟨n, hn, rfl⟩ := List.mem_map.mp hp
    exact accepts_clsS1 c n (hx n hn)

/-- Checks behind those of soft errors. -/
theorem checkBanks_sound {check : Nat → List (Nat × Word)} {c : Context} {names : List NameF} {ctl : List Nat} {js : List Nat}
    (hi : c.intact names ctl) (h : ∀ j ∈ js, check j = []) : checkBanks (fun j => c.soundFails names ctl ++ check j) js = .ok () :=
  checkBanks_ok _ _ fun j hj => by rw [h j hj, soundFails_nil _ _ _ _ (sound_ok _ _ _ _ hi), List.append_nil]

theorem all_not_eq_true {js : List Nat} {p : Nat → Bool} (h : ∀ j ∈ js, p j = false) : (js.all fun j => !p j) = true :=
  List.all_eq_true.mpr fun j hj => by rw [h j hj, Bool.not_false]

theorem all_imp_eq_true {js : List Nat} {P : Nat → Prop} [DecidablePred P] {q : Nat → Bool} (h : ∀ j ∈ js, P j → q j = true) :
    (js.all fun j => !decide (P j) || q j) = true :=
  List.all_eq_true.mpr fun j hj => by
    by_cases hP : P j
    · rw [h j hj hP, Bool.or_true]
    · rw [decide_eq_false hP, Bool.not_false, Bool.true_or]

/-! ## ACT and ACTZ (R133, R134) -/

theorem RowReg.markBeats_kept (r : RowReg) (ms : List (Nat × Nat × Nat)) : (r.markBeats ms).st = r.st ∧ (r.markBeats ms).tag = r.tag ∧
    (r.markBeats ms).dirty = r.dirty ∧ (r.markBeats ms).pin = r.pin ∧ (r.markBeats ms).latch = r.latch := by
  unfold RowReg.markBeats
  split <;> exact ⟨rfl, rfl, rfl, rfl, rfl⟩

/-- The register that ACT opens: clean, with what its row holds. -/
theorem State.openRow_act (u : State) (v : Nat) (x : Word) (t : TagBits) (j : Nat) :
    let r := u.openRow .row false v x t j
    r.st = .opened ∧ r.tag = t ∧ r.dirty = 0 ∧ r.pin = (u.ctx.rowVa x j 0).setWidth 56 ∧ r.latch = BitVec.ofNat 524288
      (u.readLatch u.ctx.segs (placedRow u.ctx.core j (v * u.ctx.segs) (rowIndex (u.rowPa .row x j 0)))).1 :=
  RowReg.markBeats_kept _ _

theorem getLsbD_ofNat_ones {w e : Nat} (n : Nat) (h : e < w) : (BitVec.ofNat w (2 ^ n - 1)).getLsbD e = decide (e < n) := by
  rw [BitVec.getLsbD_ofNat, Nat.testBit_two_pow_sub_one, decide_eq_true h, Bool.true_and]

/-- The register that ACTZ opens: zeros, every beat of its segments dirty. -/
theorem State.openRow_actz (u : State) (v : Nat) (x : Word) (t : TagBits) (j : Nat) :
    let r := u.openRow .write true v x t j
    r.st = .opened ∧ r.tag = t ∧ r.latch = 0 ∧ r.fm = 0 ∧ ∀ e < 256, r.dirty.getLsbD e = decide (e < 32 * u.ctx.segs) :=
  ⟨rfl, rfl, rfl, rfl, fun _ he => getLsbD_ofNat_ones _ he⟩

/-! ## Each code, where nothing stops it -/

/-- u is the state that a row code of s acts on, once it may issue (R150). -/
structure State.readiesRows (s u : State) : Prop where
  ready : s.rowReady = .ok u
  primes : State.primes (bankList s.ctx.gmBanks) s u

theorem State.rowReadied_readiesRows {s : State} (hm : s.mayIssue) : s.readiesRows s.rowReadied := ⟨rowReady_ok s hm, s.rowReadied_primes⟩

/-- The dirty beats of a register, written to its rows in every bank of a list. -/
def State.beatsWritten (u : State) (v : Nat) (js : List Nat) : State :=
  js.foldl (fun x j => x.writeBeats ((u.ctx.bank j).row v) u.ctx.segs) u

theorem State.beatsWritten_wokenTo (u : State) (v : Nat) (js : List Nat) : u.wokenTo (u.beatsWritten v js) :=
  foldl_wokenTo _ (fun x _ => x.writeBeats_wokenTo _ _) js u

theorem exec_pre_next {s : State} {d : NameF} (hm : s.mayIssue) (hv : s.ctx.isVName d) (h8 : d.toNat < 8)
    (hi : s.ctx.intact [] [0x03, 0x0E]) (hu : s.readied.ctx.unlocked [] [d.toNat] = true) :
    exec (.pre d) s = .next (s.readied.withCtx (s.readied.ctx.setRows d.toNat fun _ => RowReg.reset)).advance := by
  have hn : s.ctx.checkNames [(clsRow, d)] = .ok () := checkNames_row hv h8 [] (by simp)
  simp only [exec_pre, execPre, hn, sound_ok _ _ _ _ hi, ready_ok s hm, except_ok_bind, except_pure, hu, waitUnless_true]
  exact State.finish_ok _ _ hi.2.2.2

section codes
variable {s u : State} {d a b : NameF} (hu : s.readiesRows u)
include hu

theorem actOp_next {zero : Bool} {kind : AccessKind} {tag : BitVec 4} (hk : kind = if zero then .write else .row) (hv : s.ctx.isVName d)
    (h8 : d.toNat < 8) (ha : isSName a) (hi : s.ctx.intact [a] [0x03, 0x0E])
    (hr : u.rowsReady kind (s.ctx.read a) u.ctx.segs = true)
    (hp : u.allPass fun j => failIf (decide (((u.ctx.bank j).row d.toNat).st ≠ .closed)) 0x02 (nameWord d.toNat) ++
      u.placeFails kind d.toNat (s.ctx.read a) j)
    (hl : u.ctx.unlocked [] [d.toNat] = true)
    (hw : zero = true ∨ (u.stripOpen = true ∧ ∀ j ∈ bankList s.ctx.gmBanks,
      u.rowsBlocked (u.rowPa kind (s.ctx.read a) j 0) u.ctx.segs = false)) :
    ∃ x : State, actOp zero d a tag s = .next
      (x.withCtx (u.ctx.setRows d.toNat (u.openRow kind zero d.toNat (s.ctx.read a) tag))).advance := by
  obtain ⟨hgang, -, -, -, -, -, -, -, hread⟩ := hu.primes.ctx.same
  rw [State.allPass, hgang] at hp
  have hn : s.ctx.checkNames [(clsRow, d), (clsS1, a)] = .ok () := checkNames_row hv h8 [a] (by simpa using ha)
  have hfree : (zero || (u.stripOpen && (bankList s.ctx.gmBanks).all fun j =>
      !u.rowsBlocked (u.rowPa kind (s.ctx.read a) j 0) u.ctx.segs)) = true := by
    rcases hw with hz | ⟨hs, hb⟩
    · rw [hz, Bool.true_or]
    · rw [hs, all_not_eq_true hb, Bool.and_self, Bool.or_true]
  simp only [actOp, hn, hu.ready, except_ok_bind, except_pure, hread, hgang, ← hk, hr, List.append_assoc,
    checkBanks_sound (hu.primes.ctx.intact hi) hp, hl, hfree, waitUnless_true]
  exact ⟨_, State.finish_ok _ _ hi.2.2.2⟩

theorem exec_wb_next (hv : s.ctx.isVName d) (h8 : d.toNat < 8) (hi : s.ctx.intact [] [0x03, 0x0E])
    (hp : u.allPass fun j => (u.ctx.bank j).rowState d.toNat ++
      failIf (((u.ctx.bank j).row d.toNat).pinned.any fun p => !p.w) 0x09 (((u.ctx.bank j).row d.toNat).pin.setWidth 64))
    (ho : u.stripOpen = true) (hb : ∀ j ∈ bankList s.ctx.gmBanks, u.rowsBlocked ((u.ctx.bank j).row d.toNat).base u.ctx.segs = false) :
    let x := u.beatsWritten d.toNat (bankList s.ctx.gmBanks)
    exec (.wb d) s = .next
      (x.withCtx (x.ctx.setRows d.toNat fun j => { (u.ctx.bank j).row d.toNat with dirty := 0 })).advance := by
  obtain ⟨hgang, -⟩ := hu.primes.ctx.same
  rw [State.allPass, hgang] at hp
  have hn : s.ctx.checkNames [(clsRow, d)] = .ok () := checkNames_row hv h8 [] (by simp)
  have hs := sound_ok _ _ _ _ (hu.primes.ctx.intact hi)
  simp only [exec_wb, execWb, hn, hu.ready, except_ok_bind, except_pure, hgang, checkBanks_pass _ _ _ _ _ _ hp hs, ho,
    all_not_eq_true hb, Bool.and_self, waitUnless_true]
  exact State.finish_ok _ _ hi.2.2.2

theorem exec_rcopy_next (ha : isSName a) (hb : isSName b) (hi : s.ctx.intact [a, b] [0x0E])
    (hr : u.rowsReady .row (s.ctx.read b) 1 = true) (hw : u.rowsReady .write (s.ctx.read a) 1 = true)
    (hp : u.allPass (u.rcopyFails (s.ctx.read b) (s.ctx.read a))) (ho : u.stripOpen = true)
    (hblk : ∀ j ∈ bankList s.ctx.gmBanks, u.rowsBlocked (u.rowPa .row (s.ctx.read b) j 0) 1 = false ∧
      u.rowsBlocked (u.rowPa .write (s.ctx.read a) j 0) 1 = false) :
    exec (.rcopy a b) s = .next ((bankList s.ctx.gmBanks).foldl (fun x j =>
      x.copyRow (u.rowPa .row (s.ctx.read b) j 0) (u.rowPa .write (s.ctx.read a) j 0)) u).advance := by
  obtain ⟨hgang, -, -, -, -, -, -, -, hread⟩ := hu.primes.ctx.same
  rw [State.allPass, hgang] at hp
  have hn : s.ctx.checkNames [(clsS1, a), (clsS1, b)] = .ok () := checkNames_ok _ _
    (List.forall_mem_cons.mpr ⟨accepts_clsS1 _ _ ha, List.forall_mem_singleton.mpr (accepts_clsS1 _ _ hb)⟩)
  have hfree : ((bankList s.ctx.gmBanks).all fun j => !u.rowsBlocked (u.rowPa .row (s.ctx.read b) j 0) 1 &&
      !u.rowsBlocked (u.rowPa .write (s.ctx.read a) j 0) 1) = true :=
    List.all_eq_true.mpr fun j hj => by
      obtain ⟨h1, h2⟩ := hblk j hj
      rw [h1, h2]
      rfl
  simp only [exec_rcopy, execRcopy, hn, hu.ready, except_ok_bind, except_pure, hgang, hread, hr, hw, Bool.and_self,
    checkBanks_sound (hu.primes.ctx.intact hi) hp, ho, hfree, waitUnless_true]
  exact State.finish_ok _ _ hi.2.2.2

end codes

/-! ## SAVEROW (R141) -/

/-- The latches of the registers that are not closed, in their save rows. -/
def State.latchesSaved (u : State) (v : Nat) (x : Word) (js : List Nat) : State :=
  js.foldl (fun t j => if ((u.ctx.bank j).row v).st ≠ .closed
    then t.writeLatch ((u.ctx.bank j).row v) u.ctx.segs (u.rowPa .write x j 0) else t) u

/-- The descriptors too, each in five pieces. -/
def State.rowsSaved (u : State) (v : Nat) (x y : Word) (js : List Nat) : State :=
  js.foldl (fun t j => (List.range 5).foldl (fun t i => t.sendPiece ((u.ctx.descVa y j).toNat + 512 * i) (u.descPa .write y j i)
    (fieldOf (((u.ctx.bank j).row v).descriptor u.ctx.vcode.toNat) (4096 * i) 4096)) t) (u.latchesSaved v x js)

theorem State.rowsSaved_wokenTo (u : State) (v : Nat) (x y : Word) (js : List Nat) : u.wokenTo (u.rowsSaved v x y js) := by
  have hlatches : u.wokenTo (u.latchesSaved v x js) := by
    refine foldl_wokenTo _ (fun t j => ?_) _ u
    split
    · exact t.writeLatch_wokenTo _ _ _
    · exact .refl t
  exact hlatches.trans (foldl_wokenTo _ (fun t j => foldl_wokenTo _ (fun t i => t.sendPiece_wokenTo _ _ _) _ t) _ _)

section codes
variable {s u : State} {d a b : NameF} (hu : s.readiesRows u) (hv : s.ctx.isVName d) (h8 : d.toNat < 8) (ha : isSName a) (hb : isSName b)
  (hi : s.ctx.intact [a, b] [0x03, 0x0E])
include hu hv h8 ha hb hi

theorem exec_saverow_next (hy : u.descReady .write (s.ctx.read b) = true)
    (hx : u.rowsReady .write (s.ctx.read a) u.ctx.segs = true ∨
      ∀ j ∈ bankList s.ctx.gmBanks, ((u.ctx.bank j).row d.toNat).st = .closed)
    (hp : u.allPass fun j => (if ((u.ctx.bank j).row d.toNat).st ≠ .closed
      then u.placeFails .write d.toNat (s.ctx.read a) j else []) ++ u.descFails .write (s.ctx.read b) j)
    (ho : u.stripOpen = true) (hblk : ∀ j ∈ bankList s.ctx.gmBanks, ((u.ctx.bank j).row d.toNat).st ≠ .closed →
      u.rowsBlocked (u.rowPa .write (s.ctx.read a) j 0) u.ctx.segs = false) :
    exec (.saverow d a b) s = .next
      (u.rowsSaved d.toNat (s.ctx.read a) (s.ctx.read b) (bankList s.ctx.gmBanks)).advance := by
  obtain ⟨hgang, -, -, -, -, -, -, -, hread⟩ := hu.primes.ctx.same
  rw [State.allPass, hgang] at hp
  have hn : s.ctx.checkNames [(clsRow, d), (clsS1, a), (clsS1, b)] = .ok () :=
    checkNames_row hv h8 [a, b] (List.forall_mem_cons.mpr ⟨ha, List.forall_mem_singleton.mpr hb⟩)
  have hrows : (u.rowsReady .write (s.ctx.read a) u.ctx.segs ||
      !(bankList s.ctx.gmBanks).any fun j => decide (((u.ctx.bank j).row d.toNat).st ≠ .closed)) = true := by
    rcases hx with hx | hx
    · rw [hx, Bool.true_or]
    · simpa using Or.inr hx
  have hfree : ((bankList s.ctx.gmBanks).all fun j => !decide (((u.ctx.bank j).row d.toNat).st ≠ .closed) ||
      !u.rowsBlocked (u.rowPa .write (s.ctx.read a) j 0) u.ctx.segs) = true :=
    all_imp_eq_true fun j hj hc => by rw [hblk j hj hc, Bool.not_false]
  have hcheck := checkBanks_sound (hu.primes.ctx.intact hi) hp
  simp only [exec_saverow, execSaverow, hn, hu.ready, except_ok_bind, except_pure, hgang, hread, hy, hrows, Bool.and_self,
    List.append_assoc, decide_eq_true_eq, hcheck, ho, hfree, waitUnless_true]
  exact State.finish_ok _ _ hi.2.2.2

/-! ## LOADROW (R142 to R144) -/

theorem exec_loadrow_next (hy : u.descReady .read (s.ctx.read b) = true)
    (hp : u.allPass (u.loadrowFails d.toNat (s.ctx.read a) (s.ctx.read b))) (ho : u.stripOpen = true)
    (hl : u.ctx.unlocked [] [d.toNat] = true)
    (hpin : ∀ j ∈ bankList s.ctx.gmBanks, u.rePinWaits u.ctx (u.descriptorAt (s.ctx.read b) j) = false)
    (hd : ∀ j ∈ bankList s.ctx.gmBanks, ∀ i < 5, u.mayAccess (u.descPa .read (s.ctx.read b) j i) 512 = true ∧
      u.blocked (u.descPa .read (s.ctx.read b) j i) 512 = false)
    (hlive : ∀ j ∈ bankList s.ctx.gmBanks, u.descriptorAt (s.ctx.read b) j % 4 ≠ 0 →
      (∀ i < u.ctx.segs, isWait (u.rowAt .row (s.ctx.read a) j i) = false) ∧
        u.rowsBlocked (u.rowPa .row (s.ctx.read a) j 0) u.ctx.segs = false) :
    ∃ x : State, exec (.loadrow d a b) s = .next (x.withCtx (u.ctx.setRows d.toNat fun j =>
      u.loadReg u.ctx (u.rowPa .row (s.ctx.read a) j 0) (u.descriptorAt (s.ctx.read b) j))).advance := by
  obtain ⟨hgang, -, -, -, -, -, -, -, hread⟩ := hu.primes.ctx.same
  rw [State.allPass, hgang] at hp
  have hn : s.ctx.checkNames [(clsRow, d), (clsS1, a), (clsS1, b)] = .ok () :=
    checkNames_row hv h8 [a, b] (List.forall_mem_cons.mpr ⟨ha, List.forall_mem_singleton.mpr hb⟩)
  have hpieces : ((bankList s.ctx.gmBanks).all fun j => decide (((u.ctx.bank j).row d.toNat).st ≠ .closed) ||
      decide (u.descFails .read (s.ctx.read b) j ≠ []) || (List.range 5).all fun i =>
        u.mayAccess (u.descPa .read (s.ctx.read b) j i) 512 &&
          !u.blocked (u.descPa .read (s.ctx.read b) j i) 512) = true :=
    List.all_eq_true.mpr fun j hj => by
      refine Bool.or_eq_true_iff.mpr (.inr (List.all_eq_true.mpr fun i hi => ?_))
      obtain ⟨h1, h2⟩ := hd j hj i (List.mem_range.mp hi)
      rw [h1, h2]
      rfl
  have hwalks : ((bankList s.ctx.gmBanks).all fun j => !decide (u.descriptorAt (s.ctx.read b) j % 4 ≠ 0) ||
      (List.range u.ctx.segs).all fun i => !isWait (u.rowAt .row (s.ctx.read a) j i)) = true :=
    all_imp_eq_true fun j hj hz => all_not_eq_true fun i hi => (hlive j hj hz).1 i (List.mem_range.mp hi)
  have hfree : ((bankList s.ctx.gmBanks).all fun j => !decide (u.descriptorAt (s.ctx.read b) j % 4 ≠ 0) ||
      !u.rowsBlocked (u.rowPa .row (s.ctx.read a) j 0) u.ctx.segs) = true :=
    all_imp_eq_true fun j hj hz => by rw [(hlive j hj hz).2, Bool.not_false]
  have hcheck := checkBanks_sound (hu.primes.ctx.intact hi) hp
  simp only [exec_loadrow, execLoadrow, hn, hu.ready, except_ok_bind, except_pure, hgang, hread, hy, hpieces, hcheck, hwalks,
    all_not_eq_true hpin, ho, hl, hfree, Bool.and_self, waitUnless_true]
  exact ⟨_, State.finish_ok _ _ hi.2.2.2⟩

end codes

/-- A descriptor of a closed register closes the register that it is read into (R143). -/
theorem State.loadReg_closed (s : State) (c : Context) (base : Nat) {d : Nat} (h : d % 4 = 0) : (s.loadReg c base d).st = .closed := by
  unfold State.loadReg
  rw [h]
  rfl

/-- Settles O51: each code completes on the state that the work before it leaves, and sets one register of the gang's banks or none. -/
theorem rowResults : Obligations.RowResults := by
  unfold Obligations.RowResults
  intro s d a b tag hm hv h8
  dsimp only
  have hready := State.rowReadied_readiesRows hm
  have hrows := s.rowReadied_holdsRows
  refine ⟨fun ha hi hr hp hu ho hb => ?_, fun ha hi hr hp hu => ?_, fun hi hp ho hb => ?_, fun hi hu => ?_,
    fun ha hb hi => exec_rcopy_next hready ha hb hi, fun ha hb hi => ⟨fun hy hx hp ho hblk => ?_, fun hy hp ho hu hpin hd hlive => ?_⟩⟩
  · obtain ⟨x, hx⟩ := actOp_next hready (zero := false) (kind := .row) rfl hv h8 ha hi hr hp hu (.inr ⟨ho, hb⟩)
    have hset := hrows.setsRows x d.toNat (s.rowReadied.openRow .row false d.toNat (s.ctx.read a) tag)
    refine ⟨_, hx, hset.others, fun j hj => ?_⟩
    rw [hset.rows j hj]
    exact State.openRow_act _ _ _ _ _
  · obtain ⟨x, hx⟩ := actOp_next hready (zero := true) (kind := .write) rfl hv h8 ha hi hr hp hu (.inl rfl)
    have hset := hrows.setsRows x d.toNat (s.rowReadied.openRow .write true d.toNat (s.ctx.read a) tag)
    refine ⟨_, hx, hset.others, fun j hj => ?_⟩
    rw [hset.rows j hj]
    exact State.openRow_actz _ _ _ _ _
  · have hw := hrows.woken (s.rowReadied.beatsWritten_wokenTo d.toNat (bankList s.ctx.gmBanks))
    have hset := hw.setsRows (s.rowReadied.beatsWritten d.toNat (bankList s.ctx.gmBanks)) d.toNat fun j =>
      { (s.rowReadied.ctx.bank j).row d.toNat with dirty := 0 }
    exact ⟨_, exec_wb_next hready hv h8 hi hp ho hb, hset.others, hset.rows, fun ht => hw.mem ht _ _ _⟩
  · have hset := s.readied_holdsRows.setsRows s.readied d.toNat fun _ => RowReg.reset
    refine ⟨_, exec_pre_next hm hv h8 hi hu, hset.others, fun j hj => ?_, fun ht => ?_⟩
    · rw [hset.rows j hj]
      rfl
    · exact (s.readied_holdsRows.mem ht _ _ _).trans s.readied_primes.mem
  · have hset := (hrows.woken (State.rowsSaved_wokenTo _ d.toNat (s.ctx.read a) (s.ctx.read b) (bankList s.ctx.gmBanks))).keepsRows d.toNat
    exact ⟨exec_saverow_next hready hv h8 ha hb hi hy hx hp ho hblk, hset.others, hset.rows⟩
  · obtain ⟨x, hx⟩ := exec_loadrow_next hready hv h8 ha hb hi hy hp ho hu hpin hd hlive
    have hset := hrows.setsRows x d.toNat fun j => s.rowReadied.loadReg s.rowReadied.ctx
      (s.rowReadied.rowPa .row (s.ctx.read a) j 0) (s.rowReadied.descriptorAt (s.ctx.read b) j)
    refine ⟨_, hx, hset.others, fun j hj => ?_⟩
    rw [hset.rows j hj]
    exact ⟨rfl, State.loadReg_closed _ _ _⟩

end Sys2Proof.Machine
end
